-- ==== Sys2Proof/Word.lean ====
section
/-!
DEFINITION. The word types and their plainest arithmetic (R3, R38).
-/

namespace Sys2Proof

/-- A byte. -/
abbrev Byte := BitVec 8
/-- A 32-bit register word. -/
abbrev Word := BitVec 32
/-- A 64-bit value: an even register and the one after it. -/
abbrev DWord64 := BitVec 64

/-- The `n` bytes of `x`, lowest first (R3: multi-byte values are little-endian). -/
def leBytes : Nat → Nat → List Byte
  | 0, _ => []
  | n + 1, x => BitVec.ofNat 8 x :: leBytes n (x / 256)

/-- The number that bytes hold, lowest first. -/
def leNat : List Byte → Nat
  | [] => 0
  | b :: bs => b.toNat + 256 * leNat bs

end Sys2Proof
end

