-- ==== Sys2Proof/Config.lean ====
section
/-!
DEFINITION. What the spec fixes for every module, and the values it leaves free. A free value is an opaque constant:
nothing in Lean knows its value, so a claim about it holds whatever it is.
-/

namespace Sys2Proof.Config

/-- Dies of a module (R1). -/
def dies : Nat := 4
/-- Cores of a die (R1). -/
def coresPerDie : Nat := 224
/-- Home slices of a die (R86). -/
def slicesPerDie : Nat := 96
/-- Quadrants of a core (R1). -/
def quads : Nat := 4
/-- Lanes of a quadrant (R259). -/
def lanes : Nat := 32
/-- Lines of a core's scratchpad (R131). -/
def spadLines : Nat := 2048
/-- Bytes of a cache or scratchpad line (R86, R131). -/
def lineBytes : Nat := 128
/-- Lines of a core's L1 cache, 128 KiB (R1), of which a page pinned in the core's SRAM takes half (R89). -/
def l1Lines : Nat := 1024
/-- Lines of a home slice, 2 MiB (R1). -/
def sliceLines : Nat := 16384
/-- Range-lock entries of a core (R137). -/
def lockEntries : Nat := 64
/-- Monitors of a home slice (R299). -/
def monitorsPerSlice : Nat := 256
/-- Unreleased commands of a band (R145). -/
def maxUnreleased : Nat := 32
/-- Handles that the device tracks for a band (R141). -/
def trackedHandles : Nat := 1024
/-- Children of a context not yet completed (R290). -/
def maxChildren : Nat := 65536
/-- The 64-bit value `%budget` holds at module reset (R301). -/
def noBudget : Nat := 0xFFFFFFFFFFFFFFFF

/-- Which of the two neighbours a transcendental result takes, by function, operand (R45: the spec does not fix it). -/
opaque neighbour : Nat → BitVec 32 → Bool
/-- Values the spec leaves open, one for each count of the state's free counter (DESIGN CHOICE, notes/assumptions/2.md). -/
opaque freeNat : Nat → Nat
/-- The die of another module at which an offset of its shared pool is homed (R86, R117): the other module's channels decide it
(DESIGN CHOICE, notes/assumptions/23.md). -/
opaque remoteDie (module off : Nat) : Nat
/-- The key slot that the trusted part's region map names for a GiB of the second tier (R367); a name outside 17 to 511 names none
(DESIGN CHOICE, notes/assumptions/72.md). -/
opaque regionName : Nat → Nat
/-- Where the loader placed a plan area (context, image address, plan index), where the state's own record of the loader's
placement does not say (R384 leaves it to the host). -/
opaque planBase : Nat → Nat → Nat → Nat

end Sys2Proof.Config
end

