-- ==== Sys2Proof/Machine/Num.lean ====
section
/-!
DEFINITION. Number formats and the rules of arithmetic (R33 to R49): exact values, rounding, sums, the transcendentals and
the generator hash.

An exact finite value is a sign, a natural number and a power of two, so every sum and product here is exact and is rounded
once, as the rules ask.
-/

namespace Sys2Proof.Machine.Num

/-! ### Formats (R33, R34) -/

/-- How a format treats its all-ones exponent (R34). -/
inductive Special where
  /-- Infinity and NaN, as F32, F16, B16 and F8B. -/
  | ieee
  /-- No infinity, one NaN pattern, as F8A. -/
  | f8a
  /-- Neither, as F4. -/
  | none
  deriving DecidableEq, Repr

/-- A floating-point format (R33): exponent bits, fraction bits, bias. -/
structure Fmt where
  e : Nat
  f : Nat
  bias : Nat
  special : Special
  deriving DecidableEq, Repr

def f32 : Fmt := ⟨8, 23, 127, .ieee⟩
def f16 : Fmt := ⟨5, 10, 15, .ieee⟩
def b16 : Fmt := ⟨8, 7, 127, .ieee⟩
def f8a : Fmt := ⟨4, 3, 7, .f8a⟩
def f8b : Fmt := ⟨5, 2, 15, .ieee⟩
def f4 : Fmt := ⟨2, 1, 1, .none⟩

/-- The width of a format. -/
def Fmt.width (t : Fmt) : Nat := 1 + t.e + t.f

/-- The canonical NaN, or its substitute where the format has none (R34). -/
def Fmt.nan (t : Fmt) : Nat :=
  match t.special with
  | .ieee => (2 ^ t.e - 1) * 2 ^ t.f + 2 ^ (t.f - 1)
  | .f8a => 2 ^ (t.e + t.f) - 1
  | .none => 2 ^ (t.e + t.f) - 1

/-- The bits of the largest finite magnitude (R33). -/
def Fmt.maxBits (t : Fmt) : Nat :=
  match t.special with
  | .ieee => (2 ^ t.e - 1) * 2 ^ t.f - 1
  | .f8a => 2 ^ (t.e + t.f) - 2
  | .none => 2 ^ (t.e + t.f) - 1

/-- The bits of +∞, in a format that has it. -/
def Fmt.infBits (t : Fmt) : Nat := (2 ^ t.e - 1) * 2 ^ t.f

/-- The sign bit's weight, or 0. -/
def Fmt.signBit (t : Fmt) (neg : Bool) : Nat := if neg then 2 ^ (t.e + t.f) else 0

/-- An exact value: NaN, an infinity, or (−1)^neg × n × 2^e; a zero keeps its sign. -/
inductive Val where
  | nan
  | inf (neg : Bool)
  | fin (neg : Bool) (n : Nat) (e : Int)
  deriving DecidableEq, Repr

/-- The value of an encoding (R33, R34). -/
def decode (t : Fmt) (x : Nat) : Val :=
  let neg := x / 2 ^ (t.e + t.f) % 2 == 1
  let ex := x / 2 ^ t.f % 2 ^ t.e
  let fr := x % 2 ^ t.f
  let ordinary : Val :=
    if ex = 0 then .fin neg fr (1 - (t.bias : Int) - t.f)
    else .fin neg (2 ^ t.f + fr) ((ex : Int) - t.bias - t.f)
  match t.special with
  | .ieee => if ex = 2 ^ t.e - 1 then (if fr = 0 then .inf neg else .nan) else ordinary
  | .f8a => if ex = 2 ^ t.e - 1 ∧ fr = 2 ^ t.f - 1 then .nan else ordinary
  | .none => ordinary

/-! ### Rounding (R40 to R42) -/

/-- Whether the magnitude between `k` and `k + 1` units, `rem` of `2^s` past `k`, goes up to `k + 1` (R40, R42). Modes: 0 rne,
1 rtz, 2 rup, 3 rdn, 4 rna, 5 sr (with the draw `u`), 6 rne.sat, 7 rtz.sat. -/
def goesUp (mode : Nat) (neg : Bool) (u k rem s : Nat) : Bool :=
  if rem = 0 then false
  else
    match mode with
    | 1 | 7 => false
    | 2 => !neg
    | 3 => neg
    | 4 => 2 ^ s ≤ 2 * rem
    | 5 => u < rem * 2 ^ 24 / 2 ^ s
    | _ => 2 ^ s < 2 * rem || (2 * rem == 2 ^ s && k % 2 == 1)

/-- What overflow gives (R41). -/
def overflowBits (t : Fmt) (mode : Nat) (neg : Bool) : Nat :=
  let big := t.signBit neg + t.maxBits
  match t.special with
  | .none => big
  | .ieee =>
    match mode with
    | 1 | 6 | 7 => big
    | 2 => if neg then big else t.infBits
    | 3 => if neg then t.signBit neg + t.infBits else big
    | _ => t.signBit neg + t.infBits
  | .f8a =>
    match mode with
    | 1 | 6 | 7 => big
    | 2 => if neg then big else t.nan
    | 3 => if neg then t.nan else big
    | _ => t.nan

/-- The exponent of the unit in the last place for a magnitude `n × 2^e`, with the exponent range unbounded above (R41). -/
def unitExp (t : Fmt) (n : Nat) (e : Int) : Int :=
  let top := e + Nat.log2 n
  let emin := 1 - (t.bias : Int)
  (if top < emin then emin else top) - t.f

/-- Bits of the magnitude `k × 2^u` in a format, or `none` if it is above the largest finite value. -/
def packMag (t : Fmt) (k : Nat) (u : Int) : Option Nat :=
  let b := if k < 2 ^ t.f then k
    else (u + t.f + t.bias).toNat * 2 ^ t.f + (k - 2 ^ t.f)
  if b ≤ t.maxBits then some b else none

/-- Rounds an exact value into a format in a mode, with the draw `u` for sr; `sat` makes overflow and infinite inputs the
largest finite value. The second result says whether sr drew, so that the counter advances (R42); an
infinity or a NaN never draws. DESIGN CHOICE: notes/assumptions/89.md. -/
def roundCore (t : Fmt) (mode u : Nat) (sat : Bool) (x : Val) : Nat × Bool :=
  match x with
  | .nan => (t.nan, false)
  | .inf neg =>
    match t.special with
    | .none => (t.signBit neg + t.maxBits, false)
    | .f8a => (if sat then t.signBit neg + t.maxBits else t.nan, false)
    | .ieee => (t.signBit neg + (if sat then t.maxBits else t.infBits), false)
  | .fin neg n e =>
    if n = 0 then (t.signBit neg, false)
    else
      let q := unitExp t n e
      let s := (q - e).toNat
      let k := if q ≤ e then n * 2 ^ (e - q).toNat else n / 2 ^ s
      let rem := if q ≤ e then 0 else n % 2 ^ s
      let k' := if goesUp mode neg u k rem s then k + 1 else k
      match packMag t k' q with
      | some b => (t.signBit neg + b, rem ≠ 0)
      | none => (overflowBits t (if sat then 6 else mode) neg, true)

/-- Rounding in a mode (R40, R41); modes 6 and 7 saturate. -/
def round (t : Fmt) (mode u : Nat) (x : Val) : Nat × Bool := roundCore t mode u (mode == 6 || mode == 7) x

/-- The integer that an exact finite value rounds to, and whether the value was not an integer. -/
def roundInt (mode u : Nat) (neg : Bool) (n : Nat) (e : Int) : Int × Bool :=
  let s := (-e).toNat
  let k := if 0 ≤ e then n * 2 ^ e.toNat else n / 2 ^ s
  let rem := if 0 ≤ e then 0 else n % 2 ^ s
  let k' := if goesUp mode neg u k rem s then k + 1 else k
  (if neg then -(k' : Int) else k', rem ≠ 0)

/-- Clamps an integer. -/
def clamp (lo hi x : Int) : Int := if x < lo then lo else if hi < x then hi else x

/-- The exact value of an integer. -/
def ofInt (x : Int) : Val := .fin (x < 0) x.natAbs 0

/-! ### Exact arithmetic (R44) -/

/-- The opposite value. -/
def neg : Val → Val
  | .nan => .nan
  | .inf s => .inf !s
  | .fin s n e => .fin (!s) n e

/-- A signed magnitude as an integer. -/
def signed (neg : Bool) (n : Nat) : Int := if neg then -(n : Int) else n

/-- The exact sum; an exact zero takes the sign that R44 gives it, which depends on the mode only through rdn. -/
def add (mode : Nat) : Val → Val → Val
  | .nan, _ => .nan
  | _, .nan => .nan
  | .inf s, .inf t => if s = t then .inf s else .nan
  | .inf s, .fin .. => .inf s
  | .fin .., .inf t => .inf t
  | .fin s n e, .fin t m f =>
    let g := min e f
    let x := signed s (n * 2 ^ (e - g).toNat) + signed t (m * 2 ^ (f - g).toNat)
    if x = 0 then
      if n = 0 ∧ m = 0 ∧ s = t then .fin s 0 0 else .fin (mode == 3) 0 0
    else .fin (decide (x < 0)) x.natAbs g

/-- The exact product. -/
def mul : Val → Val → Val
  | .nan, _ => .nan
  | _, .nan => .nan
  | .inf s, .inf t => .inf (s != t)
  | .inf s, .fin t n _ => if n = 0 then .nan else .inf (s != t)
  | .fin s n _, .inf t => if n = 0 then .nan else .inf (s != t)
  | .fin s n e, .fin t m f => .fin (s != t) (n * m) (e + f)

/-- `a < b` on values that are not NaN; the two zeros are equal. -/
def lt : Val → Val → Bool
  | .nan, _ => false
  | _, .nan => false
  | .inf s, .inf t => s && !t
  | .inf s, .fin .. => s
  | .fin .., .inf t => !t
  | .fin s n e, .fin t m f =>
    let g := min e f
    decide (signed s (n * 2 ^ (e - g).toNat) < signed t (m * 2 ^ (f - g).toNat))

/-- Numeric equality; false if either is NaN. -/
def eq (a b : Val) : Bool :=
  match a, b with
  | .nan, _ => false
  | _, .nan => false
  | _, _ => !lt a b && !lt b a

/-- Whether a value is NaN. -/
def isNan : Val → Bool
  | .nan => true
  | _ => false

/-- The sign of a value that is not NaN. -/
def sign : Val → Bool
  | .nan => false
  | .inf s => s
  | .fin s _ _ => s

/-! ### Fixed-point enclosures for the transcendentals (R45) -/

/-- Binary digits of the fixed-point evaluations. -/
def prec : Nat := 400
/-- π × 2^400, rounded down. -/
def piFix : Nat := 0x3243f6a8885a308d313198a2e03707344a4093822299f31d0082efa98ec4e6c89452821e638d01377be5466cf34e90c6cc0ac
/-- ln 2 × 2^400, rounded down. -/
def ln2Fix : Nat := 0xb17217f7d1cf79abc9e3b39803f2f6af40f343267298b62d8a0d175b8baafa2be7b876206debac98559552fb4afa1b10ed2e

/-- The integer square root, `fuel` binary digits long. -/
def isqrt : Nat → Nat → Nat
  | 0, _ => 0
  | k + 1, n =>
    let r := 2 * isqrt k (n / 4)
    if (r + 1) * (r + 1) ≤ n then r + 1 else r

/-- Sum over `k` of `t^k / k!`, with `t` and the result scaled by `2^prec`. -/
def expSum (t : Nat) : Nat → Nat → Nat → Nat
  | 0, _, _ => 0
  | fuel + 1, k, term => term + expSum t fuel (k + 1) (term * t / 2 ^ prec / k)

/-- `e^t` for `0 ≤ t < 1`, scaled. -/
def expFix (t : Nat) : Nat := expSum t 100 1 (2 ^ prec)

/-- The alternating series of sine (from `term = t`, `k = 2`) or cosine (from `term = 1`, `k = 1`), as the difference of its
positive and negative terms. -/
def altSum (t2 : Nat) : Nat → Nat → Nat → Bool → Int
  | 0, _, _, _ => 0
  | fuel + 1, k, term, minus =>
    signed minus term + altSum t2 fuel (k + 2) (term * t2 / 2 ^ prec / (k * (k + 1))) (!minus)

/-- sin(π r) for `0 ≤ r ≤ 1/2`, `r` and the result scaled by `2^prec`. -/
def sinPiFix (r : Nat) : Nat :=
  if 4 * r ≤ 2 ^ prec then
    let t := piFix * r / 2 ^ prec
    (altSum (t * t / 2 ^ prec) 60 2 t false).toNat
  else
    let t := piFix * (2 ^ (prec - 1) - r) / 2 ^ prec
    (altSum (t * t / 2 ^ prec) 60 1 (2 ^ prec) false).toNat

/-- Sum of `z^(2j+1)/(2j+1)`, scaled: the inverse hyperbolic tangent. -/
def atanhSum (z2 : Nat) : Nat → Nat → Nat → Nat
  | 0, _, _ => 0
  | fuel + 1, k, term => term / k + atanhSum z2 fuel (k + 2) (term * z2 / 2 ^ prec)

/-- log2 of `m / 2^f` for `1 ≤ m / 2^f < 2`, scaled. -/
def log2Fix (m f : Nat) : Nat :=
  let z := (m - 2 ^ f) * 2 ^ prec / (m + 2 ^ f)
  2 * atanhSum (z * z / 2 ^ prec) 140 1 z * 2 ^ prec / ln2Fix

/-- A transcendental's exact magnitude: `n × 2^e` itself, or strictly between it and `(n + 1) × 2^e`. -/
structure Encl where
  neg : Bool
  n : Nat
  e : Int
  exact : Bool
  deriving DecidableEq, Repr

/-- The two neighbours of an enclosed value in F32, the lesser magnitude first; the same one twice where the value is itself
an F32 value. -/
def Encl.neighbours (x : Encl) : Nat × Nat :=
  let v : Val := if x.exact then .fin x.neg x.n x.e else .fin x.neg (2 * x.n + 1) (x.e - 1)
  ((round f32 1 0 v).1, (round f32 (if x.neg then 3 else 2) 0 v).1)

/-- The reciprocal of `n × 2^e`. -/
def rcpEncl (s : Bool) (n : Nat) (e : Int) : Encl :=
  let k := 2 ^ (Nat.log2 n + 64)
  ⟨s, k / n, -e - (Nat.log2 n + 64 : Nat), k % n == 0⟩

/-- The square root of `n × 2^e`. -/
def sqrtEncl (n : Nat) (e : Int) : Encl :=
  let n := n * 2 ^ (if e % 2 = 0 then 64 else 65)
  let e := e - (if e % 2 = 0 then 64 else 65)
  let r := isqrt 100 n
  ⟨false, r, e / 2, r * r == n⟩

/-- The reciprocal square root of `n × 2^e`. -/
def rsqrtEncl (n : Nat) (e : Int) : Encl :=
  let n := n * 2 ^ (e % 2).toNat
  let e := e - e % 2
  let k := 2 ^ (2 * (Nat.log2 n + 64))
  let r := isqrt (Nat.log2 n + 80) (k / n)
  ⟨false, r, -(e / 2) - (Nat.log2 n + 64 : Nat), r * r * n == k⟩

/-- 2 to the power of `(−1)^s × n × 2^e`. -/
def exp2Encl (s : Bool) (n : Nat) (e : Int) : Encl :=
  if 0 ≤ e ∧ 4096 ≤ n * 2 ^ e.toNat then
    -- beyond every F32 magnitude: above the largest finite value, or below the least
    ⟨false, 1, if s then -4096 else 4096, false⟩
  else
    let whole := if 0 ≤ e then n * 2 ^ e.toNat else n / 2 ^ (-e).toNat
    let rem := if 0 ≤ e then 0 else n % 2 ^ (-e).toNat
    if rem = 0 then ⟨false, 1, signed s whole, true⟩
    else if 4096 ≤ whole then ⟨false, 1, if s then -4096 else 4096, false⟩
    else
      let fr := rem * 2 ^ prec / 2 ^ (-e).toNat
      let i : Int := if s then -(whole : Int) - 1 else whole
      let fr := if s then 2 ^ prec - fr else fr
      ⟨false, expFix (fr * ln2Fix / 2 ^ prec), i - prec, false⟩

/-- log2 of `n × 2^e`, `n` not 0. -/
def log2Encl (n : Nat) (e : Int) : Encl :=
  let f := Nat.log2 n
  let w := e + f
  let fr := log2Fix n f
  if n = 2 ^ f then ⟨decide (w < 0), w.natAbs, 0, true⟩
  else if 0 ≤ w then ⟨false, w.toNat * 2 ^ prec + fr, -prec, false⟩
  else ⟨true, w.natAbs * 2 ^ prec - fr - 1, -prec, false⟩

/-- sin(π x) for `x = (−1)^s × n × 2^e`; at an integer it is a zero of the operand's sign, as IEEE 754 has it.
PRESUMED: notes/assumptions/21.md. -/
def sinpiEncl (s : Bool) (n : Nat) (e : Int) : Encl :=
  if 0 ≤ e then ⟨s, 0, 0, true⟩
  else
    let d := 2 ^ (-e).toNat
    let odd := n / d % 2 == 1
    let r := n % d
    if r = 0 then ⟨s, 0, 0, true⟩
    else
      let q := if d < 2 * r then d - r else r
      if 2 * q = d then ⟨s != odd, 1, 0, true⟩
      else ⟨s != odd, sinPiFix (q * 2 ^ prec / d), -prec, false⟩

/-- cos(π x), as sin(π (x + 1/2)) of the magnitude; at an odd multiple of one half it is +0, as IEEE 754 has it.
PRESUMED: notes/assumptions/21.md. -/
def cospiEncl (n : Nat) (e : Int) : Encl :=
  let n' := if 0 ≤ e then n * 2 ^ e.toNat * 2 + 1
    else n * 2 + 2 ^ (-e).toNat
  let e' := if 0 ≤ e then -1 else e - 1
  let r := sinpiEncl false n' e'
  if r.n = 0 then ⟨false, 0, 0, true⟩ else r

/-- tanh of `(−1)^s × n × 2^e`, `n` not 0. -/
def tanhEncl (s : Bool) (n : Nat) (e : Int) : Encl :=
  let top := e + Nat.log2 n
  if top < -14 then
    -- x − x³/3 < tanh x < x, so the neighbours are the operand and the one before it
    ⟨s, n * 2 ^ 64 - 1, e - 64, false⟩
  else if 5 ≤ top then ⟨s, 2 ^ 64 - 1, -64, false⟩
  else
    let x2 := if 0 ≤ e then n * 2 ^ e.toNat * 2 * 2 ^ prec else n * 2 * 2 ^ prec / 2 ^ (-e).toNat
    let k := x2 / ln2Fix
    -- e^(−2x) = 2^(−k−1) × e^((k+1) ln 2 − 2x)
    let ex := expFix ((k + 1) * ln2Fix - x2) / 2 ^ (k + 1)
    ⟨s, (2 ^ prec - ex) * 2 ^ prec / (2 ^ prec + ex), -prec, false⟩

/-- The transcendentals, by FN of OP 0x12. -/
inductive Fun where
  | rcp | rsqrt | sqrt | exp2 | log2 | sinpi | cospi | tanh
  deriving DecidableEq, Repr

/-- The number of a transcendental (FN of OP 0x12, R189). -/
def Fun.code : Fun → Nat
  | .rcp => 0 | .rsqrt => 1 | .sqrt => 2 | .exp2 => 3 | .log2 => 4 | .sinpi => 5 | .cospi => 6 | .tanh => 7

/-- The two values that R45 allows for a transcendental: the neighbours of the exact result, or one value twice. -/
def Fun.allowed (f : Fun) (x : BitVec 32) : Nat × Nat :=
  let both (n : Nat) : Nat × Nat := (n, n)
  let nan := f32.nan
  let inf := f32.infBits
  let one := 0x3F800000
  let m := 0x80000000
  match decode f32 x.toNat with
  | .nan => both nan
  | .inf s =>
    both <| match f with
    | .rcp => if s then m else 0
    | .rsqrt => if s then nan else 0
    | .sqrt | .log2 => if s then nan else inf
    | .exp2 => if s then 0 else inf
    | .sinpi | .cospi => nan
    | .tanh => if s then m + one else one
  | .fin s n e =>
    if n = 0 then
      both <| match f with
      | .rcp | .rsqrt => if s then m + inf else inf
      | .sqrt | .sinpi | .tanh => if s then m else 0
      | .exp2 | .cospi => one
      | .log2 => m + inf
    else
      match f with
      | .rcp => (rcpEncl s n e).neighbours
      | .rsqrt => if s then both nan else (rsqrtEncl n e).neighbours
      | .sqrt => if s then both nan else (sqrtEncl n e).neighbours
      | .exp2 => (exp2Encl s n e).neighbours
      | .log2 => if s then both nan else (log2Encl n e).neighbours
      | .sinpi => (sinpiEncl s n e).neighbours
      | .cospi => (cospiEncl n e).neighbours
      | .tanh => (tanhEncl s n e).neighbours

/-- A transcendental result: one of the allowed neighbours; which one is a free value (R45).
DESIGN CHOICE: notes/assumptions/2.md. -/
def Fun.eval (f : Fun) (x : BitVec 32) : BitVec 32 :=
  let a := f.allowed x
  if a.1 = a.2 then BitVec.ofNat 32 a.1
  else if Config.neighbour f.code x then BitVec.ofNat 32 a.2 else BitVec.ofNat 32 a.1

/-! ### The generator hash (R235) -/

/-- The hash's four rounds. -/
def hashRounds : Nat → BitVec 32 → BitVec 32 → BitVec 32
  | 0, a, b => a ^^^ b
  | k + 1, a, b =>
    let a := a * 0x85EBCA6B
    let a := a ^^^ (a >>> 13) ^^^ b
    let b := b * 0xC2B2AE35
    let b := b ^^^ (b >>> 16) ^^^ a
    hashRounds k a b

/-- The hash of a seed and two coordinates. -/
def hash (seed : BitVec 64) (i j : BitVec 32) : BitVec 32 :=
  hashRounds 4 (seed.setWidth 32 ^^^ i) ((seed >>> 32).setWidth 32 ^^^ j)

/-- The effective seed (R235). -/
def effSeed (seed : BitVec 64) (id : Nat) : BitVec 64 := seed ^^^ (BitVec.ofNat 64 id * 0x9E3779B97F4A7C15#64)

/-! ### F32 operations (R185, R186, R188) -/

/-- The value of an F32 word. -/
def ofF32 (x : BitVec 32) : Val := decode f32 x.toNat

/-- A value rounded to F32 in rne. -/
def rneF32 (x : Val) : BitVec 32 := BitVec.ofNat 32 (round f32 0 0 x).1

/-- F32 addition in rne, as reductions and matrix sums use it. -/
def addRne (a b : BitVec 32) : BitVec 32 := rneF32 (add 0 (ofF32 a) (ofF32 b))

/-- fmin on encodings of a format (R185): a single NaN is ignored, −0 is less than +0. -/
def fmin (t : Fmt) (a b : Nat) : Nat :=
  let x := decode t a
  let y := decode t b
  if isNan x then (if isNan y then t.nan else b)
  else if isNan y then a
  else if lt x y then a
  else if lt y x then b
  else if sign x then a else b

/-- fmax on encodings of a format (R185). -/
def fmax (t : Fmt) (a b : Nat) : Nat :=
  let x := decode t a
  let y := decode t b
  if isNan x then (if isNan y then t.nan else b)
  else if isNan y then a
  else if lt x y then b
  else if lt y x then a
  else if sign x then b else a

/-- The class bit of an F32 word (R188). -/
def classBit (x : BitVec 32) : Nat :=
  match ofF32 x with
  | .nan => 8
  | .inf s => if s then 0 else 7
  | .fin s n _ =>
    if n = 0 then (if s then 3 else 4)
    else if n < 2 ^ 23 then (if s then 2 else 5)
    else if s then 1 else 6

end Sys2Proof.Machine.Num
end

