-- ==== Sys2Proof/Machine/Flags.lean ====
section
/-!
DEFINITION. The machine keeps no flag register (R35): what other machines hold in flags are predicates, carries written to
registers and conditions tested on words. Every such computation is here.
-/

namespace Sys2Proof.Machine

/-- The carry of an unsigned addition (R174 `addc`). -/
def carryOut (a b : Word) : Bool := decide (2 ^ 32 ≤ a.toNat + b.toNat)
/-- The borrow of an unsigned subtraction (R174 `subb`). -/
def borrowOut (a b : Word) : Bool := decide (a.toNat < b.toNat)

/-- Integer conditions (R180), by FN of OP 0x08 and 0x09. -/
inductive ICmp where
  | eq | ne | lt | le | ltn | len | test
  deriving DecidableEq, Repr

/-- An integer condition of two words. -/
def ICmp.eval (c : ICmp) (a y : Word) : Bool :=
  match c with
  | .eq => a == y
  | .ne => a != y
  | .lt => a.slt y
  | .le => a.sle y
  | .ltn => a.ult y
  | .len => a.ule y
  | .test => (a &&& y) != 0

/-- F32 conditions (R188), by FN of OP 0x11. -/
inductive FCmp where
  | eq | ne | lt | le | un
  deriving DecidableEq, Repr

/-- An F32 condition of two words: NaN makes every one false but ne and un. -/
def FCmp.eval (c : FCmp) (a b : Word) : Bool :=
  let x := Num.ofF32 a
  let y := Num.ofF32 b
  match c with
  | .eq => Num.eq x y
  | .ne => !Num.eq x y
  | .lt => Num.lt x y
  | .le => Num.lt x y || Num.eq x y
  | .un => Num.isNan x || Num.isNan y

/-- `fclass`: the class bit of A is set in B[8:0] (R188). -/
def classIn (a b : Word) : Bool := b.getLsbD (Num.classBit a)

/-- The conditions of the WAIT instructions (R302), by FN: eq, ne, geu, mask. -/
def waitCond (fn : Nat) (word value : Word) : Bool :=
  match fn with
  | 0 => word == value
  | 1 => word != value
  | 2 => value.ule word
  | _ => (word &&& value) != 0

/-- The tests of a conditional edge (R285), by code. -/
def edgeTest (test : Nat) (r c : Nat) : Bool :=
  match test with
  | 0 => true
  | 1 => r == c
  | 2 => r != c
  | 3 => decide (r < c)
  | 4 => decide (c ≤ r)
  | 5 => (r &&& c) != 0
  | 6 => (r &&& c) == 0
  | _ => false

/-- A truth value as a word (R173, R181). -/
def boolWord (b : Bool) : Word := if b then 1 else 0

end Sys2Proof.Machine
end

