-- ==== Sys2Proof/Machine/Map.lean ====
section
/-!
DEFINITION. Sparse maps in one canonical form (keys strictly rising, no entry equal to the default) and byte memory.
-/

namespace Sys2Proof.Machine

/-- A sparse map: its keys rise strictly, and a key that is not listed stands for the map's default. -/
abbrev SMap (α : Type) := List (Nat × α)

namespace SMap
variable {α : Type}

/-- The entry listed at a key. -/
def find? : SMap α → Nat → Option α
  | [], _ => none
  | (k, v) :: m, n => if n < k then none else if n = k then some v else find? m n

/-- The value at a key, `d` where nothing is listed. -/
def getD (m : SMap α) (n : Nat) (d : α) : α := (m.find? n).getD d

/-- Lists a value at a key. -/
def insert : SMap α → Nat → α → SMap α
  | [], n, x => [(n, x)]
  | (k, v) :: m, n, x =>
    if n < k then (n, x) :: (k, v) :: m else if n = k then (n, x) :: m else (k, v) :: insert m n x

/-- Unlists a key. -/
def erase : SMap α → Nat → SMap α
  | [], _ => []
  | (k, v) :: m, n => if n < k then (k, v) :: m else if n = k then m else (k, v) :: erase m n

/-- Sets a key whose default is `d`: the default itself is never listed. -/
def put [DecidableEq α] (m : SMap α) (n : Nat) (d x : α) : SMap α := if x = d then m.erase n else m.insert n x

/-- Changes the listed entry at a key; a key that is not listed stays so. -/
def modify (m : SMap α) (n : Nat) (f : α → α) : SMap α :=
  match m.find? n with
  | some v => m.insert n (f v)
  | none => m

/-- The keys rise strictly from `lo` on, and every listed value passes `ok`. -/
def wfFrom (ok : α → Bool) : Nat → SMap α → Bool
  | _, [] => true
  | lo, (k, v) :: m => decide (lo ≤ k) && ok v && wfFrom ok (k + 1) m

end SMap

/-- Adds what is not there yet. -/
def addOnce (xs : List Nat) (x : Nat) : List Nat := if xs.contains x then xs else xs ++ [x]

/-- Memory: bytes by physical address. -/
abbrev Memory := List Host.Cell

namespace Memory

/-- What an address that is not listed reads as: every byte of the module's memory reads zero after bring-up (R366).
DESIGN CHOICE: notes/assumptions/3.md. -/
def unlisted : Byte := 0

/-- One byte. -/
def read (m : Memory) (a : Nat) : Byte := SMap.getD m a unlisted

/-- Writes one byte; writing what an unlisted address reads as unlists it. -/
def write (m : Memory) (a : Nat) (b : Byte) : Memory := SMap.put m a unlisted b

/-- `n` bytes from an address. -/
def readBytes (m : Memory) : Nat → Nat → List Byte
  | _, 0 => []
  | a, n + 1 => m.read a :: readBytes m (a + 1) n

/-- Writes bytes from an address on. -/
def writeBytes (m : Memory) : Nat → List Byte → Memory
  | _, [] => m
  | a, b :: bs => writeBytes (m.write a b) (a + 1) bs

/-- The little-endian number of `n` bytes (R3). -/
def readNat (m : Memory) (a n : Nat) : Nat := leNat (m.readBytes a n)

/-- Stores a number in `n` bytes, little-endian (R3). -/
def writeNat (m : Memory) (a n x : Nat) : Memory := m.writeBytes a (leBytes n x)

/-- The canonical form: addresses strictly rising, no entry equal to what an unlisted address reads as. -/
def wf (m : Memory) : Bool := SMap.wfFrom (fun b => b != unlisted) 0 m

end Memory

end Sys2Proof.Machine
end

