-- ==== Sys2Proof/Syntax.lean ====
section
/-!
DEFINITION. The instructions and device events of the Gusum 9: one constructor for each row of the opcode table.

A word's operand fields stand as the raw bit fields of formats A, I, L, M, B, E and X (R16); CH and SW are not
operands of an instruction but of the word that carries it (`DWord` in Decode.lean). A row without a word is a
device event (95_what_each_step_holds): its arguments say where it happens and, for an input from outside the
module, what arrives. The events stand first, then the words in the table's order.
-/

namespace Sys2Proof

/-- The rows of the opcode table. -/
inductive Instr where
  /-- ISSUE_SLOT: Each quadrant's chooser picks the oldest ready strand, forms a sheaf and issues its chain (R262) -/
  | issueSlot (die core quad : Nat)
  /-- GATHER_WINDOW_EXPIRY: After 256 issue slots a held band issues the engine word partially and traps (R267) -/
  | gatherWindowExpiry (clump band : Nat)
  /-- SHORT_LATENCY_RESULT_RETURN: A short-latency result lands in its register and may release a switch-marker park (R14) -/
  | shortLatencyResultReturn (clump band lane idx : Nat)
  /-- ENGINE_RESULT_LAND: An engine write to a register lands, releasing words waiting at issue (R15) -/
  | engineResultLand (clump band idx : Nat)
  /-- TRAP_DELIVERY: Once short-latency results land, a strand enters the handler with %epc and %trapinfo set (R315) -/
  | trapDelivery (clump band lane : Nat)
  /-- CORE_CLOCK_TICK: A core's logical clock advances at least one tick every 32 cycles (R90) -/
  | coreClockTick (core extra cycles : Nat)
  /-- L2_EVICTION: A home slice evicts a line after recalling its owner and invalidating wi sharers (R92) -/
  | l2Eviction (line : Nat)
  /-- SHARER_FILTER_EVICTION: Evicting a filter or region entry invalidates every sharer it covers (R97) -/
  | sharerFilterEviction (region cluster : Nat)
  /-- TOKEN_BUCKET_REFILL: Tokens are added to a context's bucket at its rate per 1,024 L2 clocks (R100) -/
  | tokenBucketRefill (slice ctx : Nat)
  /-- PORT_IDLE_DETECT: A context with no waiting request for 64 L2 clocks becomes idle at the port (R101) -/
  | portIdleDetect (slice ctx : Nat)
  /-- PORT_REQUEST_SERVE: A waiting request is served at the slice port when a token is available (R101) -/
  | portRequestServe (slice : Nat)
  /-- WAIT_MONITOR_WAKE: A write satisfying an armed monitor makes the waiting band ready (R298) -/
  | waitMonitorWake (idx : Nat)
  /-- CLUMP_SWAP_OUT: A clump fully parked for over 4,096 cycles is swapped out (R300) -/
  | clumpSwapOut (clump : Nat)
  /-- WAIT_BUDGET_EXHAUSTED: When %budget reaches zero the context is pre-empted and the host interrupted (R301) -/
  | waitBudgetExhausted (ctx : Nat)
  /-- SLEEP_EXPIRY: A sleeping strand's cycle count runs out and it returns with status 0 (R303) -/
  | sleepExpiry (clump band lane : Nat)
  /-- YIELD_EXPIRY: A yielding strand becomes ready after 16 issue slots (R303) -/
  | yieldExpiry (clump band lane : Nat)
  /-- CLUMP_PLACEMENT: The command processor places a waiting clump on a core once its resources fit (R287) -/
  | clumpPlacement (idx die core : Nat)
  /-- CLUMP_END: After its last band ends, a clump ends once its engine operations complete (R275) -/
  | clumpEnd (clump : Nat)
  /-- NODE_COMPLETION: A node completes when its planting and all its descendants have ended (R286) -/
  | nodeCompletion (graph node : Nat)
  /-- BAND_RESTART: A band whose strands are all pending restart restarts at the successor (R276) -/
  | bandRestart (clump band : Nat)
  /-- AGGREGATION_WINDOW_CLOSE: A launch window closes after 1,024 cycles or 256 requests and forms a merged planting (R291) -/
  | aggregationWindowClose (die idx : Nat)
  /-- SPAWN_BIN_TIMER_EXPIRY: A bin's timer runs out and launches a band of its oldest records (R295) -/
  | spawnBinTimerExpiry (die idx : Nat)
  /-- SQTAIL_DOORBELL: A write to SQTAIL advances a submission queue's tail (R281) -/
  | sqtailDoorbell (queue value : Nat)
  /-- COMMAND_ACCEPT: The device reads and journals the next command once the previous completes (R281) -/
  | commandAccept (queue : Nat)
  /-- CMD_NOP: Command that does nothing and completes at once (R283) -/
  | cmdNop (queue : Nat)
  /-- CMD_GRAPH: Command that checks a graph binary and walks its nodes (R284) -/
  | cmdGraph (queue : Nat)
  /-- CMD_SIGNAL: Command that writes a value as a system-scope release (R283) -/
  | cmdSignal (queue : Nat)
  /-- CMD_MODE_SWITCH: Command that loads context parameters and budget on every core of the context (R283) -/
  | cmdModeSwitch (queue : Nat)
  /-- CMD_WAIT_VALUE: Command that holds its queue until a word reaches a value (R283) -/
  | cmdWaitValue (queue : Nat)
  /-- WAIT_VALUE_SATISFIED: The awaited word reaches the value and the wait-value command completes (R283) -/
  | waitValueSatisfied (queue : Nat)
  /-- COMMAND_COMPLETION: A completed command writes COMPV to COMPL and raises its interrupt if asked (R283) -/
  | commandCompletion (queue : Nat)
  /-- CHCMD_APPLY: Writing CHCMD starts applying the CHOWN table as one ownership change (R356) -/
  | chcmdApply (value : Nat)
  /-- CHANNEL_CHANGE_PROCEED: A waiting ownership change proceeds once the affected contexts are idle (R356) -/
  | channelChangeProceed
  /-- CHANNEL_ZEROING_COMPLETE: Reassigned channels finish zeroing and CHST returns to 0 (R356) -/
  | channelZeroingComplete
  /-- HSTAT_CLEAR: Writing 1 to a field of HSTAT clears that counter (R352) -/
  | hstatClear (value : Nat)
  /-- SQREF_CLEAR: Writing 1 to SQREF clears the refused-command count (R353) -/
  | sqrefClear (queue value : Nat)
  /-- RESOLVE_RETRY: Host resolve with retry makes accesses parked in the range walk again (R332) -/
  | resolveRetry (ctx base len : Nat)
  /-- RESOLVE_ABORT: Host resolve with abort traps or ends accesses parked in the range (R332) -/
  | resolveAbort (ctx base len : Nat)
  /-- INVAL_REQUEST: A host write to INVAL starts invalidating a virtual range's translations (R333) -/
  | invalRequest (ctx base len : Nat)
  /-- INVALIDATION_COMPLETE: Invalidation completes once translations, users and earlier walks are done (R333) -/
  | invalidationComplete (ctx : Nat)
  /-- CCTL_PREEMPT: Host request to pre-empt a context (R318) -/
  | cctlPreempt (ctx : Nat)
  /-- CCTL_RESUME: Host request to resume a context from its save area (R327) -/
  | cctlResume (ctx : Nat)
  /-- CCTL_DISCARD: Host request to discard a context (R353) -/
  | cctlDiscard (ctx : Nat)
  /-- CCTL_DEBUG_ENABLE: Enables host debugging so brk becomes a context fault (R316) -/
  | cctlDebugEnable (ctx : Nat)
  /-- CCTL_DEBUG_DISABLE: Disables host debugging for a context (R353) -/
  | cctlDebugDisable (ctx : Nat)
  /-- WINDOW_ENABLE: Enabling a reduction window registers it with every switch on its routes (R359) -/
  | windowEnable (win value : Nat)
  /-- WINDOW_DISABLE: Disabling a window discards partial sums without writing DONE (R364) -/
  | windowDisable (win value : Nat)
  /-- CONTROL_SPACE_WRITE: Write to a control register without behaviour of its own, refused whole if out of range (R355) -/
  | controlSpaceWrite (offset size value : Nat)
  /-- PREEMPTION: A context is stopped, its engines settled and its clumps saved (R318) -/
  | preemption (ctx : Nat)
  /-- DRAIN_FALLBACK_TIMEOUT: A clump not drained within 2^20 cycles is saved by rollback (R321) -/
  | drainFallbackTimeout (clump : Nat)
  /-- FAULT_QUEUE_POST: A walk meeting V = 0 posts a fault-queue entry when the ring has room (R331) -/
  | faultQueuePost (ctx : Nat)
  /-- MIGRATION_REQUEST: Host or firmware starts a post-copy page migration (R68) -/
  | migrationRequest (ctx va src : Nat)
  /-- CHUNK_PULL_LAND: A migrating 4 KiB chunk lands at the new home, releasing parked accesses (R68) -/
  | chunkPullLand (mig chunk : Nat) (ok : Bool)
  /-- ROW_REFRESH: A bank's row pointer refreshes the next row and advances (R56) -/
  | rowRefresh (channel bank : Nat)
  /-- THERMAL_BAND_SAMPLE: Each 1 ms sample of the hottest layer may switch the stack's refresh band (R56) -/
  | thermalBandSample (stack : Nat) (hot : Bool)
  /-- BANK_COMMAND_ACCEPT: A group's multicast port accepts a bank command when every participating queue has room (R79) -/
  | bankCommandAccept (group : Nat)
  /-- BANK_COMMAND_EXECUTE: A bank runs its next queued command once refresh leaves it free (R79) -/
  | bankCommandExecute (channel bank : Nat)
  /-- BANK_RED_TREE: Partials reach the base-die tree and the reduced result lands in the scratchpad (R80) -/
  | bankRedTree (op : Nat) (perm : List Nat)
  /-- COPY_COMPLETION: A copy's writes are done within scope and its completion write is made (R143) -/
  | copyCompletion (op : Nat)
  /-- SPAD_PARKED_LOAD_COMPLETE: A load parked on absent scratchpad lines completes once they are present (R135) -/
  | spadParkedLoadComplete (clump band lane : Nat)
  /-- ENGINE_ISSUE_AFTER_LOCK: An engine word waiting at issue issues once conflicting range locks release (R139) -/
  | engineIssueAfterLock (clump band : Nat)
  /-- REGION_TABLE_FILL: A region-table miss returns and the parked region word completes (R159) -/
  | regionTableFill (clump band lane : Nat)
  /-- TILE_LOAD_COMPLETE: A tld or tscale copy into the operand buffer finishes and releases its lock (R206) -/
  | tileLoadComplete (op : Nat)
  /-- SLOT_LOAD_COMPLETE: An mload or mloadg finishes aligning its slot (R209) -/
  | slotLoadComplete (op : Nat)
  /-- MATRIX_STEP_RETIRE: A step's tree results reach the accumulator (R212) -/
  | matrixStepRetire (op : Nat)
  /-- DRAIN_COMPLETE: A drain's writes land and its locks are released (R226) -/
  | drainComplete (op : Nat)
  /-- MGEMM_SEQUENCE_STEP: The sequencer reaches a boundary and issues its next load, step or drain (R231) -/
  | mgemmSequenceStep (op : Nat)
  /-- GSET_DESCRIPTOR_READ: gset's descriptor read returns and loads the generator or raises a pending fault (R239) -/
  | gsetDescriptorRead (op : Nat)
  /-- TAPE_CHUNK_READBACK: A written-out tape chunk is read back and the parked pop continues (R245) -/
  | tapeChunkReadback (clump band : Nat)
  /-- TAPE_SPILL_LAND: A spilled tape chunk lands in second-tier memory and the band unparks (R252) -/
  | tapeSpillLand (clump band : Nat)
  /-- FENCE_COMPLETE: A parked fence's wait condition is met and the band resumes (R113) -/
  | fenceComplete (clump band lane : Nat)
  /-- WINDOW_CONTRIBUTION: A contribution to a reduction window is merged in the switches (R361) -/
  | windowContribution (win loc : Nat) (bytes : List Nat)
  /-- WINDOW_GENERATION_END: A window's locations have all contributions; results and DONE are written (R363) -/
  | windowGenerationEnd (win : Nat)
  /-- MORTAS_PORT_FAILURE: A failed port's traffic moves to other routes and accesses retry (R358) -/
  | mortasPortFailure (port : Nat)
  /-- MODULE_FAILURE: Loss of a module makes its window's pages lost (R358) -/
  | moduleFailure (module : Nat)
  /-- PARTITION_BUILD: The fabric manager assigns modules, ports and routes to a hard partition (R357) -/
  | partitionBuild (chip psize : Nat) (ports : List Nat)
  /-- HOST_CXL_MEM_ACCESS: A host read or write of device memory performs at the home slice (R128) -/
  | hostCxlMemAccess (decoder offset : Nat) (bytes : List Nat)
  /-- HOST_SNOOP: A host snoop on CXL.cache is served at the home slice (R350) -/
  | hostSnoop (line : Nat) (bytes : List Nat)
  /-- SOFT_ERROR: An uncorrectable soft error poisons a granule, line or accumulator (R317) -/
  | softError (kind place idx : Nat)
  /-- MODULE_RESET: Module reset verifies firmware and runs bring-up (R366) -/
  | moduleReset (verified : Bool)
  /-- FIRMWARE_UPDATE: A PLDM type 5 update stages a new image for the next reset (R365) -/
  | firmwareUpdate (valid : Bool)
  /-- SPDM_REQUEST: An SPDM request is answered with signed measurements or challenge (R368) -/
  | spdmRequest
  /-- KEY_SLOT_LOAD: The trusted part loads a key slot after zeroing the memory it covers (R367) -/
  | keySlotLoad (slot key : Nat)
  /-- CLOCK_THROTTLE: Power or coolant limits step the arithmetic clock down or back up (R372) -/
  | clockThrottle (up : Bool)
  /-- THERMAL_SHUTDOWN: At 105 °C junction every context stops and compute dies power down (R372) -/
  | thermalShutdown
  /-- WINDOW_REGISTRATION_COMPLETE: Registration of an enabled reduction window with every switch on the partition's routes finishes, and WCFG [31] then reads 1 (R359) -/
  | windowRegistrationComplete (win : Nat)
  /-- ATOMICOP_ROUTING_ENABLE: The host enables or disables AtomicOp routing, which decides whether CXL.io atomics travel as AtomicOp requests or as a read followed by a write (R351) -/
  | atomicopRoutingEnable (enable : Bool)
  /-- PLDM_PLATFORM_MONITORING: A PLDM type 2 platform-monitoring request arrives over MCTP on the management port and is served by the untrusted part (R373) -/
  | pldmPlatformMonitoring
  /-- RECOVERY_IMAGE_DELIVERY: In recovery, the host delivers a firmware image through a DOE mailbox to the trusted part (R365) -/
  | recoveryImageDelivery (valid : Bool)
  /-- NOP: Does nothing; with SW set it acts as a pure switch marker (R31) -/
  | nop
  /-- MOV: Copies a vector register, or a uniform register with UA, into a vector register (R170) -/
  | mov (d a : BitVec 7)
  /-- MOVC: Reads a control register into a vector register (R170) -/
  | movc (d a : BitVec 7)
  /-- WRC: Writes a vector register into a writable control register (R170) -/
  | wrc (d a : BitVec 7)
  /-- ELECT: Sets a predicate true in the lowest-lane participant of each band in the sheaf (R173) -/
  | elect (d : BitVec 3)
  /-- AMASK: Writes the mask of each band's participating lanes (R173) -/
  | amask (d : BitVec 7)
  /-- ADD: Adds two 32-bit integers modulo 2^32 (R174) -/
  | add (d a b : BitVec 7)
  /-- SUB: Subtracts two 32-bit integers modulo 2^32 (R174) -/
  | sub (d a b : BitVec 7)
  /-- ADDC: Gives the unsigned carry of A + B (R174) -/
  | addc (d a b : BitVec 7)
  /-- SUBB: Gives the unsigned borrow of A − B (R174) -/
  | subb (d a b : BitVec 7)
  /-- MIN: Signed minimum of two registers (R174) -/
  | min (d a b : BitVec 7)
  /-- MAX: Signed maximum of two registers (R174) -/
  | max (d a b : BitVec 7)
  /-- MINN: Unsigned minimum of two registers (R174) -/
  | minn (d a b : BitVec 7)
  /-- MAXN: Unsigned maximum of two registers (R174) -/
  | maxn (d a b : BitVec 7)
  /-- ADDI: Adds a signed immediate to a register (R174) -/
  | addi (d a imm : BitVec 7)
  /-- RSUBI: Subtracts a register from an immediate (R174) -/
  | rsubi (d a imm : BitVec 7)
  /-- MINI: Signed minimum of a register and an immediate (R174) -/
  | mini (d a imm : BitVec 7)
  /-- MAXI: Signed maximum of a register and an immediate (R174) -/
  | maxi (d a imm : BitVec 7)
  /-- MINNI: Unsigned minimum of a register and an immediate (R174) -/
  | minni (d a imm : BitVec 7)
  /-- MAXNI: Unsigned maximum of a register and an immediate (R174) -/
  | maxni (d a imm : BitVec 7)
  /-- ANDI: Bitwise AND with an immediate (R174) -/
  | andi (d a imm : BitVec 7)
  /-- ORI: Bitwise OR with an immediate (R174) -/
  | ori (d a imm : BitVec 7)
  /-- MUL_LO: Low 32 bits of a 32×32 product (R175) -/
  | mulLo (d a b : BitVec 7)
  /-- MUL_HI: High 32 bits of a signed product (R175) -/
  | mulHi (d a b : BitVec 7)
  /-- MUL_HIN: High 32 bits of an unsigned product (R175) -/
  | mulHin (d a b : BitVec 7)
  /-- MAD_LO: Adds the low product half into D (R175) -/
  | madLo (d a b : BitVec 7)
  /-- MAD_HI: Adds the high signed product half into D (R175) -/
  | madHi (d a b : BitVec 7)
  /-- DIV: Signed quotient truncated toward zero, with fixed results for zero divisor and overflow (R176) -/
  | div (d a b : BitVec 7)
  /-- DIVN: Unsigned quotient (R176) -/
  | divn (d a b : BitVec 7)
  /-- REM: Signed remainder with the sign of A (R176) -/
  | rem (d a b : BitVec 7)
  /-- AND: Bitwise AND (R177) -/
  | and (d a b : BitVec 7)
  /-- OR: Bitwise OR (R177) -/
  | or (d a b : BitVec 7)
  /-- XOR: Bitwise XOR (R177) -/
  | xor (d a b : BitVec 7)
  /-- ANDN: A AND NOT B (R177) -/
  | andn (d a b : BitVec 7)
  /-- ORN: A OR NOT B (R177) -/
  | orn (d a b : BitVec 7)
  /-- XNOR: NOT (A XOR B) (R177) -/
  | xnor (d a b : BitVec 7)
  /-- NOT: Bitwise NOT of A (R177) -/
  | not (d a : BitVec 7)
  /-- SHL: Shifts left by a register amount (R178) -/
  | shl (d a b : BitVec 7)
  /-- SHR: Logical right shift by a register amount (R178) -/
  | shr (d a b : BitVec 7)
  /-- SRA: Arithmetic right shift by a register amount (R178) -/
  | sra (d a b : BitVec 7)
  /-- ROTL: Rotates left by a register amount (R178) -/
  | rotl (d a b : BitVec 7)
  /-- ROTR: Rotates right by a register amount (R178) -/
  | rotr (d a b : BitVec 7)
  /-- SHL_D: Shifts a 64-bit pair left (R178) -/
  | shlD (d a b : BitVec 7)
  /-- SHR_D: Logical right shift of a 64-bit pair (R178) -/
  | shrD (d a b : BitVec 7)
  /-- SRA_D: Arithmetic right shift of a 64-bit pair (R178) -/
  | sraD (d a b : BitVec 7)
  /-- SHL_IMM: Shifts left by an immediate amount (R178) -/
  | shlImm (d a imm : BitVec 7)
  /-- SHR_IMM: Logical right shift by an immediate amount (R178) -/
  | shrImm (d a imm : BitVec 7)
  /-- SRA_IMM: Arithmetic right shift by an immediate amount (R178) -/
  | sraImm (d a imm : BitVec 7)
  /-- ROTL_IMM: Rotates left by an immediate amount (R178) -/
  | rotlImm (d a imm : BitVec 7)
  /-- ROTR_IMM: Rotates right by an immediate amount (R178) -/
  | rotrImm (d a imm : BitVec 7)
  /-- SHL_D_IMM: Shifts a 64-bit pair left by an immediate (R178) -/
  | shlDImm (d a imm : BitVec 7)
  /-- SHR_D_IMM: Logical right shift of a pair by an immediate (R178) -/
  | shrDImm (d a imm : BitVec 7)
  /-- SRA_D_IMM: Arithmetic right shift of a pair by an immediate (R178) -/
  | sraDImm (d a imm : BitVec 7)
  /-- CLZ: Counts leading zero bits (R179) -/
  | clz (d a : BitVec 7)
  /-- CTZ: Counts trailing zero bits (R179) -/
  | ctz (d a : BitVec 7)
  /-- POPC: Counts one bits (R179) -/
  | popc (d a : BitVec 7)
  /-- BREV: Reverses the bits of A (R179) -/
  | brev (d a : BitVec 7)
  /-- BFE: Extracts a sign-extended bit field (R179) -/
  | bfe (d a b : BitVec 7)
  /-- BFEN: Extracts a zero-extended bit field (R179) -/
  | bfen (d a b : BitVec 7)
  /-- BFI: Inserts the low bits of A into a field of D (R179) -/
  | bfi (d a b : BitVec 7)
  /-- SEXT: Sign-extends A from bit B[4:0] (R179) -/
  | sext (d a b : BitVec 7)
  /-- CMP_EQ: Sets a predicate if A equals B (R180) -/
  | cmpEq (d : BitVec 3) (a b : BitVec 7)
  /-- CMP_NE: Sets a predicate if A differs from B (R180) -/
  | cmpNe (d : BitVec 3) (a b : BitVec 7)
  /-- CMP_LT: Signed less-than compare into a predicate (R180) -/
  | cmpLt (d : BitVec 3) (a b : BitVec 7)
  /-- CMP_LE: Signed less-or-equal compare into a predicate (R180) -/
  | cmpLe (d : BitVec 3) (a b : BitVec 7)
  /-- CMP_LTN: Unsigned less-than compare into a predicate (R180) -/
  | cmpLtn (d : BitVec 3) (a b : BitVec 7)
  /-- CMP_LEN: Unsigned less-or-equal compare into a predicate (R180) -/
  | cmpLen (d : BitVec 3) (a b : BitVec 7)
  /-- TEST: Sets a predicate if A AND B is nonzero (R180) -/
  | test (d : BitVec 3) (a b : BitVec 7)
  /-- CMP_EQ_IMM: Compares a register with an immediate for equality (R180) -/
  | cmpEqImm (d : BitVec 3) (a imm : BitVec 7)
  /-- CMP_NE_IMM: Compares a register with an immediate for inequality (R180) -/
  | cmpNeImm (d : BitVec 3) (a imm : BitVec 7)
  /-- CMP_LT_IMM: Signed less-than against an immediate (R180) -/
  | cmpLtImm (d : BitVec 3) (a imm : BitVec 7)
  /-- CMP_LE_IMM: Signed less-or-equal against an immediate (R180) -/
  | cmpLeImm (d : BitVec 3) (a imm : BitVec 7)
  /-- CMP_LTN_IMM: Unsigned less-than against a sign-extended immediate (R180) -/
  | cmpLtnImm (d : BitVec 3) (a imm : BitVec 7)
  /-- CMP_LEN_IMM: Unsigned less-or-equal against a sign-extended immediate (R180) -/
  | cmpLenImm (d : BitVec 3) (a imm : BitVec 7)
  /-- TEST_IMM: Tests A AND immediate for nonzero (R180) -/
  | testImm (d : BitVec 3) (a imm : BitVec 7)
  /-- PAND: ANDs two predicates (R181) -/
  | pand (d a b : BitVec 3)
  /-- POR: ORs two predicates (R181) -/
  | por (d a b : BitVec 3)
  /-- PXOR: XORs two predicates (R181) -/
  | pxor (d a b : BitVec 3)
  /-- PNOT: Inverts a predicate (R181) -/
  | pnot (d a : BitVec 3)
  /-- PMOV: Copies a predicate (R181) -/
  | pmov (d a : BitVec 3)
  /-- VSET: Writes 1 or 0 to a vector register from a predicate (R181) -/
  | vset (d : BitVec 7) (a : BitVec 3)
  /-- VOTE_ANY: True for every participant if the predicate holds in any participant of its band (R181) -/
  | voteAny (d a : BitVec 3)
  /-- VOTE_ALL: True for every participant if the predicate holds in all participants of its band (R181) -/
  | voteAll (d a : BitVec 3)
  /-- SEL: Chooses A or B by a predicate (R182) -/
  | sel (d a b : BitVec 7) (p : BitVec 3)
  /-- ADD_D: Adds two 64-bit pairs (R183) -/
  | addD (d a b : BitVec 7)
  /-- SUB_D: Subtracts two 64-bit pairs (R183) -/
  | subD (d a b : BitVec 7)
  /-- LEA1: Adds a sign-extended 32-bit index to a 64-bit pair (R183) -/
  | lea1 (d a b : BitVec 7)
  /-- LEA2: Adds an index scaled by 2 to a pair (R183) -/
  | lea2 (d a b : BitVec 7)
  /-- LEA4: Adds an index scaled by 4 to a pair (R183) -/
  | lea4 (d a b : BitVec 7)
  /-- LEA8: Adds an index scaled by 8 to a pair (R183) -/
  | lea8 (d a b : BitVec 7)
  /-- LEA16: Adds an index scaled by 16 to a pair (R183) -/
  | lea16 (d a b : BitVec 7)
  /-- MUL_WIDE: Exact 64-bit signed product of two 32-bit values (R183) -/
  | mulWide (d a b : BitVec 7)
  /-- MOVI: Loads a sign-extended constant into a vector register (R184) -/
  | movi (d : BitVec 7) (imm : BitVec 17)
  /-- FADD: F32 add rounded in RM (R185) -/
  | fadd (d a b : BitVec 7)
  /-- FSUB: F32 subtract (R185) -/
  | fsub (d a b : BitVec 7)
  /-- FMUL: F32 multiply (R185) -/
  | fmul (d a b : BitVec 7)
  /-- FMIN: F32 minimum ignoring a single NaN (R185) -/
  | fmin (d a b : BitVec 7)
  /-- FMAX: F32 maximum ignoring a single NaN (R185) -/
  | fmax (d a b : BitVec 7)
  /-- FDIFF: Positive difference of two F32 values (R185) -/
  | fdiff (d a b : BitVec 7)
  /-- FCOPYSIGN: Copies B's sign onto A (R185) -/
  | fcopysign (d a b : BitVec 7)
  /-- FRND: Rounds an F32 value to an integral value (R185) -/
  | frnd (d a : BitVec 7)
  /-- FMA: Fused A×B + D rounded once (R186) -/
  | fma (d a b : BitVec 7)
  /-- FMS: Fused A×B − D (R186) -/
  | fms (d a b : BitVec 7)
  /-- FNMA: Fused −(A×B) + D (R186) -/
  | fnma (d a b : BitVec 7)
  /-- FNMS: Fused −(A×B) − D (R186) -/
  | fnms (d a b : BitVec 7)
  /-- FADD_H2: Paired F16 add (R187) -/
  | faddH2 (d a b : BitVec 7)
  /-- FMUL_H2: Paired F16 multiply (R187) -/
  | fmulH2 (d a b : BitVec 7)
  /-- FMA_H2: Paired F16 fused multiply-add (R187) -/
  | fmaH2 (d a b : BitVec 7)
  /-- FADD_B2: Paired B16 add (R187) -/
  | faddB2 (d a b : BitVec 7)
  /-- FMUL_B2: Paired B16 multiply (R187) -/
  | fmulB2 (d a b : BitVec 7)
  /-- FMA_B2: Paired B16 fused multiply-add (R187) -/
  | fmaB2 (d a b : BitVec 7)
  /-- FMIN_H2: Paired F16 minimum (R187) -/
  | fminH2 (d a b : BitVec 7)
  /-- FMAX_H2: Paired F16 maximum (R187) -/
  | fmaxH2 (d a b : BitVec 7)
  /-- FCMP_EQ: F32 equality compare into a predicate (R188) -/
  | fcmpEq (d : BitVec 3) (a b : BitVec 7)
  /-- FCMP_NE: F32 inequality compare, true on NaN (R188) -/
  | fcmpNe (d : BitVec 3) (a b : BitVec 7)
  /-- FCMP_LT: F32 less-than compare (R188) -/
  | fcmpLt (d : BitVec 3) (a b : BitVec 7)
  /-- FCMP_LE: F32 less-or-equal compare (R188) -/
  | fcmpLe (d : BitVec 3) (a b : BitVec 7)
  /-- FCMP_UN: True if either operand is NaN (R188) -/
  | fcmpUn (d : BitVec 3) (a b : BitVec 7)
  /-- FCLASS: Tests A's class against a mask in B (R188) -/
  | fclass (d : BitVec 3) (a b : BitVec 7)
  /-- RCP: Faithful F32 reciprocal (R189) -/
  | rcp (d a : BitVec 7)
  /-- RSQRT: Faithful F32 reciprocal square root (R189) -/
  | rsqrt (d a : BitVec 7)
  /-- SQRT: Faithful F32 square root (R189) -/
  | sqrt (d a : BitVec 7)
  /-- EXP2: Faithful F32 base-2 exponential (R189) -/
  | exp2 (d a : BitVec 7)
  /-- LOG2: Faithful F32 base-2 logarithm (R189) -/
  | log2 (d a : BitVec 7)
  /-- SINPI: Faithful sin(πx) (R189) -/
  | sinpi (d a : BitVec 7)
  /-- COSPI: Faithful cos(πx) (R189) -/
  | cospi (d a : BitVec 7)
  /-- TANH: Faithful hyperbolic tangent (R189) -/
  | tanh (d a : BitVec 7)
  /-- CVT: Converts between formats with the rounding given in B[2:0] (R191) -/
  | cvt (d a : BitVec 7) (dst : BitVec 4) (rnd src : BitVec 3)
  /-- PK_F8: Packs two F32 values as F8 into the top of D, shifting D down (R192) -/
  | pkF8 (d a b : BitVec 7)
  /-- PK_F4: Packs two F32 values as F4 (R192) -/
  | pkF4 (d a b : BitVec 7)
  /-- PK_I8: Packs two saturated I32 values as I8 or N8 (R192) -/
  | pkI8 (d a b : BitVec 7)
  /-- PK_I4: Packs two saturated I32 values as I4 or N4 (R192) -/
  | pkI4 (d a b : BitVec 7)
  /-- UNPK_F8: Widens one F8 element to F32 (R192) -/
  | unpkF8 (d a b : BitVec 7)
  /-- UNPK_F4: Widens one F4 element to F32 (R192) -/
  | unpkF4 (d a b : BitVec 7)
  /-- UNPK_I8: Extends one 8-bit integer element (R192) -/
  | unpkI8 (d a b : BitVec 7)
  /-- UNPK_I4: Extends one 4-bit integer element (R192) -/
  | unpkI4 (d a b : BitVec 7)
  /-- DOT8_I4: Exact dot product of eight I4 pairs into I32 (R193) -/
  | dot8I4 (d a b : BitVec 7)
  /-- DOT8_N4: Dot product of eight N4 pairs (R193) -/
  | dot8N4 (d a b : BitVec 7)
  /-- DOT8_I4N4: Dot product of I4 by N4 elements (R193) -/
  | dot8I4n4 (d a b : BitVec 7)
  /-- DOT4_I8: Dot product of four I8 pairs (R193) -/
  | dot4I8 (d a b : BitVec 7)
  /-- DOT4_N8: Dot product of four N8 pairs (R193) -/
  | dot4N8 (d a b : BitVec 7)
  /-- DOT4_F8A: Dot product of four F8A pairs into F32, rounded once (R193) -/
  | dot4F8a (d a b : BitVec 7)
  /-- DOT4_F8B: Dot product of four F8B pairs into F32 (R193) -/
  | dot4F8b (d a b : BitVec 7)
  /-- DOT2_B16: Dot product of two B16 pairs into F32 (R193) -/
  | dot2B16 (d a b : BitVec 7)
  /-- SHFL: Reads A from the lane named in B (R195) -/
  | shfl (d a b : BitVec 7)
  /-- SHFL_UP: Reads A from a lower lane by a distance (R195) -/
  | shflUp (d a b : BitVec 7)
  /-- SHFL_DN: Reads A from a higher lane by a distance (R195) -/
  | shflDn (d a b : BitVec 7)
  /-- SHFL_X: Reads A from the lane XOR a mask (R195) -/
  | shflX (d a b : BitVec 7)
  /-- RDLANE: Writes one lane's value into each band's uniform register (R195) -/
  | rdlane (d a : BitVec 7) (b : BitVec 5)
  /-- BALLOT: Gathers a predicate over the band's participants into a mask (R195) -/
  | ballot (d : BitVec 7) (a : BitVec 3)
  /-- PERM: Routes a register across lanes by a pattern table (R163) -/
  | perm (d a : BitVec 7) (b : BitVec 3)
  /-- PTAB: Loads a band's pattern table from lane values (R163) -/
  | ptab (d : BitVec 3) (a : BitVec 7)
  /-- BRED_ADD: Integer sum over the band's participants (R196) -/
  | bredAdd (d a : BitVec 7)
  /-- BRED_MIN: Signed minimum over participants (R196) -/
  | bredMin (d a : BitVec 7)
  /-- BRED_MAX: Signed maximum over participants (R196) -/
  | bredMax (d a : BitVec 7)
  /-- BRED_FADD: F32 fixed-tree sum over participants (R197) -/
  | bredFadd (d a : BitVec 7)
  /-- BRED_FMIN: F32 minimum over participants (R196) -/
  | bredFmin (d a : BitVec 7)
  /-- BRED_FMAX: F32 maximum over participants (R196) -/
  | bredFmax (d a : BitVec 7)
  /-- SCAN_ADD: Inclusive integer prefix sum (R196) -/
  | scanAdd (d a : BitVec 7)
  /-- SCAN_FADD: Inclusive F32 running sum in ascending lane (R197) -/
  | scanFadd (d a : BitVec 7)
  /-- KADD: Uniform add, once per band (R198) -/
  | kadd (d a b : BitVec 7)
  /-- KSUB: Uniform subtract (R198) -/
  | ksub (d a b : BitVec 7)
  /-- KMUL: Uniform low product (R198) -/
  | kmul (d a b : BitVec 7)
  /-- KAND: Uniform AND (R198) -/
  | kand (d a b : BitVec 7)
  /-- KOR: Uniform OR (R198) -/
  | kor (d a b : BitVec 7)
  /-- KXOR: Uniform XOR (R198) -/
  | kxor (d a b : BitVec 7)
  /-- KSHL: Uniform left shift by a register (R198) -/
  | kshl (d a b : BitVec 7)
  /-- KSHR: Uniform logical right shift by a register (R198) -/
  | kshr (d a b : BitVec 7)
  /-- KADDI: Uniform add of an immediate (R198) -/
  | kaddi (d a imm : BitVec 7)
  /-- KANDI: Uniform AND with an immediate (R198) -/
  | kandi (d a imm : BitVec 7)
  /-- KORI: Uniform OR with an immediate (R198) -/
  | kori (d a imm : BitVec 7)
  /-- KSHLI: Uniform left shift by an immediate (R198) -/
  | kshli (d a imm : BitVec 7)
  /-- KSHRI: Uniform right shift by an immediate (R198) -/
  | kshri (d a imm : BitVec 7)
  /-- KMOVI: Loads an immediate into a uniform register (R198) -/
  | kmovi (d imm : BitVec 7)
  /-- KCMPI: Signed three-way compare of a uniform register with an immediate (R198) -/
  | kcmpi (d a imm : BitVec 7)
  /-- LD_B: Loads a zero-extended byte under a coherence policy (R104) -/
  | ldB (t base : BitVec 7) (off : BitVec 6) (pol : BitVec 2)
  /-- LD_H: Loads a zero-extended halfword (R104) -/
  | ldH (t base : BitVec 7) (off : BitVec 6) (pol : BitVec 2)
  /-- LD_W: Loads a word (R104) -/
  | ldW (t base : BitVec 7) (off : BitVec 6) (pol : BitVec 2)
  /-- LD_D: Loads a doubleword into a pair (R104) -/
  | ldD (t base : BitVec 7) (off : BitVec 6) (pol : BitVec 2)
  /-- LDS_B: Loads a sign-extended byte (R104) -/
  | ldsB (t base : BitVec 7) (off : BitVec 6) (pol : BitVec 2)
  /-- LDS_H: Loads a sign-extended halfword (R104) -/
  | ldsH (t base : BitVec 7) (off : BitVec 6) (pol : BitVec 2)
  /-- ST_B: Stores a byte under a coherence policy (R104) -/
  | stB (t base : BitVec 7) (off : BitVec 6) (pol : BitVec 2)
  /-- ST_H: Stores a halfword (R104) -/
  | stH (t base : BitVec 7) (off : BitVec 6) (pol : BitVec 2)
  /-- ST_W: Stores a word (R104) -/
  | stW (t base : BitVec 7) (off : BitVec 6) (pol : BitVec 2)
  /-- ST_D: Stores a doubleword (R104) -/
  | stD (t base : BitVec 7) (off : BitVec 6) (pol : BitVec 2)
  /-- LD_Q: Loads 16 bytes into a register quad, single-copy atomic (R106) -/
  | ldQ (t base : BitVec 7) (off : BitVec 6) (pol : BitVec 2)
  /-- ST_Q: Stores 16 bytes from a register quad (R106) -/
  | stQ (t base : BitVec 7) (off : BitVec 6) (pol : BitVec 2)
  /-- LD_SV_W: Loads a word from the stack as every registered sweep will leave it (R74) -/
  | ldSvW (t base : BitVec 7) (off : BitVec 6)
  /-- LD_SV_Q: Loads a swept-view quadword (R74) -/
  | ldSvQ (t base : BitVec 7) (off : BitVec 6)
  /-- ATOM_ADD: Fetch-and-add at home, combined per sheaf in ascending lane (R107) -/
  | atomAdd (d a b : BitVec 7)
  /-- ATOM_MIN: Atomic minimum returning the old value (R107) -/
  | atomMin (d a b : BitVec 7)
  /-- ATOM_MAX: Atomic maximum returning the old value (R107) -/
  | atomMax (d a b : BitVec 7)
  /-- ATOM_AND: Atomic AND (R107) -/
  | atomAnd (d a b : BitVec 7)
  /-- ATOM_OR: Atomic OR (R107) -/
  | atomOr (d a b : BitVec 7)
  /-- ATOM_XOR: Atomic XOR (R107) -/
  | atomXor (d a b : BitVec 7)
  /-- ATOM_XCHG: Atomic exchange (R107) -/
  | atomXchg (d a b : BitVec 7)
  /-- ATOM_INCW: Atomic wrapping increment (R107) -/
  | atomIncw (d a b : BitVec 7)
  /-- CAS: 32-bit compare-and-swap at home (R109) -/
  | cas (d a b : BitVec 7)
  /-- CAS_D: 64-bit compare-and-swap (R109) -/
  | casD (d a b : BitVec 7)
  /-- CAS_Q: 128-bit compare-and-swap, single-copy atomic (R109) -/
  | casQ (d a b : BitVec 7)
  /-- RED_ADD: Adds at home without returning a value (R109) -/
  | redAdd (a b : BitVec 7)
  /-- RED_FADD: F32 add at home without return (R109) -/
  | redFadd (a b : BitVec 7)
  /-- ATOM_FADD: F32 add at home returning the old value (R109) -/
  | atomFadd (d a b : BitVec 7)
  /-- RED_MIN: Minimum at home without return (R109) -/
  | redMin (a b : BitVec 7)
  /-- RED_MAX: Maximum at home without return (R109) -/
  | redMax (a b : BitVec 7)
  /-- LD_SP: Loads 1 to 8 bytes from the clump scratchpad, parking on absent lines (R135) -/
  | ldSp (t base : BitVec 7) (off : BitVec 6) (sz : BitVec 2)
  /-- ST_SP: Stores 1 to 8 bytes to the scratchpad (R135) -/
  | stSp (t base : BitVec 7) (off : BitVec 6) (sz : BitVec 2)
  /-- LD_SP_Q: Loads 16 bytes from the scratchpad (R135) -/
  | ldSpQ (t base : BitVec 7) (off : BitVec 6)
  /-- ST_SP_Q: Stores 16 bytes to the scratchpad (R135) -/
  | stSpQ (t base : BitVec 7) (off : BitVec 6)
  /-- FENCE: Orders the strand's accesses and engine completions at a scope (R113) -/
  | fence
  /-- FENCE_E: Waits for the band's earlier engine operations to be visible at a scope (R113) -/
  | fenceE
  /-- FENCE_H: Waits for earlier CXL.io accesses to complete at the host (R113) -/
  | fenceH
  /-- FENCE_SW: Waits for the context's registered sweeps and the band's queued updates (R113) -/
  | fenceSw
  /-- CINV: Drops this core's L1 copy of a line, writing back if owned (R113) -/
  | cinv (a : BitVec 7)
  /-- CWB: Writes back the dirty words of an owned line (R113) -/
  | cwb (a : BitVec 7)
  /-- PREFETCH: Fills a line under a policy without a register result (R113) -/
  | prefetch (pol : BitVec 2) (a : BitVec 7)
  /-- LEASE_RENEW: Renews a line's lease now and reports whether data moved (R113) -/
  | leaseRenew (d a : BitVec 7)
  /-- CP_G2S: Copies strided rows from global memory to the scratchpad (R142) -/
  | cpG2s (d a b : BitVec 7)
  /-- CP_S2G: Copies rows from the scratchpad to global memory (R142) -/
  | cpS2g (d a b : BitVec 7)
  /-- CP_G2G: Copies rows from global to global memory (R142) -/
  | cpG2g (d a b : BitVec 7)
  /-- CP_GATHER: Gathers indexed global elements into the scratchpad (R142) -/
  | cpGather (d a b : BitVec 7)
  /-- CP_SCATTER: Scatters scratchpad elements to indexed global addresses (R142) -/
  | cpScatter (d a b : BitVec 7)
  /-- CP_WAIT: Parks the band until a copy handle is no longer in flight and returns its status (R143) -/
  | cpWait (d a : BitVec 7)
  /-- CP_POLL: Returns a copy handle's status without waiting (R143) -/
  | cpPoll (d a : BitVec 7)
  /-- CP_QUEUE: Posts a copy of the descriptor's KIND unreleased (R145) -/
  | cpQueue (d a b : BitVec 7)
  /-- BIN_COUNT: Ranks strands per destination and increments a scratchpad count table (R147) -/
  | binCount (d a b : BitVec 7)
  /-- BIN_PATCH: Sets ROWS of unreleased commands from the count table (R147) -/
  | binPatch (d a b : BitVec 7)
  /-- ENG_RELEASE: Releases every unreleased command of the band in posting order (R145) -/
  | engRelease (d : BitVec 7)
  /-- BIN_READ: Reads and clears entries of a count table (R147) -/
  | binRead (d a b : BitVec 7)
  /-- SWP_REG: Registers a sweep function on a region, recalling its cached lines at the registration point (R71) -/
  | swpReg (d a : BitVec 7)
  /-- SWP_UNREG: Unregisters a sweep and frees its slot (R65) -/
  | swpUnreg (a : BitVec 7)
  /-- SWP_POS: Reports per strand where a sweep stands against an address's row (R71) -/
  | swpPos (d a b : BitVec 7)
  /-- SWP_WAIT: Parks the band until a sweep completes or is unregistered (R71) -/
  | swpWait (d a : BitVec 7)
  /-- SWP_QUEUE: Queues a 64-byte deferred update for a deltas sweep (R67) -/
  | swpQueue (d a b : BitVec 7)
  /-- SWP_STAT: Reads a sweep's state and count (R71) -/
  | swpStat (d a : BitVec 7)
  /-- BANK_TBL: Loads per-layer table latches of a via group from the scratchpad (R84) -/
  | bankTbl (d a b : BitVec 7)
  /-- BANK_LUT: Activates a row in the masked layers and accumulates table lookups (R84) -/
  | bankLut (d a : BitVec 7)
  /-- BANK_BCAST: Broadcasts one table set to every masked layer (R84) -/
  | bankBcast (d a b : BitVec 7)
  /-- BANK_RED: Reduces the masked accumulators through the base-die tree into the scratchpad (R84) -/
  | bankRed (d a b : BitVec 7)
  /-- BANK_SYNC: Writes status once the band's earlier commands to the group are done (R84) -/
  | bankSync (d a b : BitVec 7)
  /-- BANK_CLR: Zeroes the masked accumulators and clears poison marks (R84) -/
  | bankClr (d a : BitVec 7)
  /-- WAIT_EQ: Arms a monitor and parks until the word equals a value (R303) -/
  | waitEq (d : BitVec 3) (a b : BitVec 7)
  /-- WAIT_NE: Parks until the word differs from a value (R303) -/
  | waitNe (d : BitVec 3) (a b : BitVec 7)
  /-- WAIT_GEU: Parks until the word is unsigned at least a value (R303) -/
  | waitGeu (d : BitVec 3) (a b : BitVec 7)
  /-- WAIT_MASK: Parks until the word AND mask is nonzero (R303) -/
  | waitMask (d : BitVec 3) (a b : BitVec 7)
  /-- YIELD: Resets age and makes the strand not ready for 16 issue slots (R303) -/
  | yield
  /-- SLEEP: Parks the strand for a number of cycles or until woken (R303) -/
  | sleep (d : BitVec 3) (a : BitVec 7)
  /-- WAKE: Ends the sleep of strands of a named band or of all bands (R303) -/
  | wake (a : BitVec 7)
  /-- BAR_INIT: Sets a named barrier to all-live or count mode (R309) -/
  | barInit (a : BitVec 6) (b : BitVec 7)
  /-- BAR_ARRIVE: Arrives at a barrier and returns the phase token (R309) -/
  | barArrive (d : BitVec 7) (a : BitVec 6)
  /-- BAR_WAIT: Parks until the barrier phase differs from a token (R309) -/
  | barWait (a : BitVec 6) (b : BitVec 7)
  /-- BAR_SYNC: Arrives and parks until the phase completes (R309) -/
  | barSync (a : BitVec 6)
  /-- BAR_ARRIVE_T: Arrives at a thicket barrier and returns the token (R307) -/
  | barArriveT (d : BitVec 7) (a : BitVec 6)
  /-- BAR_SYNC_T: Arrives at a thicket barrier and parks until its phase completes (R307) -/
  | barSyncT (a : BitVec 6)
  /-- BAR_TEST: Tests whether a barrier phase has moved past a token (R309) -/
  | barTest (d : BitVec 3) (a : BitVec 6) (b : BitVec 7)
  /-- BR: Branches by a packet displacement under its own guard (R269) -/
  | br (neg : BitVec 1) (p : BitVec 3) (disp : BitVec 18) (slot : BitVec 2)
  /-- JMPR: Jumps to a program counter value in a register (R272) -/
  | jmpr (a : BitVec 7)
  /-- CALLR: Calls through a register, writing the link to v127 (R272) -/
  | callr (a : BitVec 7)
  /-- RET: Jumps to the link in v127 (R272) -/
  | ret
  /-- BRX: Indexed branch into a table of packets with a default (R272) -/
  | brx (a b : BitVec 7)
  /-- CALL: Branches by displacement and writes the return point to v127 (R269) -/
  | call (neg : BitVec 1) (p : BitVec 3) (disp : BitVec 18) (slot : BitVec 2)
  /-- EXIT: Ends the strand; it counts as arrived at every barrier phase (R275) -/
  | exit
  /-- EXIT_NEXT: Ends the strand pending restart of its band at a successor, keeping low registers (R276) -/
  | exitNext (d a : BitVec 7)
  /-- SPAWN: Places a 16-byte record in a spawn bin of the strand's die (R294) -/
  | spawn (a b : BitVec 7)
  /-- LAUNCH: Requests one child planting per executing strand (R290) -/
  | launch (a b : BitVec 7)
  /-- RESULT: Combines a uniform value into the planting's result word (R279) -/
  | result (d a : BitVec 7)
  /-- REGION: Marks a region head and fills the fast operand buffer with live-ins (R159) -/
  | region (d a b : BitVec 7)
  /-- TRAP: Delivers a user trap with a code after the chain (R335) -/
  | trap (a b : BitVec 7)
  /-- TRAP_IF: Delivers a user trap if the tested value is nonzero (R335) -/
  | trapIf (d a : BitVec 7)
  /-- BRK: Delivers a breakpoint, or a context fault when host debugging is on (R335) -/
  | brk (a b : BitVec 7)
  /-- RDTIME: Reads module time after the strand's earlier accesses perform (R335) -/
  | rdtime (d : BitVec 7)
  /-- RDCLK: Reads the core cycle count after earlier accesses perform (R335) -/
  | rdclk (d : BitVec 7)
  /-- TRAPINFO: Reads trap cause, %epc and word, or trap detail by selector (R335) -/
  | trapinfo (d b : BitVec 7)
  /-- ERET: Returns to %epc, clearing H and entering the gap (R335) -/
  | eret
  /-- HALT: Stops the context with context fault code 3 and a value (R335) -/
  | halt (a : BitVec 7)
  /-- TOPEN: Opens a band's tape on a described region in record mode (R256) -/
  | topen (a : BitVec 7)
  /-- TCLOSE: Writes out and closes the tape, returning bytes used (R256) -/
  | tclose (d : BitVec 7)
  /-- TREC: Appends a compressed value record of registers for a site (R256) -/
  | trec (d a : BitVec 7) (n1 : BitVec 4) (p : BitVec 3)
  /-- TBR: Records a branch predicate, or pops it in replay (R256) -/
  | tbr (a : BitVec 7) (p : BitVec 3)
  /-- TREV: Turns the tape between record and replay (R256) -/
  | trev
  /-- TPOP: Pops a value record into registers after checking it matches (R250) -/
  | tpop (d a : BitVec 7) (n1 : BitVec 4) (p : BitVec 3)
  /-- TMARK: Records a mark value, or pops it in replay (R256) -/
  | tmark (a b : BitVec 7)
  /-- TSTAT: Reports tape state by selector (R257) -/
  | tstat (d : BitVec 7) (which : BitVec 3)
  /-- TRES: Writes a tile record and reserves operand-buffer space (R206) -/
  | tres (d : BitVec 3) (a : BitVec 7)
  /-- TREL: Releases a tile reservation (R206) -/
  | trel (a : BitVec 3)
  /-- TLD: Copies an A tile and scales from the scratchpad into a reservation (R206) -/
  | tld (d : BitVec 3) (a : BitVec 7)
  /-- TSCALE: Replaces a loaded tile's scales and recomputes row flags (R206) -/
  | tscale (d : BitVec 3) (a : BitVec 7)
  /-- TINFO: Reads a tile record's descriptor and state (R206) -/
  | tinfo (d : BitVec 7) (a : BitVec 3)
  /-- MLOAD: Aligns a B operand from the scratchpad into a resident slot (R209) -/
  | mload (d : BitVec 1) (a : BitVec 3) (b : BitVec 7)
  /-- MMA: Streams a tile against a slot and accumulates (R212) -/
  | mma (d : BitVec 2) (a : BitVec 3) (colq : BitVec 2) (slot : BitVec 1)
  /-- MMA_PAIR: Streams a leader tile against both arrays of a thicket (R213) -/
  | mmaPair (d : BitVec 2) (a : BitVec 3) (colq : BitVec 2) (slot : BitVec 1)
  /-- MMAG: Streams a generated A operand against a slot (R212) -/
  | mmag (d : BitVec 2) (a : BitVec 3) (colq : BitVec 2) (slot : BitVec 1)
  /-- MMAG_PAIR: Streams a generated A operand against both thicket arrays (R213) -/
  | mmagPair (d : BitVec 2) (a : BitVec 3) (colq : BitVec 2) (slot : BitVec 1)
  /-- MZERO: Sets an accumulator to +0 and clears its flags, as a marker (R219) -/
  | mzero (d : BitVec 2)
  /-- MGEMM: Hands a multi-tile product to the sequencer, or posts it unreleased (R231) -/
  | mgemm (d a : BitVec 7) (b : BitVec 1)
  /-- MWAIT: Parks the band until its matrix operations on an accumulator complete (R219) -/
  | mwait (a : BitVec 2)
  /-- MBEGIN: Opens a chain on an accumulator (R217) -/
  | mbegin (d : BitVec 2)
  /-- MEND: Closes an accumulator's chain (R217) -/
  | mend (d : BitVec 2)
  /-- MDRAIN: Drains an accumulator through scale, bias, activation and requantisation (R224) -/
  | mdrain (d : BitVec 7) (a : BitVec 2) (b : BitVec 7)
  /-- MST: Writes an accumulator's raw F32 values out (R225) -/
  | mst (a : BitVec 2) (b : BitVec 7)
  /-- MACT: Loads an accumulator's activation table and bias (R227) -/
  | mact (d : BitVec 2) (a b : BitVec 7)
  /-- MLOADG: Fills a resident slot from a generator (R209) -/
  | mloadg (d : BitVec 1) (a : BitVec 3)
  /-- GSET: Loads a generator from a 64-byte descriptor (R239) -/
  | gset (d : BitVec 3) (a : BitVec 7)
  /-- GSEED: Replaces a generator's seed (R239) -/
  | gseed (d : BitVec 3) (a : BitVec 7)
  /-- GREAD: Reads generator entries per strand as F32 (R239) -/
  | gread (d : BitVec 7) (a : BitVec 3) (b : BitVec 7)
  /-- GSCOPE: Replaces a generator's seed scope (R239) -/
  | gscope (d : BitVec 3) (a : BitVec 7)
  /-- IMMEXT: Extension word supplying the high bits of the next word's immediate (R20) -/
  | immext (imm : BitVec 22)
  /-- QUAL: Extension word supplying guard, scope, order, uniform, cache and rounding fields (R21) -/
  | qual (gen neg : BitVec 1) (p scope : BitVec 3) (order : BitVec 2) (ub ua : BitVec 1) (cache : BitVec 2) (rm : BitVec 3)
  /-- REGEXT: Extension word supplying E, F and MODE8 fields (R22) -/
  | regext (e f : BitVec 7) (mode : BitVec 8)
  deriving DecidableEq, Repr

end Sys2Proof
end

