-- ==== Sys2Proof/Machine/State.lean ====
section
/-!
DEFINITION. The state of one module, as the spec gives it (INVENTORY.md lists every piece and its rule), the reasons a
step can stop, and the state after reset.
-/

namespace Sys2Proof.Machine

/-! ### Why a step stops -/

/-- A fault ends the machine's run. -/
inductive Fault where
  /-- The compute dies are powered down (R372). Raised by a step that needs them after a thermal shutdown, until a module reset: a sheaf
  that would issue, or an access at a home slice. Safe: the spec says nothing of such an access. -/
  | poweredDown
  deriving DecidableEq, Repr

/-- An instruction that the model gives no meaning. -/
inductive Refusal where
  /-- Not modelled: an arm of `exec` that has no meaning yet. Safe: nothing is claimed of it. -/
  | notModelled (mnemonic : String)
  deriving DecidableEq, Repr

/-! ### Trap causes (R313) -/

/-- The causes of a trap. -/
inductive Cause where
  | illegal | pipeConflict | partialBand | misaligned | fetch | userTrap | breakpoint
  | policy | rangeConflict | pageProtection | pageAttribute | channelOwnership | physicalRange | pageLost | poison
  | translationAbort | pageTable | virtualRange
  | spadBounds | regionTable | sweepMisuse | copyDescriptor | engineFault | queueFull | matrixOperand | operandBufferFull
  | generatorDescriptor | tapeDivergence | tapeOverflow | tapeMisuse | launchMisuse | spawnMisuse | waitMisuse
  | barrierMisuse
  deriving DecidableEq, Repr

/-- The code of a cause (R313). -/
def Cause.code : Cause → Nat
  | .illegal => 0x01 | .pipeConflict => 0x02 | .partialBand => 0x03 | .misaligned => 0x04 | .fetch => 0x05
  | .userTrap => 0x06 | .breakpoint => 0x07 | .policy => 0x10 | .rangeConflict => 0x11 | .pageProtection => 0x12
  | .pageAttribute => 0x13 | .channelOwnership => 0x14 | .physicalRange => 0x15 | .pageLost => 0x16 | .poison => 0x17
  | .translationAbort => 0x18 | .pageTable => 0x19 | .virtualRange => 0x1A | .spadBounds => 0x20 | .regionTable => 0x21
  | .sweepMisuse => 0x22 | .copyDescriptor => 0x23 | .engineFault => 0x24 | .queueFull => 0x25 | .matrixOperand => 0x26
  | .operandBufferFull => 0x27 | .generatorDescriptor => 0x28 | .tapeDivergence => 0x29 | .tapeOverflow => 0x2A
  | .tapeMisuse => 0x2B | .launchMisuse => 0x2C | .spawnMisuse => 0x2D | .waitMisuse => 0x2E | .barrierMisuse => 0x2F

/-- A trap for a strand: its cause, what `%trapinfo` ADDR gets (R313) and the trap detail (R385). -/
structure Trap where
  cause : Cause
  addr : Nat := 0
  detail : Nat := 0
  deriving DecidableEq, Repr

/-! ### Strands (R259) -/

/-- A write to one register. -/
inductive RegWrite where
  /-- Vector register `r`. -/
  | v (r : Nat) (x : Word)
  /-- Predicate `r`. -/
  | p (r : Nat) (x : Bool)
  deriving DecidableEq, Repr

/-- What an atomic makes of the old value (R107, R109). -/
inductive AtomFn where
  | add | min | max | and | or | xor | xchg | incw | cas | fadd
  deriving DecidableEq, Repr

/-- An atomic's update: its function, its bytes, whether it compares unsigned numbers, its operand, and a compare-and-swap's new
value. -/
structure AtomOp where
  fn : AtomFn
  n : Nat
  unsigned : Bool := false
  x : Nat := 0
  new : Nat := 0
  deriving DecidableEq, Repr

/-- What a request on the CXL.io path does at the host (R87, R110, R351). -/
inductive HostAct where
  /-- A read of up to 8 bytes into the registers from `t` on. -/
  | read (t n : Nat) (signed : Bool)
  /-- A write of up to 8 bytes. -/
  | write (bytes : List Byte)
  /-- A single AtomicOp request, which returns the old value to the registers from `d` on, if to any. -/
  | update (op : AtomOp) (d : Option Nat)
  /-- The read of an update that no AtomicOp request carries: its bytes so far; its writes follow. -/
  | fetch (op : AtomOp) (d : Option Nat) (got : List Byte)
  deriving DecidableEq, Repr

/-- A request of a strand on the CXL.io path that has not performed (R128), and the registers that a later word of the strand has
written since, which its result no longer changes (R15). -/
structure HostReq where
  pa : Nat
  act : HostAct
  dead : List Nat := []
  /-- An acquire: no later access of the strand performs before it (R108). -/
  acq : Bool := false
  /-- The atomic instruction that sent it, by a name of its own, and the address that the strand updates: the strands of one sheaf that
  name one address perform their updates in lane order (R107, R109). -/
  group : Option (Nat × Nat) := none
  deriving DecidableEq, Repr

/-- Whether a strand takes part in its band (R275, R276, R295). -/
inductive Life where
  | live | exited | absent | restart
  deriving DecidableEq, Repr

/-- What a strand is parked on (R261); a switch marker is held beside it. -/
inductive ParkOn where
  /-- An absent scratchpad line (R135): the load's offset, size, first destination register. -/
  | spad (off n t : Nat)
  /-- An armed monitor, by its name (R297). -/
  | wait (mon : Nat)
  /-- `sleep`, until a cycle, with the predicate that gets the status (R303). -/
  | sleep (until_ : Nat) (d : Nat)
  /-- `yield`, until an issue slot of the quadrant (R303). -/
  | yield (slot : Nat)
  /-- A barrier's phase token (R309). -/
  | barrier (n : Nat) (token : Nat)
  /-- A fence: its function, scope, and the operations or sweeps it waits for (R113). Function 4 is a release access that waits (R108), 5 a
  fence that only acquires, 6 a time read that waits for the strand's CXL.io accesses (R335), 7 a region head that waits for those that
  write its live-in registers (R159). -/
  | fence (fn scope : Nat) (ops : List Nat)
  /-- `cp.wait` on a handle, with the uniform register that gets the status (R143). -/
  | copyWait (h d : Nat)
  /-- `mwait` (R231). -/
  | matWait (ops : List Nat)
  /-- `swp.wait` on a slot of a generation (R71): for a deltas sweep, on the updates named below `last`. -/
  | sweepWait (last slot gen d : Nat)
  /-- A replayable translation fault on a virtual address (R331): the access's kind, plus 8 for a word that an abort does not
  trap (R332). -/
  | xlate (va : Nat) (kind : Nat)
  /-- A page that a migration is still pulling (R68). -/
  | migrating (va : Nat)
  /-- A miss in the core's region-table cache (R159), for an entry. -/
  | regionMiss (idx : Nat)
  /-- The child limit of the context (R290). -/
  | childLimit
  /-- A full spawn bin with a full spill area (R294). -/
  | spawnFull (die entry : Nat)
  /-- An engine word held at issue: for a range lock, a free entry, a queue entry or a follower (R139, R79, R213). -/
  | engineIssue
  /-- A tape chunk being read back (R245), by its stream offset. -/
  | tapeRead (chunk : Nat)
  /-- A spilled tape chunk that has not landed (R252). -/
  | tapeSpill
  /-- A register that an engine operation will write (R15). -/
  | interlock
  /-- `swp.queue` while the queue of an update's stack is full, by its operation (R67). -/
  | queueWait (op : Nat)
  /-- A request at a slice port whose token bucket is empty (R100). -/
  | port (slice : Nat)
  deriving DecidableEq, Repr

/-- A park: on what, the word on which the strand parked (R305), and the program counter value that it takes when the park
ends (`none`: it issues the chain again). -/
structure Park where
  on : ParkOn
  word : Word
  next : Option Word := none
  deriving DecidableEq, Repr

/-- One strand: its registers (R149), its program counter (R10), the short-latency results it has outstanding (R14, R15),
its region state (R153, R155), its stochastic-rounding counter (R42, R43) and its trap state (R312, R315, R385). -/
structure Strand where
  life : Life := .live
  pc : Word := 0
  /-- v0 to v127; an unlisted register holds zero (R150). -/
  v : SMap Word := []
  /-- p0 to p7; bit 0 always reads true (R149). -/
  p : BitVec 8 := 1
  /-- Short-latency results outstanding, in program order (R15). -/
  out : List (List RegWrite) := []
  /-- Requests on the CXL.io path, which complete in any order (R128). -/
  host : List HostReq := []
  /-- Parked on a switch marker (R14). -/
  marker : Bool := false
  park : Option Park := none
  /-- Where the word on which it last parked starts: from there that word issues again after a rollback in the gap (R157). -/
  redo : Word := 0
  /-- A trap under delivery (R261, R315). -/
  trap : Option Trap := none
  /-- Addresses whose translations the host has aborted, for a word that then reports a failure and takes no trap (R71, R72, R258,
  R332). -/
  aborted : List Nat := []
  /-- A fence that the chain at hand waited for has been waited for: the chain issues again and its fence passes (R113). -/
  fenced : Bool := false
  /-- What the parked load of a chain of several words has read once its lines were present: offset, size and value (R135). -/
  got : Option (Nat × Nat × Nat) := none
  /-- The quadrant's issue-slot count at the strand's last issue or when it last became ready (R262). -/
  since : Nat := 0
  /-- How often it has been passed over since then (R263). -/
  passes : Nat := 0
  /-- Held at an engine word when its quadrant's last issue slot looked (R267). -/
  held : Bool := false
  /-- A later slot of the chain that has parked it has written the register that the parked word's status goes to (R15). -/
  overruled : Bool := false
  /-- The WAIT or `sleep` that a rollback has it issue again, which then reports the spurious status (R319). -/
  spurious : Option Word := none
  /-- Its rollback point lies where it stands, and not at its handler's entry: a word has ended its region since the handler was entered,
  or a context fault has stopped it (R157, R316). -/
  stay : Bool := false
  head : Word := 0
  ridx : Nat := 0
  gap : Bool := true
  /-- The slot map: slot, register and the register's value at the head (R155). -/
  fast : List (Nat × Word) := []
  /-- The superseded bits, one for each slot (R155). -/
  super : List Bool := []
  /-- The stochastic-rounding counter at the head (R43). -/
  headCtr : Word := 0
  ctr : Word := 0
  h : Bool := false
  epc : Word := 0
  tinfo : DWord64 := 0
  detail : DWord64 := 0
  /-- Barriers at which it has arrived in the current phase (R306), and barriers at whose current phase it counts as arrived
  because its band restarted in it (R276). -/
  arrived : BitVec 64 := 0
  excused : BitVec 64 := 0
  deriving DecidableEq, Repr

/-! ### Bands (R259) -/

/-- A uniform short-latency result outstanding: its register, its value and the lanes that wait for it (R14). -/
structure KWrite where
  r : Nat
  x : Word
  lanes : List Nat
  deriving DecidableEq, Repr

/-- A write of an engine operation to a register of the band (R15): a lane's register or a uniform register. -/
inductive EngWrite where
  | lane (lane : Nat) (w : RegWrite)
  | k (r : Nat) (x : Word)
  deriving DecidableEq, Repr

/-- What the engine interlock holds a word for: the registers that an operation names as destinations (R15). -/
structure EngOut where
  /-- The operation that will give the result; `none` once the values are known. -/
  op : Option Nat := none
  vregs : List Nat := []
  pregs : List Nat := []
  kregs : List Nat := []
  writes : List EngWrite := []
  /-- A logical time at or past the engine events that gave the values (R124). -/
  time : Nat := 0
  /-- Registers that a later slot of the issuing chain has written, which the operation's result no longer changes (R15): the
  lane, or 32 for a uniform register, and the register's key. -/
  skip : List (Nat × Nat) := []
  deriving DecidableEq, Repr

/-- A copy, or a matrix macro command, posted unreleased (R145, R231): opcode and FN, its descriptor's words (a copy's
octet; for `mgemm` the descriptor's offset), its handle, completion address and scope. -/
structure Unreleased where
  op : Nat
  fn : Nat
  desc : List Word
  handle : Nat
  compl : Nat
  scope : Nat
  /-- A logical time before the command's events: past those that gave the registers named as it was posted (R124). -/
  floor : Nat := 0
  deriving DecidableEq, Repr

/-- The gather window of a band held at an engine word (R267). -/
structure Held where
  pc : Word
  slot : Nat
  expired : Bool := false
  deriving DecidableEq, Repr

/-- A bound slot of the tape's site table (R249): its site, register count and LRU rank (0 the most recent). -/
structure Site where
  site : Nat
  count : Nat
  rank : Nat
  deriving DecidableEq, Repr

/-- A tape (R242 to R257). -/
structure Tape where
  /-- 0 closed, 1 record, 2 replay, 3 stopped. -/
  mode : Nat := 0
  pol : Nat := 0
  div : Bool := false
  /-- Records on the tape, close records excepted (R246). -/
  count : Nat := 0
  /-- The `topen` descriptor's eight words. -/
  desc : List Word := []
  cursor : Nat := 0
  dropped : Nat := 0
  /-- The site table: bound slots 0 to 7, and predictors at 512 slot + 32 register + lane (unlisted: zero). -/
  sites : SMap Site := []
  pred : SMap Word := []
  /-- The staging buffer: stream bytes from `stageLo` to the cursor (R245). -/
  stage : SMap Byte := []
  stageLo : Nat := 0
  /-- The last divergence's expectation and top record (R257). -/
  expected : DWord64 := 0
  top : DWord64 := 0
  /-- Stream offsets of spilled chunks still to land (R252). -/
  spill : List Nat := []
  /-- The LRU ranks of the bound sites before each value record on the tape, the top one first: what a pop gives back (R250). -/
  past : List (List (Nat × Nat)) := []
  /-- Staged 64-byte units of the stream that hold poison (R317). -/
  bad : List Nat := []
  deriving DecidableEq, Repr

/-- One band. -/
structure Band where
  quad : Nat := 0
  slot : Nat := 0
  strands : SMap Strand := []
  /-- k0 to k63; an unlisted register holds zero. -/
  k : SMap Word := []
  kout : List KWrite := []
  /-- Pattern tables, entry l of table t at 32 t + l; an unlisted entry is the identity (R149). -/
  ptab : SMap (BitVec 6) := []
  held : Option Held := none
  /-- How many handles the band has been given (R141). -/
  issued : Nat := 0
  /-- The status of the handles the device tracks (R143). -/
  handles : List (Nat × Nat) := []
  unrel : List Unreleased := []
  engOut : List EngOut := []
  /-- The pending band fault (R314). -/
  pend : Option Trap := none
  /-- A logical time at or past every read and write that the band's engine operations have made (R124, R126). -/
  etime : Nat := 0
  /-- For a register that an engine result has written, by its key (256 on for a uniform register), a time at or past the events behind
  it: an engine word that names it follows them (R124). -/
  rtimes : SMap Nat := []
  tape : Tape := {}
  /-- A tape instruction has begun and waits for its traffic: it completes before a save (R254). -/
  begun : Bool := false
  /-- The successor and n of the sheaf that completed the band's `exit.next` (R276). -/
  restart : Option (Word × Nat) := none
  /-- Poisoned register granules, eight registers of the band each (R317). -/
  regPoison : List Nat := []
  deriving DecidableEq, Repr

/-! ### Kernels, graphs and clumps (R259, R381, R382) -/

/-- A kernel record (R382), its plan areas replaced by their addresses and sizes. -/
structure Kernel where
  codeBase : Nat := 0
  codeLen : Nat := 0
  rtab : Nat := 0
  nreg : Nat := 0
  /-- The drain table's address; `none` where the kernel has none. -/
  dtab : Option Nat := none
  ndrain : Nat := 0
  bands : Nat := 1
  regs : Nat := 128
  bar : Nat := 0
  drain : Bool := false
  acc : Nat := 0
  slots : Nat := 0
  thicket : Bool := false
  spad : Nat := 0
  resv : Nat := 0
  deriving DecidableEq, Repr

/-- A node or child record (R382). -/
structure NodeRec where
  kernel : Nat
  clumps : Nat
  param : Nat
  s0 : Nat
  s1 : Nat
  handler : Nat
  deriving DecidableEq, Repr

/-- A spawn-table entry (R382): its spill area's address and its capacity in records. -/
structure EntryRec where
  kernel : Nat
  entry : Nat
  param : Nat
  timer : Nat
  spill : Nat
  spillCap : Nat
  handler : Nat
  deriving DecidableEq, Repr

/-- An edge of a graph (R285). -/
structure Edge where
  src : Nat
  dst : Nat
  test : Nat
  c : Nat
  deriving DecidableEq, Repr

/-- The tables of an image that the device reads when a command starts (R384). -/
structure Image where
  addr : Nat := 0
  kernels : List Kernel := []
  nodes : List NodeRec := []
  edges : List Edge := []
  children : List NodeRec := []
  entries : List EntryRec := []
  deriving DecidableEq, Repr

/-- The fate of a node so far (R284). -/
inductive NodeState where
  | waiting | running | done | skipped
  deriving DecidableEq, Repr

/-- A graph command being walked (R284). -/
structure Graph where
  queue : Nat
  ctx : Nat
  prio : Nat
  image : Image
  states : List NodeState
  /-- The result words the walker has read, one for each node (R285). -/
  results : List Nat
  deriving DecidableEq, Repr

/-- A child request (R290): its parameter pointer, its launcher's priority and node, and the nodes it belongs to, each with its
graph (R286). -/
structure ChildReq where
  ptr : Nat
  prio : Nat
  node : Nat
  origins : List (Nat × Nat)
  deriving DecidableEq, Repr

/-- A planting (R259): one kernel's clumps under one id (R388). -/
structure Planting where
  id : Nat := 1
  ctx : Nat := 0
  graph : Nat := 0
  node : Nat := 0
  prio : Nat := 0
  kernel : Kernel := {}
  /-- Clumps in the planting, and in each child of a merged planting (R291). -/
  clumps : Nat := 1
  perChild : Nat := 1
  param : Nat := 0
  /-- The children of a merged planting, in arrival order. -/
  kids : List ChildReq := []
  s0 : Nat := 0
  s1 : Nat := 0
  /-- The handler entry; `none` where the record holds 0xFFFF_FFFF (R315). -/
  handler : Option Word := none
  entry : Word := 0
  result : Option Word := none
  /-- Clumps that have ended. -/
  ended : Nat := 0
  /-- Whether it is the bands of a spawn bin. -/
  spawned : Bool := false
  deriving DecidableEq, Repr

/-- A clump not yet placed: its planting, its number there, and for a spawned band its records, die, the bin's launch number
(R295) and its node. `saved` names a clump that waits to come back (R300, R327). An entry of any other planting stands for
its clump `no` and every later one of the planting. -/
structure Waiting where
  planting : Nat
  no : Nat
  prio : Nat
  records : List (List Word) := []
  node : Nat := 0
  origins : List (Nat × Nat) := []
  die : Option Nat := none
  launchNo : Nat := 0
  saved : Option Nat := none
  deriving DecidableEq, Repr

/-- A named barrier (R306): its count (0: all-live mode), phase, arrivals in count mode, and whether its phase holds `.t`
arrivals (R307). -/
structure Barrier where
  count : Nat := 0
  phase : Word := 0
  arrivals : Nat := 0
  thicket : Bool := false
  deriving DecidableEq, Repr

/-! ### Matrix state of a clump (R199, R201, R206, R215, R217, R223, R234) -/

/-- A tile record: its descriptor, its state (0 unreserved, 1 format-only, 2 reserved, 3 loaded), where its space begins and how
much it owns in 256-byte units, its row flags, and its poison (R317). -/
structure Tile where
  desc : Nat := 0
  st : Nat := 0
  off : Nat := 0
  own : Nat := 0
  flags : BitVec 32 := 0
  poison : Bool := false
  deriving DecidableEq, Repr

/-- A generator's fields (R234). -/
structure Gen where
  seed : DWord64 := 0
  kind : Nat := 0
  trans : Bool := false
  fmt : Nat := 0
  scope : Nat := 0
  mkind : Nat := 0
  rot : Bool := false
  w : Word := 0
  grows : Word := 0
  gcols : Word := 0
  param : Word := 0
  row0 : Word := 0
  col0 : Word := 0
  deriving DecidableEq, Repr

/-- An accumulator: element (r, c) at 256 r + c (an unlisted element is +0), its flags, its poison, and its chain: the open
chain's name, `none` when closed. -/
structure Acc where
  vals : SMap Word := []
  rowFlags : BitVec 32 := 0
  colFlags : BitVec 256 := 0
  poison : Bool := false
  chain : Option Nat := none
  deriving DecidableEq, Repr

/-- A resident slot in its aligned form (R47, R209): element (k, n) at 256 k + n, the exponent of each block's quantum and
its scale at 256 b + n (unlisted: 0, and 127), and the column flags. -/
structure Slot where
  fmt : Nat
  k : Nat
  blen : Nat
  scaled : Bool
  q : SMap Int := []
  qexp : SMap Int := []
  scale : SMap Nat := []
  colFlags : BitVec 256 := 0
  poison : Bool := false
  deriving DecidableEq, Repr

/-- A drain store (R223): words 0 to 255 of the activation table (unlisted: the identity table) and the bias (unlisted: +0). -/
structure DrainStore where
  table : SMap Word := []
  bias : SMap Word := []
  poison : Bool := false
  deriving DecidableEq, Repr

/-- What a step has computed and not yet added (R49, R50): the tree result of every element that it covers, by 256 r + c, the flags
of its operands, and whether one of them was poisoned. -/
structure StepOut where
  vals : SMap Word := []
  rowFlags : BitVec 32 := 0
  colFlags : BitVec 256 := 0
  poison : Bool := false
  deriving DecidableEq, Repr

/-- The sequencer's progress (R231, R326). -/
structure Mgemm where
  /-- The descriptor's 16 words. -/
  desc : List Word
  m : Nat := 0
  c : Nat := 0
  /-- The next boundary is after a slot load. -/
  afterLoad : Bool := true
  /-- Tree results of the tile's steps that its chain has still to add, in an order of the engine's choosing (R50, R51). -/
  held : List StepOut := []
  deriving DecidableEq, Repr

/-- Where a clump is: on a core, or saved (R300, R318). -/
inductive Place where
  | resident | swapped | saved
  deriving DecidableEq, Repr

/-- A clump (R259), with what it holds in common. -/
structure Clump where
  ctx : Nat := 0
  /-- The planting's name in the state (not its id). -/
  planting : Nat := 0
  /-- %clump, %node, and the nodes that its end is awaited by, each with its graph (R286). -/
  no : Nat := 0
  node : Nat := 0
  origins : List (Nat × Nat) := []
  /-- Bands in the clump, and what it was granted. -/
  kernel : Kernel := {}
  place : Place := .resident
  die : Nat := 0
  core : Nat := 0
  /-- %thicket: 0, 1 leader, 2 follower; and the other clump's name. -/
  thicket : Nat := 0
  peer : Option Nat := none
  bands : List Band := []
  /-- Scratchpad bytes; an unlisted byte of the allocation reads zero (R132). -/
  spad : SMap Byte := []
  /-- Absent lines (R133), each with the operation that will write it. -/
  absent : List (Nat × Nat) := []
  /-- Poisoned lines (R317). -/
  spadPoison : List Nat := []
  /-- For a line that an engine operation has written, a time past the operation's events: what names the line later follows them
  (R124). -/
  etimes : SMap Nat := []
  bars : SMap Barrier := []
  /-- Reservation space (R199). -/
  resv : SMap Byte := []
  tiles : SMap Tile := []
  gens : SMap Gen := []
  accs : SMap Acc := []
  mslots : SMap Slot := []
  stores : SMap DrainStore := []
  /-- Since when every live strand is parked on a WAIT or BAR (R300). -/
  parkedSince : Option Nat := none
  /-- Draining for a pre-emption since a cycle (R321). -/
  draining : Option Nat := none
  /-- Its drain took too long: it is saved by rollback (R321). -/
  fallback : Bool := false
  /-- Saved by barrier drain (R324). -/
  drained : Bool := false
  /-- The clock of the core that the clump left when it was swapped out or saved (R90, R102, R118). -/
  ltime : Nat := 0
  /-- Where its record lies in the context's save area once it is swapped out or saved, and the record's length (R324). -/
  record : Option (Nat × Nat) := none
  /-- The saved `mgemm` (R326): its progress, handle, issuing band and scope. -/
  prog : Option (Mgemm × Nat × Nat × Nat) := none
  deriving DecidableEq, Repr

/-! ### The sheaf being issued (R11, R264) -/

/-- A strand of the issuing sheaf. -/
structure Lane where
  band : Nat
  lane : Nat
  deriving DecidableEq, Repr

/-- The fields of the extension words in force for the next word (R19 to R22). -/
structure Ext where
  imm : Option (BitVec 22) := none
  qual : Bool := false
  gen : Bool := false
  neg : Bool := false
  p : Nat := 0
  scope : Nat := 4
  order : Nat := 0
  ub : Bool := false
  ua : Bool := false
  cache : Nat := 0
  rm : Nat := 0
  reg : Option (BitVec 7 × BitVec 7 × BitVec 8) := none
  deriving DecidableEq, Repr

/-- Why a chain takes no effect for a strand: it faults, or it stays at the chain's first word and issues it again. -/
inductive Stop where
  | trap (t : Trap)
  | hold (p : Park)
  /-- The strand issues the chain again, with a strand of its band that waits. -/
  | again
  deriving DecidableEq, Repr

/-- What a C-pipe word makes of a strand once the whole chain has taken effect: it delivers a user trap or breakpoint (R311),
or stops the context by a breakpoint under host debugging or by `halt` with a value (R316). -/
inductive After where
  | trap (t : Trap)
  | debug (t : Trap)
  | halt (value : Word)
  /-- The results that the strand had outstanding at its word land before it goes on: those of the first `n`, in program order,
  that write a register of `rs`, if given (R159, R335); and uniform results. -/
  | land (n : Nat) (rs : Option (List Nat)) (ks : List KWrite)
  deriving DecidableEq, Repr

/-- A sheaf whose chain is issuing. -/
structure Sheaf where
  clump : Nat
  die : Nat
  core : Nat
  quad : Nat
  /-- Program counter value of the chain's first word, of the word at hand, and of the first word after the chain. -/
  at_ : Word
  pc : Word
  next : Word
  lanes : List Lane
  ext : Ext := {}
  /-- Where the word at hand starts, its extension words counted. -/
  start : Word := 0
  /-- The chain holds no other word than the one at hand (extension words apart). -/
  solo : Bool := true
  /-- The chain is cancelled for these strands (R11). -/
  stopped : List (Lane × Stop) := []
  /-- Program counters set by the chain's branch, jump or trap, taken when the whole chain has issued (R11). -/
  moved : List (Lane × Word) := []
  /-- What comes once the chain has taken effect. -/
  users : List (Lane × After) := []
  /-- Results of the chain that the next word reads, by their position among those that the strand has outstanding: the link of a call
  (R269), and the status of a WAIT or `sleep` that returns at once (R14, R303). -/
  links : List (Lane × Nat) := []
  /-- The registers that the word at hand names, by their keys (R15). -/
  names : List Nat := []
  /-- The fetch fault of the word after those at hand, which comes where no earlier word faults (R311). -/
  cut : Option Trap := none
  deriving DecidableEq, Repr

/-! ### Memory system -/

/-- What a home slice keeps of a line (R90 to R99). -/
structure HomeLine where
  /-- The time a fill gave all its words (R92); a word's own wts and rts where they differ. -/
  base : Nat := 0
  wts : SMap Nat := []
  rts : SMap Nat := []
  owner : Option Nat := none
  t0 : Nat := 0
  sharers : List Nat := []
  /-- Leases are outstanding (L). -/
  leased : Bool := false
  /-- The context that filled the line in L2 (R102). -/
  ctx : Option Nat := none
  deriving DecidableEq, Repr

/-- The state of an L1 line (R93). -/
inductive LineState where
  | own | lease | shared
  deriving DecidableEq, Repr

/-- An L1 line: its context tag, data, versions, lease ends, and what an owner has written and read (R93 to R95, R102). -/
structure L1Line where
  ctx : Nat
  st : LineState
  data : SMap Byte := []
  base : Nat := 0
  wts : SMap Nat := []
  rts : SMap Nat := []
  dirty : List Nat := []
  /-- The CACHE hint of the access that filled it: 1 stream, 2 keep (R103). -/
  hint : Nat := 0
  deriving DecidableEq, Repr

/-- A pinned page (R89): its physical base and size, HOME, the core for HOME 01, and the context whose access pinned it. -/
structure Pin where
  base : Nat
  size : Nat
  home : Nat
  core : Nat
  ctx : Nat
  deriving DecidableEq, Repr

/-- A request waiting at a slice port for a token (R100, R101). -/
structure PortReq where
  slice : Nat
  ctx : Nat
  prio : Nat
  clump : Nat
  lane : Lane
  /-- Served: the request's next access through the port needs no further token. -/
  granted : Bool := false
  /-- The line it is for (R100): another strand that needs the line waits with it. -/
  line : Nat := 0
  /-- The engine operation that waits for a token to move the line, rather than a strand. -/
  op : Option Nat := none
  deriving DecidableEq, Repr

/-- An armed monitor (R297). -/
structure Monitor where
  slice : Nat
  pa : Nat
  va : Nat
  fn : Nat
  value : Word
  ctx : Nat
  clump : Nat
  band : Nat
  lanes : List Nat
  d : Nat
  /-- ta. -/
  time : Nat
  /-- A satisfying write has performed, or the wait returned spuriously: the status to give. -/
  woken : Option Bool := none
  /-- Acquire at this scope on a true status. -/
  acq : Option Nat := none
  deriving DecidableEq, Repr

/-- A range-lock entry (R137). -/
structure RangeLock where
  ctx : Nat
  /-- The scratchpad's clump, or `none` for the context's virtual addresses. -/
  spad : Option Nat
  lo : Nat
  hi : Nat
  write : Bool
  op : Nat
  /-- What a range conflict reports of the lock (R385). -/
  detail : Nat
  deriving DecidableEq, Repr

/-- A range that an engine operation locks: as an entry, half-open (R137). -/
structure RangeReq where
  spad : Option Nat
  lo : Nat
  hi : Nat
  write : Bool
  deriving DecidableEq, Repr

/-- A cached translation (R328, R330). -/
structure Tlb where
  ctx : Nat
  va : Nat
  size : Nat
  leaf : BitVec 64
  deriving DecidableEq, Repr

/-- A replayable fault that the host has not resolved (R331), and whether its entry has been posted to the queue. -/
structure XFault where
  ctx : Nat
  die : Nat
  /-- The table entry with V = 0, and the span it covers. -/
  pte : Nat
  base : Nat
  size : Nat
  va : Nat
  /-- The entry's second word: kind, level, slot, quadrant, core, die. -/
  info : Nat
  time : Nat
  posted : Bool := false
  deriving DecidableEq, Repr

/-! ### Stacked memory (R53 to R72) -/

/-- A registered sweep (R58, R61, R65): its id's parts, descriptor, the physical pieces of its region in ascending virtual
order, and the 64-byte segments already transformed. -/
structure Sweep where
  slot : Nat
  gen : Nat
  ctx : Nat
  base : Nat
  len : Nat
  func : Nat
  fmt : Nat
  sat : Bool
  bl16 : Bool
  tfmt : Nat
  c : List Word
  map : Nat
  /-- Pieces of the region: physical base and length. -/
  pieces : List (Nat × Nat)
  inStacks : List Nat
  done : SMap Unit := []
  /-- A logical time before every restore still to come: the registration point, and every `swp.pos` report since (R61, R71). -/
  floor : Nat := 0
  deriving DecidableEq, Repr

/-- A deferred update in a stack's queue (R67): its name, its sweep, its segment's physical address, its 64 bytes, and who queued it. -/
structure Delta where
  id : Nat
  slot : Nat
  gen : Nat
  seg : Nat
  bytes : List Byte
  ctx : Nat
  clump : Nat
  band : Nat
  /-- Its queue point. -/
  time : Nat := 0
  /-- Its bytes were poisoned (R317). -/
  bad : Bool := false
  deriving DecidableEq, Repr

/-- A post-copy migration (R68): the new and old physical bases, the page's size, the 4 KiB chunks still to pull and whether
its source is gone (R69). -/
structure Migration where
  new : Nat
  old : Nat
  size : Nat
  left : List Nat
  ctx : Nat
  va : Nat
  deriving DecidableEq, Repr

/-! ### Engine operations (R124) -/

/-- The fields of a copy descriptor (R140). -/
structure CopyDesc where
  form : Nat
  gaddr : Nat
  soff : Nat
  ioff : Nat
  rows : Nat
  rowlen : Nat
  gstride : Int
  sstride : Int
  cval : Nat
  cw : Bool
  esize : Nat
  deriving DecidableEq, Repr

/-- A drain descriptor (R222). -/
structure DrainDesc where
  cgrp : Nat
  dest : Nat
  zero : Bool
  bl16 : Bool
  rq : Nat
  ts : Bool
  act : Bool
  bias : Bool
  daddr : Nat
  dstride : Int
  scoff : Nat
  tsv : Word
  nrow : Nat
  ncol : Nat
  deriving DecidableEq, Repr

/-- The A operand of a step (R212): a tile record, or a generator with its origin. -/
inductive StepSrc where
  | tile (t : Nat)
  | gen (g : Nat) (row0 col0 : Word)
  deriving DecidableEq, Repr

/-- What an engine operation does when it completes. -/
inductive OpKind where
  | copy (d : CopyDesc) (compl : Nat)
  | tload (t base : Nat)
  | tscale (t base : Nat)
  | mload (s t base : Nat)
  | mloadg (s g : Nat) (row0 col0 : Word)
  | step (acc colq s : Nat) (src : StepSrc) (pair : Bool) (chain : Option Nat)
  /-- A step of an open chain that has read its operands and still adds its tree results, to one accumulator or, for a pair, to two
  (R50, R217). -/
  | sum (outs : List (Nat × StepOut)) (chain : Nat)
  /-- `mwait`, a marker on an accumulator (R217). -/
  | mwait (acc : Nat)
  | drain (acc : Nat) (d : DrainDesc) (raw : Bool) (reg : Nat)
  | mact (acc : Nat) (table bias : Nat)
  | mgemm (p : Mgemm)
  | gset (g addr : Nat)
  /-- A released command that waits at issue (R139, R145). -/
  | pend (u : Unreleased)
  /-- `swp.queue`: the sweep's id, and for each update still to queue its segment and its scratchpad offset (R67). -/
  | queue (sweep : Nat) (left : List (Nat × Nat))
  /-- Tape traffic by stream offset: a spilled chunk that has not landed, or a chunk being read back (R245, R252). -/
  | tape (lo : Nat) (spill : Bool)
  /-- What the end of a clump, or a save, writes of an open tape, held up by a replayable fault (R254, R275). -/
  | close
  | bank (fn stack bank row mask off : Nat) (k : Nat) (got : List (Nat × List Word)) (poison : Bool)
  deriving DecidableEq, Repr

/-- An engine operation accepted and not complete. -/
structure Op where
  id : Nat
  ctx : Nat
  clump : Nat
  band : Nat
  die : Nat
  core : Nat
  kind : OpKind
  scope : Nat := 4
  handle : Option Nat := none
  /-- Paused on a replayable translation fault at a virtual address (R143, R331). -/
  paused : Option Nat := none
  /-- Waiting for a chunk of a migrating page, at a virtual address (R68). -/
  pulling : Option Nat := none
  /-- Scratchpad lines that it writes (R133). -/
  lines : List Nat := []
  /-- A logical time before every event of the operation, and the latest at which one has performed (R124). -/
  floor : Nat := 0
  time : Nat := 0
  /-- Tokens that it has been given and not yet used, by bucket (R100). -/
  paid : SMap Nat := []
  deriving DecidableEq, Repr

/-- A write of a completed operation that lies outside its scope and has not performed yet (R124): a name, who issued it, the
narrowest scope that reaches the write, and whether the page is never cached. -/
structure LateWrite where
  id : Nat
  ctx : Nat
  clump : Nat
  band : Nat
  need : Nat
  floor : Nat
  pa : Nat
  home : Nat
  bytes : List Byte
  bad : List Bool
  /-- The operation, whose writes to one byte perform in order (R142), and the tokens given for the write (R100). -/
  op : Nat := 0
  paid : SMap Nat := []
  deriving DecidableEq, Repr

/-- A command in a bank's queue (R79): the operation it belongs to. -/
abbrev BankCmd := Nat

/-! ### Work in the command processor -/

/-- An aggregation window (R291). -/
structure Agg where
  die : Nat
  graph : Nat
  launch : Nat
  opened : Nat
  reqs : List ChildReq
  deriving DecidableEq, Repr

/-- A record in a spawn bin (R294): its four words, the spawner's planting (its priority, graph and node),
and the nodes it belongs to (R286). -/
structure BinRec where
  words : List Word
  prio : Nat
  graph : Nat
  node : Nat
  origins : List (Nat × Nat)
  deriving DecidableEq, Repr

/-- A spawn bin (R294): the image and the entry of its spawn table that bind it, the records on chip (the spilled ones follow in its
spill area), when its timer started, its launch count, and the planting its bands form for a graph (R388). What the entry says is read
from the image that the command at hand has read (R384). -/
structure Bin where
  die : Nat
  ctx : Nat
  image : Nat
  no : Nat
  recs : List BinRec := []
  spilled : List BinRec := []
  timer : Option Nat := none
  launches : Nat := 0
  plantings : List (Nat × Nat) := []
  deriving DecidableEq, Repr

/-- A submission queue (R353) and the command it runs: journal entry, words, and whether the command has started. -/
structure SubQueue where
  base : Nat := 0
  cfg : Nat := 0
  tail : Nat := 0
  head : Nat := 0
  ref : Nat := 0
  /-- The accepted command: its journal entry, its 16 words, and 0 accepted, 1 under way, 2 done and to complete, 3 refused
  and to complete. -/
  cmd : Option (Nat × List Word × Nat) := none
  /-- A replayable fault the queue waits on, and whether the host has aborted it (R386). -/
  fault : Option Nat := none
  aborted : Bool := false
  deriving DecidableEq, Repr

/-- A journal entry (R369). -/
structure JEntry where
  seq : Nat := 0
  queue : Nat := 0
  idx : Nat := 0
  state : Nat := 0
  tacc : Nat := 0
  tdone : Nat := 0
  ctx : Nat := 0
  deriving DecidableEq, Repr

/-! ### Control space (R352 to R356, R359) -/

/-- A reduction window (R359) and what the switches hold of its generation (R361 to R363): for each location the
contributions not yet merged, and the locations that have had theirs. -/
structure Window where
  base : Nat := 0
  len : Nat := 0
  cfg : Nat := 0
  res : Nat := 0
  done : Nat := 0
  gen : Nat := 0
  /-- Enabled but not yet registered with every switch. -/
  pending : Bool := false
  parts : SMap (List (List Byte)) := []
  full : List Nat := []
  deriving DecidableEq, Repr

/-- A context (R353). -/
structure Ctx where
  params : Nat := 0x0FFF0800
  root : Nat := 0
  save : Nat := 0
  snap : Nat := 0
  fqbase : Nat := 0
  fqcfg : Nat := 0
  fqtail : Nat := 0
  fqhead : Nat := 0
  debug : Bool := false
  budget : Nat := Config.noBudget
  /-- A command has supplied a budget, which waits are charged against (R301). -/
  metered : Bool := false
  /-- The logical time saved at pre-emption (R102). -/
  ltime : Nat := 0
  nextId : Nat := 1
  /-- Issue has stopped: 0 pre-emption, 1 budget, 2 context fault, 3 host request (R323). -/
  stopping : Option Nat := none
  /-- The context is saved and away. -/
  away : Bool := false
  /-- Stopped by a context fault, with its code (R316). -/
  faulted : Option Nat := none
  /-- The fault record to write when the context has been saved (R316): words at 0x00, 0x08, 0x10, 0x18. -/
  record : Option (Nat × Nat × Nat × Nat) := none
  /-- A pre-emption request, by its reason, waiting for a mode switch to complete (R322). -/
  modeSwitch : Option Nat := none
  /-- Stopped by its budget until a command supplies one (R301). -/
  broke : Bool := false
  deriving DecidableEq, Repr

/-- Stacked-memory state of the module. DESIGN CHOICE: notes/assumptions/7.md. -/
structure Dram where
  /-- Row pointers and pass numbers of the 8,192 banks (R56), by 32 channel + bank. -/
  row : SMap Nat := []
  pass : SMap Nat := []
  /-- A stack's nominal refreshes of each of its banks (R56): how many have fallen due before its last change of band, and the time of
  the next, in 64ths of a nanosecond. -/
  nominal : SMap (Nat × Nat) := []
  /-- Stacks in the hot band. -/
  hot : List Nat := []
  sweeps : List Sweep := []
  /-- Generations of the 32 slot indices (R70). -/
  gens : SMap Nat := []
  /-- The stacks' deferred update queues (R67), by stack. -/
  deltas : SMap (List Delta) := []
  /-- The logical time of a row's last restore, by 65,536 bank + row: an update queued later has its queue point past it (R67). -/
  restored : SMap Nat := []
  /-- Table latches: byte i of bank b at 128 b + i. Accumulators: output o of bank b at 1,024 b + o (R78). -/
  latch : SMap Byte := []
  acc : SMap Word := []
  accPoison : List Nat := []
  /-- Commands accepted by a bank and not yet executed, by bank; commands waiting at a group's port (R79), by 32 stack +
  bank. -/
  queue : SMap (List BankCmd) := []
  port : SMap (List BankCmd) := []
  migrations : List Migration := []
  /-- Lost pages beyond those a table entry marks: physical base and size (R69, R358). -/
  lost : List (Nat × Nat) := []
  deriving DecidableEq, Repr

/-- The memory system. DESIGN CHOICE: notes/assumptions/6.md. -/
structure Coh where
  home : SMap HomeLine := []
  /-- L1 lines, by 2^45 core + line address. -/
  l1 : SMap L1Line := []
  mts : SMap Nat := []
  /-- Core clocks: a value and the 32-cycle tick at which it stood (R90). -/
  cts : SMap (Nat × Nat) := []
  pins : List Pin := []
  /-- Tokens that a slice and context lack of their depth, by 16 slice + context (R100). -/
  spent : SMap Nat := []
  /-- Idle contexts at a port (R101), by the same key. -/
  idle : List Nat := []
  waiting : List PortReq := []
  monitors : SMap Monitor := []
  tlb : List Tlb := []
  faults : List XFault := []
  /-- Invalidations begun: context, base, length. -/
  invals : List (Nat × Nat × Nat) := []
  /-- Region-table entries cached by a core (R153): core, context, the table's address, index. -/
  rtabs : List (Nat × Nat × Nat × Nat) := []
  deriving DecidableEq, Repr

/-- Control space of the module. DESIGN CHOICE: notes/assumptions/8.md. -/
structure Ctl where
  chip : Nat := 0x3FF
  psize : Nat := 0
  capptr : Nat := 0x1000
  chown : SMap Nat := []
  /-- The ownership in force. -/
  owner : SMap Nat := []
  chst : Nat := 0
  /-- The change under way: its table, and its step (R356). -/
  change : Option (SMap Nat × Nat) := none
  hstat : Nat := 0
  pstat : SMap Nat := []
  queues : SMap SubQueue := []
  windows : SMap Window := []
  atomicRouting : Bool := false
  /-- Channels in the shared pool of each module of the partition (R349). -/
  pools : SMap Nat := []
  /-- Modules of the partition that no route reaches (R358). -/
  gone : List Nat := []
  deriving DecidableEq, Repr

/-- Firmware, keys and management (R365 to R373). DESIGN CHOICE: notes/assumptions/5.md. -/
structure Fw where
  recovery : Bool := false
  /-- A staged image, with whether its signature verifies (R365). -/
  staged : Option Bool := none
  bringUp : Bool := true
  powered : Bool := true
  /-- Too hot: every context is being stopped before the compute dies power down (R372). -/
  hot : Bool := false
  sigIndex : Nat := 0
  /-- Measurement slots 0 to 3 (R366). -/
  meas : List Nat := [0, 0, 0, 0]
  keys : SMap Nat := []
  /-- Management messages answered. -/
  messages : Nat := 0
  deriving DecidableEq, Repr

/-! ### The state -/

/-- The state of one module. -/
structure State where
  /-- Arithmetic-clock cycles since module reset (%clock, R29). -/
  cycle : Nat := 0
  mhz : Nat := 940
  /-- The cycle of the last clock change, and the time at it in nanoseconds, as a fraction (%time, R29, R372). -/
  baseCycle : Nat := 0
  baseNs : Nat := 0
  baseDen : Nat := 1
  mem : Memory := []
  /-- Poisoned 64-byte granules of memory, by address / 64 (R317). -/
  poison : List Nat := []
  coh : Coh := {}
  dram : Dram := {}
  ctl : Ctl := {}
  fw : Fw := {}
  ctxs : SMap Ctx := []
  graphs : SMap Graph := []
  plantings : SMap Planting := []
  waiting : List Waiting := []
  aggs : List Agg := []
  bins : List Bin := []
  clumps : SMap Clump := []
  ops : List Op := []
  /-- Engine writes outside their operations' scopes, still to perform (R124). -/
  late : List LateWrite := []
  locks : List (Nat × RangeLock) := []
  journal : SMap JEntry := []
  jcount : Nat := 0
  /-- Interrupt vectors raised (R353). -/
  irqs : List Nat := []
  /-- Issue slots of each quadrant so far, by 4 core + quadrant (R262). -/
  slots : SMap Nat := []
  /-- Where the loader placed plan areas: context, image address, plan index, base (R384). -/
  placed : List (Nat × Nat × Nat × Nat) := []
  sheaf : Option Sheaf := none
  /-- Events still to come, in order. The model's own: the order in which the module's units act, and what reaches it from
  outside (DESIGN CHOICE, notes/assumptions/1.md). -/
  agenda : List Instr := []
  /-- Counts the free values taken (DESIGN CHOICE, notes/assumptions/2.md). -/
  free : Nat := 0
  /-- The next name for a clump, planting, operation or monitor. -/
  uid : Nat := 1
  deriving DecidableEq, Repr

/-- The machine right after module reset and bring-up (R301, R352, R353, R365, R366).
DEDUCED: notes/assumptions/4.md. -/
def State.reset : State := {}

end Sys2Proof.Machine
end

