-- ==== Sys2Proof/Machine/Ops.lean ====
section
/-!
DEFINITION. The named operations over clumps, bands and strands: reading and writing registers, results outstanding and
their landing (R14, R15), parking and waking (R261), time, and taking a trap (R311 to R316), which is one operation shared by
every instruction that raises one.
-/

namespace Sys2Proof.Machine

/-- The outcome of a step of this machine. -/
abbrev Out := Host.Outcome State Fault Refusal

/-! ### Reaching the parts of the state -/

/-- A clump by its name. -/
def State.clump (s : State) (c : Nat) : Clump := s.clumps.getD c {}

/-- Changes a clump. -/
def State.updClump (s : State) (c : Nat) (f : Clump → Clump) : State := { s with clumps := s.clumps.modify c f }

/-- A band of a clump. -/
def Clump.band (c : Clump) (b : Nat) : Band := (c.bands[b]?).getD {}

/-- Changes a band of a clump. -/
def Clump.updBand (c : Clump) (b : Nat) (f : Band → Band) : Clump := { c with bands := c.bands.set b (f (c.band b)) }

/-- A strand of a band; a lane that is not listed is absent. -/
def Band.strand (b : Band) (l : Nat) : Strand := b.strands.getD l { life := .absent }

/-- Changes a strand of a band. -/
def Band.updStrand (b : Band) (l : Nat) (f : Strand → Strand) : Band := { b with strands := b.strands.modify l f }

/-- A band by clump and number. -/
def State.band (s : State) (c b : Nat) : Band := (s.clump c).band b

/-- Changes a band. -/
def State.updBand (s : State) (c b : Nat) (f : Band → Band) : State := s.updClump c fun x => x.updBand b f

/-- A strand by clump, band and lane. -/
def State.strand (s : State) (c : Nat) (m : Lane) : Strand := (s.band c m.band).strand m.lane

/-- Changes a strand. -/
def State.updStrand (s : State) (c : Nat) (m : Lane) (f : Strand → Strand) : State :=
  s.updBand c m.band fun b => b.updStrand m.lane f

/-- The lanes of a band whose strands are live (R275). -/
def Band.live (b : Band) : List Nat := (b.strands.filter fun x => x.2.life == .live).map (·.1)

/-- %live (R29). -/
def Band.liveMask (b : Band) : BitVec 32 := b.live.foldl (fun a l => a ||| (1#32 <<< l)) 0

/-- A context. -/
def State.ctx (s : State) (c : Nat) : Ctx := s.ctxs.getD c {}

/-- Changes a context. -/
def State.updCtx (s : State) (c : Nat) (f : Ctx → Ctx) : State := { s with ctxs := s.ctxs.put c {} (f (s.ctx c)) }

/-- The planting of a clump. -/
def State.plantingOf (s : State) (c : Nat) : Planting := s.plantings.getD (s.clump c).planting {}

/-- Changes a planting. -/
def State.updPlanting (s : State) (p : Nat) (f : Planting → Planting) : State := { s with plantings := s.plantings.modify p f }

/-- The graph command of a planting. -/
def State.graphOf (s : State) (p : Planting) : Graph := s.graphs.getD p.graph ⟨0, 0, 0, {}, [], []⟩

/-- A core's number in the module. -/
def coreNo (die core : Nat) : Nat := Config.coresPerDie * die + core

/-- The core of a clump. -/
def Clump.coreNo (c : Clump) : Nat := Sys2Proof.Machine.coreNo c.die c.core

/-- A quadrant's number in the module. -/
def quadNo (core quad : Nat) : Nat := Config.quads * core + quad

/-- Issue slots of a quadrant so far. -/
def State.slotCount (s : State) (core quad : Nat) : Nat := s.slots.getD (quadNo core quad) 0

/-- A fresh name. -/
def State.fresh (s : State) : Nat × State := (s.uid, { s with uid := s.uid + 1 })

/-- The next free value below `2^w` (DESIGN CHOICE, notes/assumptions/2.md). -/
def State.freeValue (s : State) (w : Nat) : Nat × State :=
  (Config.freeNat s.free % 2 ^ w, { s with free := s.free + 1 })

/-- Raises an interrupt vector (R353). -/
def State.irq (s : State) (v : Nat) : State := { s with irqs := s.irqs ++ [v] }

/-- The interrupt vector of signal `k` of a context (R353). -/
def ctxVector (c k : Nat) : Nat := 16 + 4 * c + k

/-- Module time in nanoseconds (%time, R29): cycles at the clock in force since its last change (R372). -/
def State.time (s : State) : Nat := (s.baseNs * s.mhz + (s.cycle - s.baseCycle) * 1000 * s.baseDen) / (s.baseDen * s.mhz)

/-! ### Registers -/

/-- A vector register (R150: never written, it reads zero). -/
def Strand.reg (t : Strand) (r : Nat) : Word := t.v.getD r 0

/-- Writes a vector register. -/
def Strand.setReg (t : Strand) (r : Nat) (x : Word) : Strand := { t with v := t.v.put r 0 x }

/-- A 64-bit pair, the low word in the even register. -/
def Strand.pair (t : Strand) (r : Nat) : DWord64 := t.reg (r + 1) ++ t.reg r

/-- A predicate; p0 reads true (R149). -/
def Strand.pred (t : Strand) (r : Nat) : Bool := r == 0 || t.p.getLsbD r

/-- Writes a predicate; a write to p0 is discarded (R17). -/
def Strand.setPred (t : Strand) (r : Nat) (x : Bool) : Strand :=
  if r = 0 then t
  else { t with p := if x then t.p ||| (1#8 <<< r) else t.p &&& ~~~(1#8 <<< r) }

/-- A uniform register. -/
def Band.ureg (b : Band) (r : Nat) : Word := b.k.getD r 0

/-- Writes a uniform register. -/
def Band.setUreg (b : Band) (r : Nat) (x : Word) : Band := { b with k := b.k.put r 0 x }

/-- A uniform pair. -/
def Band.upair (b : Band) (r : Nat) : DWord64 := b.ureg (r + 1) ++ b.ureg r

/-- An entry of a pattern table, identity where nothing is listed (R149). -/
def Band.pattern (b : Band) (t l : Nat) : BitVec 6 := b.ptab.getD (32 * t + l) (BitVec.ofNat 6 l)

/-- Sets a pattern table entry. -/
def Band.setPattern (b : Band) (t l : Nat) (x : BitVec 6) : Band :=
  { b with ptab := b.ptab.put (32 * t + l) (BitVec.ofNat 6 l) x }

/-- %tape (R246). -/
def Tape.word (t : Tape) : Nat :=
  t.mode * 2 ^ 30 + (if t.mode = 0 then 0 else t.pol) * 2 ^ 28 + (if t.div then 2 ^ 27 else 0) + t.count % 2 ^ 24

/-- The words of a 64-bit value written from register `r` on. -/
def writePair (r : Nat) (x : DWord64) : List RegWrite := [.v r (x.setWidth 32), .v (r + 1) ((x >>> 32).setWidth 32)]

/-- Writes of consecutive words from register `r` on. -/
def writeWords : Nat → List Word → List RegWrite
  | _, [] => []
  | r, x :: xs => .v r x :: writeWords (r + 1) xs

/-! ### Results outstanding and their landing (R14, R15) -/

/-- The register that a write names: vector registers from 0, predicates from 128. -/
def RegWrite.key : RegWrite → Nat
  | .v r _ => r
  | .p r _ => 128 + r

/-- Applies one write. -/
def Strand.apply (t : Strand) : RegWrite → Strand
  | .v r x => t.setReg r x
  | .p r x => t.setPred r x

/-- Applies writes in order. -/
def Strand.applyAll (t : Strand) (ws : List RegWrite) : Strand := ws.foldl Strand.apply t

/-- A write to a register in the slot map sets its slot's superseded bit (R155); what an earlier request on the CXL.io path is still to
give the register no longer counts (R15). -/
def Strand.supersede (t : Strand) (ws : List RegWrite) : Strand :=
  { t with super := (t.fast.zip t.super).map fun x => x.2 || ws.any fun w => w.key == x.1.1
           host := t.host.map fun q => { q with dead := q.dead ++ ws.map RegWrite.key } }

/-- A result that will land later: the register keeps its old value until then. DEDUCED: notes/assumptions/74.md. -/
def Strand.push (t : Strand) (ws : List RegWrite) : Strand :=
  if ws = [] then t else { t.supersede ws with out := t.out ++ [ws] }

/-- Drops outstanding writes to the registers of `ws`: a later write in program order has given their final value. -/
def dropKeys (ws : List RegWrite) (out : List (List RegWrite)) : List (List RegWrite) :=
  out.map fun o => o.filter fun w => !(ws.any fun x => x.key == w.key)

/-- Lands the result at position `i`. DEDUCED: notes/assumptions/74.md. -/
def Strand.land (t : Strand) (i : Nat) : Strand :=
  match t.out[i]? with
  | some ws => { t.applyAll ws with out := (dropKeys ws (t.out.take i) ++ t.out.drop (i + 1)).filter (· != []) }
  | none => t

/-- Lands every outstanding result, in program order. -/
def Strand.landAll (t : Strand) : Strand := { t.applyAll t.out.flatten with out := [] }

/-- A write that is visible at once (R269): it supersedes what is outstanding to its register. -/
def Strand.writeNow (t : Strand) (ws : List RegWrite) : Strand :=
  { (t.supersede ws).applyAll ws with out := (dropKeys ws t.out).filter (· != []) }

/-- Lands the uniform result at position `i`. -/
def Band.landK (b : Band) (i : Nat) : Band :=
  match b.kout[i]? with
  | some w => { b.setUreg w.r w.x with kout := (b.kout.take i).filter (fun y => y.r != w.r) ++ b.kout.drop (i + 1) }
  | none => b

/-- What stays outstanding when the uniform results that satisfy `p` land: the others, but for those to a register that a landed
result later in program order has given its final value (R15). -/
def kept (p : KWrite → Bool) : List KWrite → List KWrite
  | [] => []
  | w :: ws => if p w || ws.any (fun y => p y && y.r == w.r) then kept p ws else w :: kept p ws

/-- Lands the uniform results that satisfy `p`, in program order. -/
def Band.landKWhere (b : Band) (p : KWrite → Bool) : Band :=
  { (b.kout.filter p).foldl (fun x w => x.setUreg w.r w.x) b with kout := kept p b.kout }

/-- Lands every uniform result that a lane waits for. -/
def Band.landKFor (b : Band) (l : Nat) : Band := b.landKWhere fun w => w.lanes.contains l

/-- Whether a strand waits for a request on the CXL.io path: one that returns a short-latency result, or an acquire. -/
def HostReq.returns (q : HostReq) : Bool :=
  q.acq || match q.act with
  | .read _ _ _ => true
  | .write _ => false
  | .update _ d => d.isSome
  | .fetch _ d _ => d.isSome

/-- Whether a strand waits for a result on the CXL.io path. -/
def Strand.hostResults (t : Strand) : Bool := t.host.any HostReq.returns

/-- Whether a strand has no short-latency result outstanding (R14). -/
def Band.quiet (b : Band) (l : Nat) : Bool :=
  (b.strand l).out == [] && !(b.strand l).hostResults && !(b.kout.any fun w => w.lanes.contains l)

/-- Applies an engine write to its band. A short-latency result to the same register that is still outstanding is earlier in program
order, since a later word waits for the engine (R15): it is dropped. DEDUCED: notes/assumptions/74.md. -/
def Band.applyEng (b : Band) : EngWrite → Band
  | .lane l w => b.updStrand l fun t => t.writeNow [w]
  | .k r x => { b.setUreg r x with kout := b.kout.filter (·.r != r) }

/-- The lane (32 for a uniform register) and key of the register that an engine write names. -/
def EngWrite.place : EngWrite → Nat × Nat
  | .lane l w => (l, w.key)
  | .k r _ => (32, 256 + r)

/-- The writes of an engine result that no later slot of its chain has overruled (R15). -/
def EngOut.final (e : EngOut) : List EngWrite := e.writes.filter fun w => !e.skip.contains w.place

/-- A later slot writes registers that an engine word of its own chain names: the engine's result no longer changes them (R15). -/
def Band.overrule (b : Band) (places : List (Nat × Nat)) : Band :=
  if b.engOut = [] then b else { b with engOut := b.engOut.map fun e => { e with skip := e.skip ++ places } }

/-! ### The sheaf (R11, R23) -/

/-- The sheaf being issued; where there is none, an empty one. -/
def State.sh (s : State) : Sheaf := s.sheaf.getD { clump := 0, die := 0, core := 0, quad := 0, at_ := 0, pc := 0, next := 0, lanes := [] }

/-- Changes the sheaf. -/
def State.updSh (s : State) (f : Sheaf → Sheaf) : State := { s with sheaf := some (f s.sh) }

/-- The strand of a lane of the sheaf. -/
def State.str (s : State) (m : Lane) : Strand := s.strand s.sh.clump m

/-- The band of a lane of the sheaf. -/
def State.bnd (s : State) (m : Lane) : Band := s.band s.sh.clump m.band

/-- The sheaf's clump. -/
def State.clp (s : State) : Clump := s.clump s.sh.clump

/-- Changes a strand of the sheaf's clump. -/
def State.updStr (s : State) (m : Lane) (f : Strand → Strand) : State := s.updStrand s.sh.clump m f

/-- Whether the chain is cancelled for a lane. -/
def Sheaf.isStopped (h : Sheaf) (m : Lane) : Bool := h.stopped.any fun x => x.1 == m

/-- The value of a guard for a strand (R21, R23). -/
def Ext.guard (e : Ext) (t : Strand) : Bool := !e.gen || (t.pred e.p != e.neg)

/-- The strands for which the word at hand has an effect: those of the sheaf whose guard is true, in ascending home lane,
less those for which the chain is cancelled. -/
def State.active (s : State) : List Lane :=
  s.sh.lanes.filter fun m => !s.sh.isStopped m && s.sh.ext.guard (s.str m)

/-- The bands with a participant, each with its participants (R167), in ascending band slot. -/
def State.activeBands (s : State) : List (Nat × List Lane) :=
  (List.range s.clp.bands.length).filterMap fun b =>
    let ms := s.active.filter fun m => m.band == b
    if ms = [] then none else some (b, ms)

/-- Results for each active strand, to land later; each is computed from the state before the instruction (R5). -/
def State.perLane (s : State) (f : Lane → List RegWrite) : State :=
  s.active.foldl (fun t m => t.updStr m fun x => x.push (f m)) s

/-- The same, where a result also moves the strand's stochastic-rounding counter (R42). -/
def State.perLaneSr (s : State) (f : Lane → List RegWrite × Word) : State :=
  s.active.foldl (fun t m => t.updStr m fun x => { x.push (f m).1 with ctr := (f m).2 }) s

/-- A uniform result for each band with a participant, to land later (R168). Which strands of the band have it outstanding, for their
switch markers, the spec does not say (R14, R165): the model takes every strand of the sheaf in the band, those whose guard is false
included (DESIGN CHOICE, notes/assumptions/105.md). -/
def State.perBand (s : State) (r : Nat) (f : Nat → List Lane → Word) : State :=
  s.activeBands.foldl (fun t bm => t.updBand s.sh.clump bm.1 fun b =>
    { b with kout := b.kout ++ [⟨r, f bm.1 bm.2, (s.sh.lanes.filter fun m => m.band == bm.1).map (·.lane)⟩] }) s

/-- The word at `pc` has ended a strand's region (R156). A strand that the word has parked is in the gap once the word has performed for it,
when the park ends; where an earlier word of the chain has parked it, it is in the gap now, and its rollback point has moved past the
chain, to `next` (R157). -/
def Strand.endsRegion (t : Strand) (pc next : Word) : Strand :=
  match t.park with
  | none => { t with gap := true, stay := true, spurious := none }
  | some p => if p.word = pc then t else { t with gap := true, redo := next, stay := true, spurious := none }

/-- The active strands are in the gap: the word at hand ended their region. -/
def State.endRegion (s : State) : State := s.active.foldl (fun t m => t.updStr m fun x => x.endsRegion s.sh.pc s.sh.next) s

/-- Moves a strand's program counter once the chain has issued (R11). -/
def State.moveTo (s : State) (m : Lane) (pc : Word) : State :=
  s.updSh fun h => { h with moved := h.moved.filter (fun x => x.1 != m) ++ [(m, pc)] }

/-- A result of a strand that lands when its chain ends, so that the next word reads it: a link (R269), or the status of a WAIT or `sleep`
that returns at once, which is no short-latency result (R14). -/
def State.soon (s : State) (m : Lane) (w : RegWrite) : State :=
  (s.updStr m fun t => t.push [w]).updSh fun h => { h with links := h.links ++ [(m, (s.str m).out.length)] }

/-- The status of a parked word goes to its strand as the park ends, unless a later slot of the word's chain has written the register
(R15). -/
def Strand.giveStatus (t : Strand) (w : RegWrite) : Strand := if t.overruled then t else t.writeNow [w]

/-! ### Parking and waking (R261, R262) -/

/-- A strand becomes ready: its age and its count of passes start anew. -/
def State.ready (s : State) (c : Nat) (m : Lane) : State :=
  let n := s.slotCount (s.clump c).coreNo (s.band c m.band).quad
  s.updStrand c m fun t => { t with since := n, passes := 0 }

/-- Whether the word of a park has performed when the park ends, and ends its region (R156). -/
def Park.performs (p : Park) : Bool :=
  p.next.isSome &&
    (match p.on with
     | .spad _ _ _ => false
     | .fence fn _ _ => fn != 4 && fn != 7
     | _ => true)

/-- A strand's park has ended: its word has performed, or it issues the chain again. -/
def Strand.unparked (t : Strand) (p : Park) : Strand :=
  { t with park := none, pc := p.next.getD t.pc, gap := t.gap || p.performs, stay := t.stay || p.performs, overruled := false
           spurious := if p.performs then none else t.spurious }

/-- Ends a strand's park: it goes on after the word, or issues the chain again. -/
def State.unpark (s : State) (c : Nat) (m : Lane) : State :=
  match (s.strand c m).park with
  | some p =>
    let s := s.updStrand c m fun t => t.unparked p
    (s.updClump c fun x => { x with parkedSince := none }).ready c m
  | none => s

/-- A strand waits for a scratchpad load of its switch region, whose result is still to come (R14, R135). -/
def Strand.loads (t : Strand) : Bool :=
  match t.park with
  | some ⟨.spad _ _ _, _, _⟩ => true
  | _ => false

/-- Clears a switch marker once nothing is outstanding (R14). -/
def State.clearMarker (s : State) (c : Nat) (m : Lane) : State :=
  if (s.strand c m).marker && !(s.strand c m).loads && (s.band c m.band).quiet m.lane then
    (s.updStrand c m fun t => { t with marker := false }).ready c m
  else s

/-- Parks a strand at the word at hand; it goes on at `next` when the park ends. -/
def State.parkAt (s : State) (m : Lane) (on : ParkOn) : State :=
  s.updStr m fun t => { t with park := some ⟨on, s.sh.pc, some s.sh.next⟩, redo := s.sh.start, overruled := false }

/-- A strand's requests at slice ports that have been served and not used come to nothing: a token that is not used when it is taken is
lost (R101). -/
def State.dropGrants (s : State) (c : Nat) (m : Lane) : State :=
  let mine (r : PortReq) : Bool := r.granted && r.clump == c && r.lane == m
  if s.coh.waiting.any mine then { s with coh := { s.coh with waiting := s.coh.waiting.filter fun r => !mine r } } else s

/-! ### Taking a trap (R311 to R316) -/

/-- %trapinfo (R312). -/
def Trap.info (t : Trap) : DWord64 := BitVec.ofNat 8 t.cause.code ++ BitVec.ofNat 56 t.addr

/-- The third doubleword of a fault record (R316): %epc, band slot, core, die and lane. -/
def whereWord (epc : Word) (slot core die lane : Nat) : Nat :=
  epc.toNat + slot % 256 * 2 ^ 32 + core % 256 * 2 ^ 40 + die % 4 * 2 ^ 48 + lane % 32 * 2 ^ 50

/-- A context fault (R316): issue stops for the context, which is saved as a pre-emption by rollback saves it, and its record
waits to be written. The first one stops the context. -/
def State.contextFault (s : State) (c : Nat) (m : Lane) (code value : Nat) : State :=
  let k := s.clump c
  let t := s.strand c m
  let b := s.band c m.band
  if (s.ctx k.ctx).faulted.isSome then s
  else s.updCtx k.ctx fun x =>
    { x with stopping := some 2, faulted := some code,
             record := some (code, t.tinfo.toNat, whereWord t.epc b.slot k.core k.die m.lane, value) }

/-- What a trap leaves in its strand before the handler is entered: outstanding results land; %trapinfo, the trap detail and
%epc are written; the strand is in the gap. -/
def State.noteTrap (s : State) (c : Nat) (m : Lane) (t : Trap) (epc : Word) : State :=
  s.updBand c m.band fun b =>
    (b.landKFor m.lane).updStrand m.lane fun x =>
      { x.landAll with tinfo := t.info, detail := BitVec.ofNat 64 t.detail, epc := epc, gap := true, fast := [], super := [],
                       marker := false, trap := none, park := none, fenced := false, got := none, overruled := false, spurious := none
                       stay := false }

/-- Delivers a trap to a strand (R315), with the value that %epc takes (R311): the handler is entered with H set, or, with H
already set or without a handler, the context faults, and the strand's rollback point is its faulting program counter `back`. -/
def State.deliverNow (s : State) (c : Nat) (m : Lane) (t : Trap) (epc back : Word) : State :=
  let h := (s.strand c m).h
  let handler := (s.plantingOf c).handler
  let s := s.noteTrap c m t epc
  match h, handler with
  | false, some e => (s.updStrand c m fun x => { x with h := true, pc := e }).ready c m
  | h, _ => (s.updStrand c m fun x => { x with pc := back, stay := true }).contextFault c m (if h then 2 else 1) 0

/-- Delivers a trap once the strand's results on the CXL.io path have returned (R15, R315): until then it is under delivery, and the
strand keeps the two program counter values. -/
def State.deliverFrom (s : State) (c : Nat) (m : Lane) (t : Trap) (epc back : Word) : State :=
  if (s.strand c m).hostResults then
    s.updStrand c m fun x => { x with trap := some t, pc := epc, redo := back, park := none, marker := false }
  else s.deliverNow c m t epc back

/-- Delivers a fault, whose %epc is its faulting program counter. -/
def State.deliver (s : State) (c : Nat) (m : Lane) (t : Trap) (epc : Word) : State := s.deliverFrom c m t epc epc

/-- The chain takes no effect for a strand, which takes a trap or is held at the chain's first word (R11, R311). -/
def State.applyStop (s : State) (m : Lane) : Stop → State
  | .trap t => s.deliver s.sh.clump m t s.sh.at_
  | .hold p => s.updStr m fun x => { x with park := some p }
  | .again => s

/-- Stops the chain for a strand and applies what stopped it; the lowest slot's cause stands (R311). -/
def State.stop (s : State) (m : Lane) (x : Stop) : State :=
  if s.sh.isStopped m then s else (s.updSh fun h => { h with stopped := h.stopped ++ [(m, x)] }).applyStop m x

/-- A word faults for a strand of the sheaf (R5, R311). -/
def State.trap (s : State) (m : Lane) (t : Trap) : State := s.stop m (.trap t)

/-- Holds a strand at the chain, which it issues again when the park ends. -/
def State.hold (s : State) (m : Lane) (on : ParkOn) : State := s.stop m (.hold ⟨on, s.sh.pc, none⟩)

/-- A cause that arises for the band goes to every strand of the issuing sheaf (R314). -/
def State.trapAll (s : State) (t : Trap) : State := s.sh.lanes.foldl (fun x m => x.trap m t) s

/-- Holds every strand of the sheaf. -/
def State.holdAll (s : State) (on : ParkOn) : State := s.sh.lanes.foldl (fun x m => x.hold m on) s

/-- Something comes for a strand once the chain's other words have taken effect (R311). -/
def State.afterChain (s : State) (m : Lane) (x : After) : State := s.updSh fun h => { h with users := h.users ++ [(m, x)] }

/-- Lands the first `n` results outstanding, in program order, that write a register of `rs`, if given. -/
def Strand.landFirst (t : Strand) (n : Nat) (rs : Option (List Nat)) : Strand :=
  ((t.out.take n).filter fun ws => ws.any fun w => rs.all (·.contains w.key)).foldl (fun t ws =>
    match t.out.findIdx? (· == ws) with
    | some i => t.land i
    | none => t) t

/-- What comes after the chain: %epc is the first word after it. DEDUCED: notes/assumptions/48.md. -/
def State.runAfter (s : State) (m : Lane) (x : After) : State :=
  let h := s.sh
  let back (s : State) : State := s.updStrand h.clump m fun y => { y with pc := h.at_, gap := true, park := none, stay := true }
  match x with
  | .trap t => s.deliverFrom h.clump m t h.next h.at_
  | .debug t => (back (s.noteTrap h.clump m t h.next)).contextFault h.clump m 4 0
  | .halt v => (back s).contextFault h.clump m 3 v.toNat
  | .land n rs ks => s.updBand h.clump m.band fun b =>
    (b.landKWhere ks.contains).updStrand m.lane fun t => t.landFirst n rs

/-- Leaves a pending band fault; a band holds at most one (R314). -/
def State.bandFault (s : State) (c b : Nat) (t : Trap) : State := s.updBand c b fun x => { x with pend := some t }

end Sys2Proof.Machine
end

