-- ==== Sys2Proof/Machine/Translate.lean ====
section
/-!
DEFINITION. The physical address map (R53 to R55, R86, R348, R349), pinned pages (R88, R89) and address translation (R328 to
R331).
-/

namespace Sys2Proof.Machine

/-! ### The physical map -/

/-- Bytes of a channel (R53). -/
def channelBytes : Nat := 2 ^ 32

/-- The channels of an interleave set in ascending number: code 0 the shared pool, `1 + c` context `c` (R54). -/
def Ctl.channels (c : Ctl) (code : Nat) : List Nat := (List.range 256).filter fun g => c.owner.getD g 0 == code

/-- Where the window of a set begins (R53). -/
def setBase (code : Nat) : Nat := if code = 0 then 0 else 2 ^ 44 + (code - 1) * 2 ^ 40

/-- Bytes of a set. -/
def Ctl.setBytes (c : Ctl) (code : Nat) : Nat := (c.channels code).length * channelBytes

/-- The second tier (R53). -/
def secondBase : Nat := 0x020000000000
def secondEnd : Nat := secondBase + 1536 * 10 ^ 9
/-- Host-attached memory, control space and remote windows (R348). -/
def hostBase : Nat := 0x200000000000
def controlBase : Nat := 0x400000000000
def controlEnd : Nat := 0x400100000000
def remoteBase : Nat := 0x1000000000000
def remoteEnd : Nat := remoteBase + 576 * 2 ^ 42

/-- What lies at a physical address. -/
inductive Place52 where
  /-- Stacked memory of a set (R54), at an offset in its window. -/
  | stacked (code off : Nat)
  | second
  | host
  | control
  /-- The window onto another module of the partition. -/
  | remote (module : Nat)
  | nothing
  deriving DecidableEq, Repr

/-- Bytes of another module's shared pool (R349). -/
def Ctl.poolBytes (c : Ctl) (n : Nat) : Nat := Nat.min (c.pools.getD n 0) 256 * channelBytes

/-- The map of R53 and R348. A remote window holds that module's shared pool and its second tier.
DESIGN CHOICE: notes/assumptions/23.md. -/
def Ctl.place (c : Ctl) (pa : Nat) : Place52 :=
  if pa < 2 ^ 40 then if pa < c.setBytes 0 then .stacked 0 pa else .nothing
  else if secondBase ≤ pa ∧ pa < secondEnd then .second
  else if 2 ^ 44 ≤ pa ∧ pa < 2 ^ 44 + 16 * 2 ^ 40 then
    let code := (pa - 2 ^ 44) / 2 ^ 40 + 1
    if (pa - 2 ^ 44) % 2 ^ 40 < c.setBytes code then .stacked code ((pa - 2 ^ 44) % 2 ^ 40) else .nothing
  else if hostBase ≤ pa ∧ pa < controlBase then .host
  else if controlBase ≤ pa ∧ pa < controlEnd then .control
  else if remoteBase ≤ pa ∧ pa < remoteEnd then
    let n := (pa - remoteBase) / 2 ^ 42
    let o := (pa - remoteBase) % 2 ^ 42
    if n = c.chip ∨ c.psize ≤ n then .nothing
    else if o < c.poolBytes n ∨ (secondBase ≤ o ∧ o < secondEnd) then .remote n else .nothing
  else .nothing

/-- The DRAM coordinates of an offset in a set: channel, bank, row and byte within the 2 KiB row (R54). -/
structure Coord where
  channel : Nat
  bank : Nat
  row : Nat
  byte : Nat
  deriving DecidableEq, Repr

/-- Decodes an offset in the window of a set (R54). -/
def Ctl.decodeOff (c : Ctl) (code off : Nat) : Coord :=
  let chs := c.channels code
  let m := Nat.log2 chs.length
  ⟨(chs[off / 2 ^ 8 % 2 ^ m]?).getD 0, off / 2 ^ (8 + m) % 32, off / 2 ^ (16 + m) % 2 ^ 16,
    off / 2 ^ (13 + m) % 8 * 256 + off % 256⟩

/-- The DRAM coordinates of a physical address of stacked memory. -/
def Ctl.coord (c : Ctl) (pa : Nat) : Option Coord :=
  match c.place pa with
  | .stacked code off => some (c.decodeOff code off)
  | _ => none

/-- The number of a bank in the module (R76), and that of the bank of a coordinate. -/
def bankNo (channel bank : Nat) : Nat := 32 * channel + bank
def Coord.bankNo (x : Coord) : Nat := Sys2Proof.Machine.bankNo x.channel x.bank

/-- The slice of an address that every module homes by its line address: the second tier and host lines (R86). -/
def farSlice (pa : Nat) : Nat := Config.slicesPerDie * (pa / 128 % 4) + pa / 512 % Config.slicesPerDie

/-- The home slice of a physical address, `96 × die + slice` (R86). The slices of module n of the partition, which home its memory
(R117), follow at 384 (n + 1). DESIGN CHOICE: notes/assumptions/23.md. -/
def Ctl.homeSlice (c : Ctl) (pa : Nat) : Nat :=
  match c.place pa with
  | .stacked code off => Config.slicesPerDie * ((c.decodeOff code off).channel % 16 / 4) + pa / 128 % Config.slicesPerDie
  | .remote n =>
    let o := (pa - remoteBase) % 2 ^ 42
    Config.dies * Config.slicesPerDie * (n + 1) +
      (if o < secondBase then Config.slicesPerDie * (Config.remoteDie n o % 4) + o / 128 % Config.slicesPerDie else farSlice o)
  | _ => farSlice pa

/-- A home slice of this module. -/
def localSlice (k : Nat) : Bool := decide (k < Config.dies * Config.slicesPerDie)

/-- The core in whose SRAM a physical address is pinned: that core, and no slice, is its home (R86, R88). -/
def State.pinnedCore (s : State) (pa : Nat) : Option Nat :=
  (s.coh.pins.find? fun p => p.home == 1 && decide (p.base ≤ pa) && decide (pa < p.base + p.size)).map (·.core)

/-- The die of this module at which a physical address is homed. -/
def State.homeDie (s : State) (pa : Nat) : Nat :=
  match s.pinnedCore pa with
  | some c => c / Config.coresPerDie
  | none => s.ctl.homeSlice pa / Config.slicesPerDie % Config.dies

/-! ### Reading what is current -/

/-- The key of an L1 line: its core and its line address. -/
def l1Key (core line : Nat) : Nat := 2 ^ 45 * core + line

/-- The current value of a byte: in its owner's L1, else at home. DEDUCED: notes/assumptions/30.md. -/
def State.latest (s : State) (pa : Nat) : Byte :=
  match (s.coh.home.find? (pa / 128)).bind (·.owner) with
  | some c =>
    match s.coh.l1.find? (l1Key c (pa / 128)) with
    | some l => if l.st == .own && l.dirty.contains (pa % 128 / 4) then l.data.getD (pa % 128) 0 else s.mem.read pa
    | none => s.mem.read pa
  | none => s.mem.read pa

/-- The current value of `n` bytes. -/
def State.latestBytes (s : State) (pa n : Nat) : List Byte := (List.range n).map fun i => s.latest (pa + i)

/-- The current number in `n` bytes, little-endian. -/
def State.latestNat (s : State) (pa n : Nat) : Nat := leNat (s.latestBytes pa n)

/-- Whether a physical page is lost (R69, R358). The mark of a page that a migration could not pull is kept here, by physical range,
beside the LOST bit that the host sets in a table entry: the spec does not say where the device keeps it, and the model leaves the
entry in memory as it is (DESIGN CHOICE, notes/assumptions/82.md). -/
def State.isLost (s : State) (pa : Nat) : Bool :=
  (s.dram.lost.any fun x => decide (x.1 ≤ pa) && decide (pa < x.1 + x.2)) ||
    (match s.ctl.place pa with
     | .remote n => s.ctl.gone.contains n
     | _ => false)

/-! ### Table walks (R329, R330) -/

/-- The kinds of access (R331). -/
inductive Kind where
  | read | write | atomic | fetch | engRead | engWrite
  deriving DecidableEq, Repr

/-- The code of a kind in a fault-queue entry. -/
def Kind.code : Kind → Nat
  | .read => 0 | .write => 1 | .atomic => 2 | .fetch => 3 | .engRead => 4 | .engWrite => 5

/-- Whether a kind of access writes. -/
def Kind.writes : Kind → Bool
  | .write => true | .atomic => true | .engWrite => true | _ => false

/-- The fields of a table entry. -/
def pteBit (e i : Nat) : Bool := Nat.testBit e i
def ptePa (e : Nat) : Nat := e / 2 ^ 12 % 2 ^ 40 * 2 ^ 12
def pteHome (e : Nat) : Nat := e / 2 ^ 6 % 4
def ptePin (e : Nat) : Nat := e / 2 ^ 52 % 2 ^ 10

/-- What a walk finds: a leaf for the page at a virtual base, an entry with V = 0 (its level, address, and the span it
covers), or a malformed entry. -/
inductive Walk where
  | leaf (base size e : Nat)
  | absent (level pte base size : Nat)
  /-- A table lies in memory of a module that has failed (R358). -/
  | lost
  | bad
  deriving DecidableEq, Repr

/-- The levels of a walk: number, shift of the index, bits of the index. -/
def levels : List (Nat × Nat × Nat) := [(0, 48, 8), (1, 39, 9), (2, 30, 9), (3, 21, 9), (4, 16, 5)]

/-- A reserved bit of an entry is set. -/
def pteReserved (e : Nat) : Bool := decide (e / 2 ^ 62 % 4 ≠ 0) || decide (e / 2 ^ 10 % 4 ≠ 0) || decide (e / 2 ^ 2 % 4 ≠ 0)

/-- Walks from a table. -/
def State.walkFrom (s : State) (va : Nat) : Nat → List (Nat × Nat × Nat) → Walk
  | _, [] => .bad
  | table, (lvl, sh, bits) :: rest =>
    let pte := table + 8 * (va / 2 ^ sh % 2 ^ bits)
    let e := s.latestNat pte 8
    let base := va / 2 ^ sh * 2 ^ sh
    if s.isLost pte then .lost
    else if !pteBit e 0 then .absent lvl pte base (2 ^ sh)
    else if pteReserved e then .bad
    else if pteBit e 1 then
      if lvl < 2 ∨ ptePa e % 2 ^ sh ≠ 0 then .bad else .leaf base (2 ^ sh) e
    else if pteHome e ≠ 0 ∨ pteBit e 9 ∨ pteBit e 8 ∨ ptePin e ≠ 0 ∨ pteBit e 5 ∨ pteBit e 4 then .bad
    else s.walkFrom va (ptePa e) rest

/-- A walk from a context's root (R329); a root that is not enabled covers nothing (DEDUCED, notes/assumptions/10.md). -/
def State.walk (s : State) (ctx va : Nat) : Walk :=
  let r := (s.ctx ctx).root
  if r % 2 = 1 then s.walkFrom va (ptePa r) levels else .absent 0 (2 ^ 52) (va / 2 ^ 48 * 2 ^ 48) (2 ^ 48)

/-- A cached translation of an address (R328). -/
def State.cached (s : State) (ctx va : Nat) : Option Tlb :=
  s.coh.tlb.find? fun t => t.ctx == ctx && decide (t.va ≤ va) && decide (va < t.va + t.size)

/-- The leaf for an address: cached, or by a walk. -/
def State.leafFor (s : State) (ctx va : Nat) : Walk :=
  match s.cached ctx va with
  | some t => .leaf t.va t.size t.leaf.toNat
  | none => s.walk ctx va

/-- Whether a table, or one below it, has a leaf for a page that `hit` takes by its base and size; a lost table maps nothing (R358). -/
def State.tableMaps (s : State) (hit : Nat → Nat → Bool) : Nat → List (Nat × Nat × Nat) → Bool
  | _, [] => false
  | table, (lvl, sh, bits) :: rest =>
    !s.isLost table && (List.range (2 ^ bits)).any fun i =>
      let e := s.latestNat (table + 8 * i) 8
      pteBit e 0 && (if pteBit e 1 then decide (2 ≤ lvl) && hit (ptePa e) (2 ^ sh) else s.tableMaps hit (ptePa e) rest)

/-- Whether a context maps memory of the shared pool (R356): by its table, or by a translation still cached.
DEDUCED: notes/assumptions/13.md. -/
def State.mapsPool (s : State) (ctx : Nat) : Bool :=
  let hit (pa _ : Nat) : Bool := decide (pa < s.ctl.setBytes 0)
  let r := (s.ctx ctx).root
  (s.coh.tlb.any fun t => t.ctx == ctx && hit (ptePa t.leaf.toNat) t.size) || (r % 2 == 1 && s.tableMaps hit (ptePa r) levels)

/-! ### Pinned pages (R89) -/

/-- What of a physical span lies outside another. -/
def spanLess (x p : Nat × Nat) : List (Nat × Nat) :=
  [(x.1, Nat.min (x.1 + x.2) p.1 - x.1), (Nat.max x.1 (p.1 + p.2), x.1 + x.2 - Nat.max x.1 (p.1 + p.2))].filter fun y => y.2 != 0

/-- Spans that cover what some spans cover, none of it twice. -/
def disjointSpans (xs : List (Nat × Nat)) : List (Nat × Nat) :=
  xs.foldl (fun acc p => acc ++ acc.foldl (fun rest q => rest.flatMap (spanLess · q)) [p]) []

/-- Lines of physical spans at each home slice. -/
def Ctl.spanLines (c : Ctl) (xs : List (Nat × Nat)) : SMap Nat :=
  xs.foldl (fun m x => (List.range (x.2 / 128)).foldl (fun m i =>
    let k := c.homeSlice (x.1 + 128 * i)
    m.insert k (m.getD k 0 + 1)) m) []

/-- Whether a page with HOME 10 fits beside those pinned in chip slices: 8,192 lines a slice, a line counting once however many pinned
pages hold it. -/
def State.sliceFits (s : State) (base size : Nat) : Bool :=
  let pinned := (s.coh.pins.filter fun p => p.home == 2).map fun p => (p.base, p.size)
  let all := s.ctl.spanLines (disjointSpans ((base, size) :: pinned))
  (s.ctl.spanLines [(base, size)]).all fun x => decide (all.getD x.1 0 ≤ 8192)

/-- A pinned page holds a byte of a physical span, or all of it. -/
def Pin.meets (p : Pin) (base size : Nat) : Bool := decide (p.base < base + size) && decide (base < p.base + p.size)
def Pin.covers (p : Pin) (base size : Nat) : Bool := decide (p.base ≤ base) && decide (base + size ≤ p.base + p.size)

/-- The pin that an access through a pinning leaf makes: `none` if the page may not be pinned so, `some none` if it is already
pinned as the leaf asks, itself or within a larger page. The spec does not say what a leaf meets that asks for one pinned HOME where
memory of the page is pinned under the other: the model takes the page as one that does not fit, which is "page attribute"
(DESIGN CHOICE, notes/assumptions/83.md). -/
def State.pinFor (s : State) (ctx base size e : Nat) : Option (Option Pin) :=
  let home := pteHome e
  let core := if home = 1 then ptePin e else 0
  let met := s.coh.pins.filter fun p => p.meets base size
  if met.any fun p => p.home != home || p.core != core then none
  else if met.any fun p => p.covers base size then some none
  else
    let ok := if home = 1 then !(s.coh.pins.any fun p => p.home == 1 && p.core == core) else s.sliceFits base size
    if ok then some (some ⟨base, size, home, core, ctx⟩) else none

/-! ### Translating an access -/

/-- The result of a translation: a physical address, its leaf and page, and the pin the access makes; a replayable fault; a
page still being pulled; or a cause. -/
inductive Xlate where
  | ok (pa e base size : Nat) (pin : Option Pin)
  | absent (level pte base size : Nat)
  | migrating
  | bad (c : Cause)
  deriving DecidableEq, Repr

/-- Whether a page still waits for the chunk at a physical address (R68). -/
def State.isMigrating (s : State) (pa : Nat) : Bool :=
  s.dram.migrations.any fun m =>
    decide (m.new ≤ pa) && decide (pa < m.new + m.size) && m.left.contains ((pa - m.new) / 4096)

/-- The bytes of control space that a strand of a context may reach (R354), at an offset. -/
def State.controlOpen (s : State) (ctx off n : Nat) : Bool :=
  (decide (0x100000 + 0x1000 * ctx ≤ off) && decide (off + n ≤ 0x100000 + 0x1000 * ctx + 0x1000)) ||
    (decide (0x10000 ≤ off) && decide (off < 0x12000) && decide (0x0C ≤ off % 32) && decide (off % 32 + n ≤ 0x10) &&
      decide ((s.ctl.queues.getD ((off - 0x10000) / 32) {}).cfg / 2 ^ 8 % 16 = ctx))

/-- The causes of R53, R55, R89, R349, R351 and R354 that apply to a leaf, for a physical address and access size. -/
def State.leafCause (s : State) (ctx pa n size e : Nat) (strand : Bool) : Option Cause :=
  let home := pteHome e
  let whole := s.ctl.place (ptePa e)
  let last := s.ctl.place (ptePa e + size - 1)
  if whole = .nothing ∨ last = .nothing then some .physicalRange
  else
    match s.ctl.place pa with
    | .stacked code _ =>
      if code ≠ 0 ∧ code ≠ 1 + ctx then some .channelOwnership
      else if home = 1 ∧ (size ≠ 2 ^ 16 ∨ 896 ≤ ptePin e) then some .pageAttribute
      else if home = 2 ∧ 2 ^ 21 < size then some .pageAttribute
      else none
    | .second =>
      if home = 1 ∧ (size ≠ 2 ^ 16 ∨ 896 ≤ ptePin e) then some .pageAttribute
      else if home = 2 ∧ 2 ^ 21 < size then some .pageAttribute
      else none
    | .host => if home = 1 ∨ (home = 2 ∧ 2 ^ 21 < size) then some .pageAttribute else none
    | .remote _ => if home = 1 ∨ (home = 2 ∧ 2 ^ 21 < size) then some .pageAttribute else none
    | .control => if strand ∧ home = 3 ∧ s.controlOpen ctx (pa - controlBase) n then none else some .physicalRange
    | .nothing => some .physicalRange

/-- Translates an access of `n` bytes by a context (R329 to R331). -/
def State.translate (s : State) (ctx va n : Nat) (k : Kind) (strand : Bool := true) : Xlate :=
  if 2 ^ 56 ≤ va then .bad .virtualRange
  else
    match s.leafFor ctx va with
    | .bad => .bad .pageTable
    | .lost => .bad .pageLost
    | .absent l p b z => .absent l p b z
    | .leaf base size e =>
      let pa := ptePa e + (va - base)
      if pteBit e 8 ∨ s.isLost pa then .bad .pageLost
      else
        match s.leafCause ctx pa n size e strand with
        | some c => .bad c
        | none =>
          if k.writes ∧ !pteBit e 4 then .bad .pageProtection
          else if k = .fetch ∧ !pteBit e 5 then .bad .fetch
          else if pteBit e 9 ∧ s.isMigrating pa then .migrating
          else if pteHome e = 1 ∨ pteHome e = 2 then
            match s.pinFor ctx (ptePa e) size e with
            | some p => .ok pa e base size p
            | none => .bad .pageAttribute
          else .ok pa e base size none

/-- Records a replayable fault (R331): faults of one die at one table entry stand as one until the host resolves it. -/
def State.noteFault (s : State) (ctx die va level pte base size kind band quad core : Nat) : State :=
  if s.coh.faults.any fun f => f.ctx == ctx && f.die == die && f.pte == pte then s
  else
    let info := kind + level * 2 ^ 4 + band % 256 * 2 ^ 16 + quad * 2 ^ 24 + core * 2 ^ 32 + die * 2 ^ 48
    { s with coh := { s.coh with faults := s.coh.faults ++ [⟨ctx, die, pte, base, size, va, info, s.time, false⟩] } }

end Sys2Proof.Machine
end

