-- ==== Sys2Proof/Machine/Home.lean ====
section
/-!
DEFINITION. Logical time and the home slices: how loads, stores, updates, engine and host accesses perform (R87 to R99), what
they do to L1 lines, and the tokens of a slice port (R100).
-/

namespace Sys2Proof.Machine

/-! ### Clocks (R90) -/

/-- The 32-cycle tick that module time has reached. -/
def State.tick (s : State) : Nat := s.cycle / 32

/-- A core's logical clock: at least a tick in every 32 cycles. -/
def State.cts (s : State) (core : Nat) : Nat :=
  match s.coh.cts.find? core with
  | some (v, k) => v + (s.tick - k)
  | none => s.tick

/-- Advances a core's clock to a time; it never goes back. DEDUCED: notes/assumptions/77.md. -/
def State.raise (s : State) (core t : Nat) : State :=
  if s.cts core < t then { s with coh := { s.coh with cts := s.coh.cts.insert core (t, s.tick) } } else s

/-- The latest clock of any core. DEDUCED: notes/assumptions/77.md. -/
def State.top (s : State) : Nat := s.coh.cts.foldl (fun a x => Nat.max a (s.cts x.1)) s.tick

/-- A time past every time at which an access has performed. DEDUCED: notes/assumptions/30.md. -/
def State.horizon (s : State) : Nat :=
  let line (h : HomeLine) : Nat := h.rts.foldl (fun a x => Nat.max a x.2) (h.wts.foldl (fun a x => Nat.max a x.2) (Nat.max h.base h.t0))
  Nat.max (s.coh.home.foldl (fun a x => Nat.max a (line x.2)) s.top) (s.coh.mts.foldl (fun a x => Nat.max a x.2) 0) + 1

/-- The lease length of a context in ticks (R91, R100). -/
def State.lease (s : State) (ctx : Nat) : Nat :=
  let n := (s.ctx ctx).params / 2 ^ 32 % 2 ^ 10
  if n = 0 then 64 else n

/-! ### Home state -/

/-- The line of an address, and the words that an access touches within it. -/
def lineOf (pa : Nat) : Nat := pa / 128
def wordsOf (pa n : Nat) : List Nat := (List.range (((pa % 128) + n - 1) / 4 + 1 - (pa % 128) / 4)).map (· + (pa % 128) / 4)

/-- A word's version and the end of its latest lease. -/
def HomeLine.wtsOf (h : HomeLine) (w : Nat) : Nat := h.wts.getD w h.base
def HomeLine.rtsOf (h : HomeLine) (w : Nat) : Nat := h.rts.getD w h.base

/-- A write of a word at a time. -/
def HomeLine.wrote (h : HomeLine) (t w : Nat) : HomeLine := { h with wts := h.wts.insert w t, rts := h.rts.insert w t }

/-- A word has been read, or leased, up to a time. -/
def HomeLine.readTo (h : HomeLine) (t w : Nat) : HomeLine :=
  if h.rtsOf w < t then { h with rts := h.rts.insert w t } else h

/-- The time at which a line starts when it is filled: its slice's mts (R92); on a page pinned in a core's SRAM, which has no slice
(R86), a time past every line that a slice has evicted. -/
def State.fillTime (s : State) (line : Nat) : Nat :=
  match s.pinnedCore (128 * line) with
  | some _ => s.coh.mts.foldl (fun a x => Nat.max a x.2) 0
  | none => s.coh.mts.getD (s.ctl.homeSlice (128 * line)) 0

/-- The home state of a line; a line filled from memory starts at the slice's mts (R92). -/
def State.homeLine (s : State) (line : Nat) : HomeLine := (s.coh.home.find? line).getD { base := s.fillTime line }

/-- Sets the home state of a line. -/
def State.setHome (s : State) (line : Nat) (h : HomeLine) : State := { s with coh := { s.coh with home := s.coh.home.insert line h } }

/-- A core's L1 copy of a line. -/
def State.l1 (s : State) (core line : Nat) : Option L1Line := s.coh.l1.find? (l1Key core line)

/-- Sets or drops a core's L1 copy. -/
def State.setL1 (s : State) (core line : Nat) (l : L1Line) : State :=
  { s with coh := { s.coh with l1 := s.coh.l1.insert (l1Key core line) l } }
def State.dropL1 (s : State) (core line : Nat) : State := { s with coh := { s.coh with l1 := s.coh.l1.erase (l1Key core line) } }

/-- The bytes of a line at home. -/
def State.lineData (s : State) (line : Nat) : SMap Byte :=
  (List.range 128).filterMap fun i => let b := s.mem.read (128 * line + i); if b = 0 then none else some (i, b)

/-- Bytes of an L1 copy. -/
def L1Line.bytes (l : L1Line) (o n : Nat) : List Byte := (List.range n).map fun i => l.data.getD (o + i) 0

/-- The words of a copy that its owner has written. -/
def L1Line.written (l : L1Line) : List Nat := l.dirty.filter (· < 32)

/-- The bucket of a context at a slice (R100). -/
def bucketKey (slice ctx : Nat) : Nat := 16 * slice + ctx

/-- Spends a token of a context at a slice (R100). -/
def State.spendToken (s : State) (slice ctx : Nat) : State :=
  { s with coh := { s.coh with spent := s.coh.spent.put (bucketKey slice ctx) 0 (s.coh.spent.getD (bucketKey slice ctx) 0 + 1) } }

/-- A line moves through the port of its slice, if a slice of this module homes it, for a context (R86, R100). -/
def State.spendLine (s : State) (ctx line : Nat) : State :=
  if localSlice (s.ctl.homeSlice (128 * line)) && (s.pinnedCore (128 * line)).isNone then
    s.spendToken (s.ctl.homeSlice (128 * line)) ctx
  else s

/-- Writes the dirty words of an owned copy at home, with their write times and every word's last read time (R94). A transfer that no
strand waits for spends its token at once, and may leave the bucket short (DEDUCED, notes/assumptions/24.md). -/
def State.writeBack (s : State) (line : Nat) (l : L1Line) : State :=
  let h := s.homeLine line
  let h := l.written.foldl (fun h w => (h.wrote (l.wts.getD w l.base) w)) h
  let h := (List.range 32).foldl (fun h w => h.readTo (l.rts.getD w 0) w) h
  let s := if l.written = [] then s else s.spendLine l.ctx line
  { s.setHome line h with mem := l.written.foldl (fun m w => m.writeBytes (128 * line + 4 * w) (l.bytes (4 * w) 4)) s.mem }

/-- Recalls a line's owner, whose copy becomes invalid (R94). -/
def State.recall (s : State) (line : Nat) : State :=
  match (s.homeLine line).owner with
  | none => s
  | some c =>
    let s := match s.l1 c line with
      | some l => if l.st = LineState.own then (s.writeBack line l).dropL1 c line else s
      | none => s
    s.setHome line { s.homeLine line with owner := none }

/-- Invalidates a line's wi sharers (R96); the first result exceeds every acknowledgment. -/
def State.invalidate (s : State) (line : Nat) : Nat × State :=
  let h := s.homeLine line
  let ack := h.sharers.foldl (fun a c => Nat.max a (s.cts c + 1)) 0
  let s := h.sharers.foldl (fun s c => match s.l1 c line with
    | some l => if l.st = .shared then s.dropL1 c line else s
    | none => s) s
  (ack, if h.sharers = [] then s else s.setHome line { h with sharers := [] })

/-- Drops a core's copy: an owned line is written back first, a sharer or lease is forgotten (R94, R102, R113). -/
def State.dropCopy (s : State) (core line : Nat) : State :=
  match s.l1 core line with
  | none => s
  | some l =>
    match l.st with
    | .own => s.recall line
    | .shared =>
      -- later writes perform past what the copy has served, as past an acknowledgment (R96)
      let h := (List.range 32).foldl (fun h w => h.readTo (s.cts core) w) (s.homeLine line)
      (s.dropL1 core line).setHome line { h with sharers := h.sharers.filter (· != core) }
    | .lease => s.dropL1 core line

/-- A copy under another context's tag is not observed: the access goes through home (R102). -/
def State.dropForeign (s : State) (core ctx line : Nat) : State :=
  match s.l1 core line with
  | some l => if l.ctx = ctx then s else s.dropCopy core line
  | none => s

/-! ### Room in the caches (R1, R89, R92, R102, R103) -/

/-- A line of a page pinned in a core's SRAM or in a chip slice, which is not evicted (R88). -/
def State.stays (s : State) (line : Nat) : Bool :=
  s.coh.pins.any fun p => decide (p.base ≤ 128 * line) && decide (128 * line < p.base + p.size)

/-- A home slice evicts a line: its owner is recalled, its wi sharers are invalidated, and its times are folded into mts (R92). A line of
a page pinned in a core's SRAM has no slice (R86), and its times stay with it. -/
def State.evictHome (s : State) (line : Nat) : State :=
  let r := (s.recall line).invalidate line
  let s := r.2
  if (s.pinnedCore (128 * line)).isSome then s
  else
    let h := s.homeLine line
    let t := (List.range 32).foldl (fun a w => Nat.max a (Nat.max (h.wtsOf w) (h.rtsOf w))) r.1
    let k := s.ctl.homeSlice (128 * line)
    { s with coh := { s.coh with home := s.coh.home.erase line, mts := s.coh.mts.put k 0 (Nat.max (s.coh.mts.getD k 0) t) } }

/-- Lines beside one that a slice holds: those of a page pinned in a core's SRAM have no slice (R86). -/
def State.besides (s : State) (k line : Nat) : List Nat :=
  (s.coh.home.map (·.1)).filter fun l => l != line && s.ctl.homeSlice (128 * l) == k && (s.pinnedCore (128 * l)).isNone

/-- Evicts lines of a slice until one line has room there: `fuel` bounds the evictions, and lines of `keep` stay. Which line goes is free
(DESIGN CHOICE, notes/assumptions/84.md). -/
def State.trimHome (s : State) (k line : Nat) (keep : List Nat) : Nat → State
  | 0 => s
  | fuel + 1 =>
    let victims := (s.besides k line).filter fun l => !s.stays l && !keep.contains l
    if (s.besides k line).length < Config.sliceLines ∨ victims = [] then s
    else
      let r := s.freeValue 64
      (r.2.evictHome ((victims[r.1 % victims.length]?).getD 0)).trimHome k line keep fuel

/-- Makes room for a line at its home slice, which holds 2 MiB (R1); lines of `keep` stay. DESIGN CHOICE: notes/assumptions/84.md. -/
def State.fillHome (s : State) (line : Nat) (keep : List Nat := []) : State :=
  if s.coh.home.length < Config.sliceLines ∨ (s.pinnedCore (128 * line)).isSome then s
  else s.trimHome (s.ctl.homeSlice (128 * line)) line keep s.coh.home.length

/-- Lines that a core's L1 has for caching: half of it where a page is pinned in the core's SRAM (R89). -/
def State.l1Room (s : State) (core : Nat) : Nat :=
  if s.coh.pins.any fun p => p.home == 1 && p.core == core then Config.l1Lines / 2 else Config.l1Lines

/-- The order in which hints give lines up: stream first, keep last (R103). -/
def hintRank (hint : Nat) : Nat := if hint = 1 then 0 else if hint = 2 then 2 else 1

/-- Drops lines of a core's L1 until at most `room` are left: `fuel` bounds them. A line of whatever context goes, and an owned one is
written back (R102, R103). Which line of the first in order goes is free (DESIGN CHOICE, notes/assumptions/84.md). -/
def State.trimL1 (s : State) (core room : Nat) : Nat → State
  | 0 => s
  | fuel + 1 =>
    let mine := s.coh.l1.filter fun x => x.1 / 2 ^ 45 == core
    if mine.length ≤ room then s
    else
      let rank := mine.foldl (fun a x => Nat.min a (hintRank x.2.hint)) 2
      let victims := mine.filter fun x => hintRank x.2.hint == rank
      let r := s.freeValue 64
      (r.2.dropCopy core (((victims[r.1 % victims.length]?).map (·.1)).getD 0 % 2 ^ 45)).trimL1 core room fuel

/-- Makes room for a line in a core's L1. -/
def State.fillL1 (s : State) (core line : Nat) : State :=
  if s.coh.l1.length < s.l1Room core ∨ (s.l1 core line).isSome then s else s.trimL1 core (s.l1Room core - 1) s.coh.l1.length

/-- An access uses a translation: it is cached (R328), and a page is pinned (R89), which in a core's SRAM leaves that core half of its
L1. -/
def State.useLeaf (s : State) (ctx base size e : Nat) (pin : Option Pin) : State :=
  let t : Tlb := ⟨ctx, base, size, BitVec.ofNat 64 e⟩
  let tlb := if s.coh.tlb.contains t then s.coh.tlb else s.coh.tlb ++ [t]
  let s : State := { s with coh := { s.coh with tlb := tlb, pins := s.coh.pins ++ pin.toList } }
  match pin with
  | some p => if p.home = 1 then s.trimL1 p.core (s.l1Room p.core) s.coh.l1.length else s
  | none => s

/-- Room for a line that a core fills. -/
def State.room (s : State) (core line : Nat) : State := (s.fillL1 core line).fillHome line

/-- A line at home carries the tag of the context that filled it (R102). -/
def State.tagHome (s : State) (ctx line : Nat) : State :=
  match s.coh.home.find? line with
  | some h => if h.ctx.isSome then s else s.setHome line { h with ctx := some ctx }
  | none => s

/-- A copy that an access has filled keeps the access's hint. -/
def State.hinted (s : State) (core line cache : Nat) : State :=
  if cache = 0 then s
  else
    match s.l1 core line with
    | some l => s.setL1 core line { l with hint := cache }
    | none => s

/-- A monitor is armed on a line (R297). -/
def State.monitored (s : State) (line : Nat) : Bool := s.coh.monitors.any fun x => x.2.pa / 128 == line && x.2.woken.isNone

/-- Whether a write of `n` bytes at a time leaves an armed monitor's word satisfying its condition (R298). -/
def State.satisfies (s : State) (pa n t : Nat) (m : Monitor) : Bool :=
  m.woken.isNone && decide (m.time < t) && decide (pa < m.pa + 4) && decide (m.pa < pa + n) &&
    waitCond m.fn (BitVec.ofNat 32 (s.mem.readNat m.pa 4)) m.value

/-- A write at home wakes the monitors it leaves satisfied. -/
def State.notify (s : State) (pa n t : Nat) : State :=
  let ms := s.coh.monitors.map fun x => (x.1, if s.satisfies pa n t x.2 then { x.2 with woken := some true } else x.2)
  { s with coh := { s.coh with monitors := ms } }

/-! ### Accesses at home (R91) -/

/-- A read at home: its time, with a lease of `lease` ticks on the line's words, or, for 0, only on the words read. -/
def State.readHome (s : State) (floor pa n lease : Nat) : Nat × State :=
  let line := lineOf pa
  let s := (s.fillHome line).recall line
  let h := s.homeLine line
  let t := (wordsOf pa n).foldl (fun a w => Nat.max a (h.wtsOf w)) floor
  let ws := if lease = 0 then wordsOf pa n else List.range 32
  let h := ws.foldl (fun h w => h.readTo (t + lease) w) h
  (t, s.setHome line (if lease = 0 then h else { h with leased := true }))

/-- The time at which a write-through access of these words performs, at or after `floor`; the owner is recalled and wi
sharers are invalidated. -/
def State.writeTime (s : State) (floor pa n : Nat) : Nat × State :=
  let line := lineOf pa
  let r := ((s.fillHome line).recall line).invalidate line
  let h := r.2.homeLine line
  let t := (wordsOf pa n).foldl (fun a w => Nat.max a (Nat.max (h.wtsOf w) (h.rtsOf w) + 1)) (Nat.max floor r.1)
  (t, r.2.setHome line ((wordsOf pa n).foldl (fun h w => h.wrote t w) h))

/-- Writes bytes of one line at home as a write-through access. -/
def State.writeHome (s : State) (floor pa : Nat) (bs : List Byte) : Nat × State :=
  let r := s.writeTime floor pa bs.length
  (r.1, ({ r.2 with mem := r.2.mem.writeBytes pa bs }).notify pa bs.length r.1)

/-- Grants ownership of a line to a core, with its range start (R94). -/
def State.grantOwn (s : State) (core ctx line : Nat) : State :=
  let r := ((s.room core line).recall line).invalidate line
  let s := r.2
  let h := s.homeLine line
  let t0 := (List.range 32).foldl (fun a w => Nat.max a (Nat.max (h.wtsOf w) (h.rtsOf w) + 1)) r.1
  (s.setHome line { h with owner := some core, t0 := t0 }).setL1 core line
    { ctx := ctx, st := .own, data := s.lineData line, base := t0 }

/-- A load from an owned copy. -/
def State.loadOwn (s : State) (core pa n : Nat) (l : L1Line) : Nat × State :=
  let t := Nat.max (s.cts core) l.base
  let l' := { l with rts := (wordsOf pa n).foldl (fun m w => m.insert w (Nat.max (m.getD w 0) t)) l.rts }
  (leNat (l.bytes (pa % 128) n), (s.setL1 core (lineOf pa) l').raise core t)

/-- A load that fills under a lease, or renews one (R91, R95). -/
def State.loadLease (s : State) (core ctx pa n : Nat) : Nat × State :=
  let line := lineOf pa
  let s := (s.dropCopy core line).room core line
  let r := s.readHome (s.cts core) pa n (s.lease ctx)
  let h := r.2.homeLine line
  let l : L1Line :=
    { ctx := ctx, st := .lease, data := r.2.lineData line, base := h.base, wts := h.wts, rts := h.rts }
  (leNat (l.bytes (pa % 128) n), (r.2.setL1 core line l).raise core r.1)

/-- A load that fills as a tracked sharer (R99). -/
def State.loadShared (s : State) (core ctx pa n : Nat) : Nat × State :=
  let line := lineOf pa
  let s := (s.dropCopy core line).room core line
  let r := s.readHome (s.cts core) pa n 0
  let h := r.2.homeLine line
  let l : L1Line := { ctx := ctx, st := .shared, data := r.2.lineData line, base := h.base, wts := h.wts }
  (leNat (l.bytes (pa % 128) n),
    ((r.2.setHome line { h with sharers := h.sharers ++ [core] }).setL1 core line l).raise core r.1)

/-- A load that fills as owner. -/
def State.loadFillOwn (s : State) (core ctx pa n : Nat) : Nat × State :=
  let s := s.grantOwn core ctx (lineOf pa)
  match s.l1 core (lineOf pa) with
  | some l => s.loadOwn core pa n l
  | none => (0, s)

/-- A thread load of `n` bytes of one line, but for what the caches remember of it (R93, R99). `home` is the page's attribute; `cache` 3
performs at home under a lease that is not kept (R103). -/
def State.loadLine (s : State) (core ctx pa n pol home cache : Nat) : Nat × State :=
  if home = 1 ∨ home = 3 then
    let r := s.readHome (s.cts core) pa n 0
    (r.2.mem.readNat pa n, r.2.raise core r.1)
  else
    let line := lineOf pa
    let s := s.dropForeign core ctx line
    let pol := if pol = 0 ∧ s.monitored line then 1 else pol
    match s.l1 core line with
    | some l =>
      match l.st with
      | .own => s.loadOwn core pa n l
      | .shared =>
        if pol = 0 then s.loadFillOwn core ctx pa n
        else
          let t := (wordsOf pa n).foldl (fun a w => Nat.max a (l.wts.getD w l.base)) (s.cts core)
          (leNat (l.bytes (pa % 128) n), s.raise core t)
      | .lease =>
        if cache = 3 then
          let r := s.readHome (s.cts core) pa n (s.lease ctx)
          (r.2.mem.readNat pa n, r.2.raise core r.1)
        else if pol = 0 then s.loadFillOwn core ctx pa n
        else if pol = 3 then s.loadShared core ctx pa n
        else
          let t := (wordsOf pa n).foldl (fun a w => Nat.max a (l.wts.getD w l.base)) (s.cts core)
          if (wordsOf pa n).all fun w => decide (t ≤ l.rts.getD w l.base) then
            (leNat (l.bytes (pa % 128) n), s.raise core t)
          else s.loadLease core ctx pa n
    | none =>
      if cache = 3 then
        let r := s.readHome (s.cts core) pa n (s.lease ctx)
        (r.2.mem.readNat pa n, r.2.raise core r.1)
      else if pol = 0 then s.loadFillOwn core ctx pa n
      else if pol = 3 then s.loadShared core ctx pa n
      else s.loadLease core ctx pa n

/-- A thread load of `n` bytes of one line. -/
def State.loadAt (s : State) (core ctx pa n pol home cache : Nat) : Nat × State :=
  let held := (s.l1 core (lineOf pa)).isSome
  let r := s.loadLine core ctx pa n pol home cache
  (r.1, (if held then r.2 else r.2.hinted core (lineOf pa) cache).tagHome ctx (lineOf pa))

/-- A store into an owned copy. -/
def State.storeOwn (s : State) (core pa : Nat) (bs : List Byte) (l : L1Line) : State :=
  let t := Nat.max (s.cts core) l.base
  let ws := wordsOf pa bs.length
  let data := (bs.zip (List.range bs.length)).foldl (fun m x => m.put (pa % 128 + x.2) 0 x.1) l.data
  let l' := { l with data := data, wts := ws.foldl (fun m w => m.insert w t) l.wts,
                     dirty := l.dirty ++ ws.filter fun w => !l.dirty.contains w }
  (s.setL1 core (lineOf pa) l').raise core t

/-- A thread store of bytes of one line, but for what the caches remember of it (R93, R99). -/
def State.storeLine (s : State) (core ctx pa : Nat) (bs : List Byte) (pol home cache : Nat) : State :=
  let line := lineOf pa
  let through (s : State) : State := let r := s.writeHome (s.cts core) pa bs; r.2.raise core r.1
  if home = 1 ∨ home = 3 then through s
  else
    let s := s.dropForeign core ctx line
    let pol := if pol = 0 ∧ s.monitored line then 1 else pol
    match s.l1 core line with
    | some l =>
      if l.st = .own then s.storeOwn core pa bs l
      else if pol = 0 ∧ cache ≠ 3 then
        let s := s.grantOwn core ctx line
        s.storeOwn core pa bs ((s.l1 core line).getD l)
      else through s
    | none =>
      if pol = 0 ∧ cache ≠ 3 then
        let s := s.grantOwn core ctx line
        match s.l1 core line with
        | some l => s.storeOwn core pa bs l
        | none => s
      else through s

/-- A thread store of bytes of one line. -/
def State.storeAt (s : State) (core ctx pa : Nat) (bs : List Byte) (pol home cache : Nat) : State :=
  let held := (s.l1 core (lineOf pa)).isSome
  let t := s.storeLine core ctx pa bs pol home cache
  (if held then t else t.hinted core (lineOf pa) cache).tagHome ctx (lineOf pa)

/-- The lesser of two values of `n` bytes, as unsigned or signed numbers. -/
def minOf (n : Nat) (unsigned : Bool) (x y : Nat) : Nat :=
  if unsigned then Nat.min x y else if (BitVec.ofNat (8 * n) x).sle (BitVec.ofNat (8 * n) y) then x else y
/-- The greater. -/
def maxOf (n : Nat) (unsigned : Bool) (x y : Nat) : Nat :=
  if unsigned then Nat.max x y else if (BitVec.ofNat (8 * n) x).sle (BitVec.ofNat (8 * n) y) then y else x

/-- F32 addition at home. -/
def faddAt (old b : Nat) : Nat := (Num.addRne (BitVec.ofNat 32 old) (BitVec.ofNat 32 b)).toNat

/-- What an atomic makes of the old value (R107, R109). -/
def AtomOp.apply (op : AtomOp) (old : Nat) : Nat :=
  match op.fn with
  | .add => (old + op.x) % 2 ^ (8 * op.n)
  | .min => minOf op.n op.unsigned old op.x
  | .max => maxOf op.n op.unsigned old op.x
  | .and => Nat.land old op.x
  | .or => Nat.lor old op.x
  | .xor => Nat.xor old op.x
  | .xchg => op.x
  | .incw => if op.x ≤ old then 0 else old + 1
  | .cas => if old = op.x then op.new else old
  | .fadd => faddAt old op.x

/-- An atomic update at home, at or after `floor`: its time, the old value, and the state after the write of the new one (R99, R121). -/
def State.agentUpdate (s : State) (floor pa : Nat) (op : AtomOp) : Nat × Nat × State :=
  let r := s.writeTime floor pa op.n
  let old := r.2.mem.readNat pa op.n
  (r.1, old, ({ r.2 with mem := r.2.mem.writeNat pa op.n (op.apply old) }).notify pa op.n r.1)

/-- A strand's atomic update at home; a line that it fills there carries its context's tag (R102). -/
def State.updateAt (s : State) (core ctx pa : Nat) (op : AtomOp) : Nat × State :=
  let r := s.agentUpdate (s.cts core) pa op
  (r.2.1, (r.2.2.raise core r.1).tagHome ctx (lineOf pa))

/-! ### Engines, the host and the sweep agent -/

/-- Splits a range at line boundaries: `fuel` bounds the pieces. -/
def pieces : Nat → Nat → Nat → List (Nat × Nat)
  | 0, _, _ => []
  | fuel + 1, pa, n =>
    if n = 0 then []
    else
      let k := Nat.min n (128 - pa % 128)
      (pa, k) :: pieces fuel (pa + k) (n - k)

/-- Reads words at home, as an agent with no clock reads them; the first result is the latest time at which a piece performed. -/
def State.agentTouch (s : State) (floor pa n : Nat) : Nat × State :=
  (pieces (n + 1) pa n).foldl (fun r x => let y := r.2.readHome floor x.1 x.2 0; (Nat.max r.1 y.1, y.2)) (floor, s)

/-- Reads bytes at home, as an agent with no clock reads them. DEDUCED: notes/assumptions/30.md. -/
def State.agentRead (s : State) (floor pa n : Nat) : List Byte × State :=
  let s' := (s.agentTouch floor pa n).2
  (s'.mem.readBytes pa n, s')

/-- Writes bytes at home, as an agent writes them; the first result is the latest time at which a piece performed. -/
def State.agentWrite (s : State) (floor pa : Nat) (bs : List Byte) : Nat × State :=
  (pieces (bs.length + 1) pa bs.length).foldl (fun r x =>
    let y := r.2.writeHome floor x.1 ((bs.drop (x.1 - pa)).take x.2)
    (Nat.max r.1 y.1, y.2)) (floor, s)

/-- A time past every access to words of some ranges, at or after `floor`; owners are recalled and wi sharers are invalidated. -/
def State.passTime (s : State) (floor : Nat) (xs : List (Nat × Nat)) : Nat × State :=
  (xs.flatMap fun x => pieces (x.2 + 1) x.1 x.2).foldl (fun r x =>
    let line := lineOf x.1
    let y := (r.2.recall line).invalidate line
    let h := y.2.homeLine line
    ((wordsOf x.1 x.2).foldl (fun a w => Nat.max a (Nat.max (h.wtsOf w) (h.rtsOf w) + 1)) (Nat.max r.1 y.1), y.2)) (floor, s)

/-- Writes bytes of one line at home at a time that is past every access to them. -/
def State.writeAtTime (s : State) (t pa : Nat) (bs : List Byte) : State :=
  let line := lineOf pa
  let s := s.setHome line ((wordsOf pa bs.length).foldl (fun h w => h.wrote t w) (s.homeLine line))
  ({ s with mem := s.mem.writeBytes pa bs }).notify pa bs.length t

/-- Writes a number at home in `n` bytes. -/
def State.agentPut (s : State) (floor pa n x : Nat) : State := (s.agentWrite floor pa (leBytes n x)).2

/-! ### Poison of memory (R317) -/

/-- Whether a byte of a range lies in a poisoned granule. -/
def State.poisoned (s : State) (pa n : Nat) : Bool := s.poison.any fun g => decide (64 * g < pa + n) && decide (pa < 64 * g + 64)

/-- Bytes that an engine moves, and which of them are poisoned (none, where the second list is short). -/
abbrev Data := List Byte × List Bool

/-- A part of an engine's bytes. -/
def Data.part (d : Data) (o n : Nat) : Data := ((d.1.drop o).take n, (d.2.drop o).take n)

/-- Whether a poisoned byte lies in a part. -/
def Data.bad (d : Data) (o n : Nat) : Bool := ((d.2.drop o).take n).any id

/-- Which of `n` bytes of memory are poisoned. -/
def State.poisonMask (s : State) (pa n : Nat) : List Bool :=
  if s.poison = [] then [] else (List.range n).map fun i => s.poison.contains ((pa + i) / 64)

/-- The units of `u` bytes that a span touches, each with where the span lies in it: the offset in the span, and its bytes. -/
def unitsOf (u a n : Nat) : List (Nat × Nat × Nat) :=
  (List.range ((a + n + u - 1) / u - a / u)).map fun i =>
    let g := a / u + i
    let lo := Nat.max a (u * g)
    (g, lo - a, Nat.min (a + n) (u * g + u) - lo)

/-- What a list of poisoned units becomes when an engine writes a span: a unit written from poisoned bytes is poisoned, and one
written whole from others is cleared (R317). -/
def poisonAfter (u : Nat) (ps : List Nat) (a n : Nat) (d : Data) : List Nat :=
  (unitsOf u a n).foldl (fun ps x =>
    if d.bad x.2.1 x.2.2 then (if ps.contains x.1 then ps else ps ++ [x.1])
    else if x.2.2 = u then ps.filter (· != x.1) else ps) ps

/-- An engine has written bytes to memory. -/
def State.carryPoison (s : State) (pa : Nat) (d : Data) : State :=
  if s.poison = [] ∧ d.2 = [] then s else { s with poison := poisonAfter 64 s.poison pa d.1.length d }

/-! ### Port tokens (R100) -/

/-- Bucket depth and rate of a context. DESIGN CHOICE: notes/assumptions/6.md. -/
def State.depth (s : State) (ctx : Nat) : Nat := (s.ctx ctx).params / 2 ^ 16 % 2 ^ 12
def State.rate (s : State) (ctx : Nat) : Nat := (s.ctx ctx).params % 2 ^ 12

/-- A core's copy has fallen behind its line at home, once an owner has been recalled: what the owner has not written is unchanged
(R95). -/
def State.stale (s : State) (line : Nat) (l : L1Line) : Bool :=
  let h := (s.recall line).homeLine line
  (List.range 32).any fun w => h.wtsOf w != l.wts.getD w l.base

/-- Whether a load or store moves a line through a port of this module: a miss; a lease to renew, or to turn into ownership, whose line
has changed; a wi copy to turn into ownership (R95, R99). DEDUCED: notes/assumptions/24.md. -/
def State.needsLine (s : State) (core ctx pa n pol home cache : Nat) (store : Bool) : Bool :=
  if home = 1 ∨ home = 3 ∨ !localSlice (s.ctl.homeSlice pa) then false
  else
    match s.l1 core (lineOf pa) with
    | some l =>
      if l.ctx ≠ ctx then !store || pol == 0
      else
        match l.st with
        | .own => false
        | .shared => pol == 0
        | .lease =>
          if cache = 3 ∨ (store ∧ pol ≠ 0) then false
          else if pol = 3 then true
          else s.stale (lineOf pa) l && (pol == 0 || !(wordsOf pa n).all fun w => decide (s.cts core ≤ l.rts.getD w l.base))
    | none => if store then pol == 0 else cache != 3

/-- Whether `lease.renew` moves a line: the core has no copy of it, or its lease has fallen behind (R113). -/
def State.renewMoves (s : State) (core ctx pa : Nat) : Bool :=
  localSlice (s.ctl.homeSlice pa) &&
    (match s.l1 core (lineOf pa) with
     | some l => l.ctx != ctx || (l.st == .lease && s.stale (lineOf pa) l)
     | none => true)

/-- An engine moves bytes of memory: each line spends a token of its context. DEDUCED: notes/assumptions/24.md. -/
def State.charge (s : State) (ctx pa n : Nat) : State :=
  (pieces (n + 1) pa n).foldl (fun s x => s.spendLine ctx (lineOf x.1)) s

/-- Whether the bucket is empty. What it holds after the host has changed DEPTH the spec does not say: the model keeps the count spent,
and takes the tokens as the new depth less it (DESIGN CHOICE, notes/assumptions/98.md). -/
def State.noToken (s : State) (slice ctx : Nat) : Bool := decide (s.depth ctx ≤ s.coh.spent.getD (bucketKey slice ctx) 0)

end Sys2Proof.Machine
end

