-- ==== Sys2Proof/WellFormed.lean ====
section
/-!
DEFINITION. The checks on an instruction that need nothing but the instruction: what is a word at all, and the field
values that its entry reserves (R16 to R28).
-/

namespace Sys2Proof

/-- The three extension words (R19). -/
def Instr.isExt : Instr → Bool
  | .immext _ => true
  | .qual _ _ _ _ _ _ _ _ _ => true
  | .regext _ _ _ => true
  | _ => false

/-- Rows of the table that are device events and have no word. -/
def Instr.isEvent : Instr → Bool
  | .issueSlot _ _ _ => true
  | .gatherWindowExpiry _ _ => true
  | .shortLatencyResultReturn _ _ _ _ => true
  | .engineResultLand _ _ _ => true
  | .trapDelivery _ _ _ => true
  | .coreClockTick _ _ _ => true
  | .l2Eviction _ => true
  | .sharerFilterEviction _ _ => true
  | .tokenBucketRefill _ _ => true
  | .portIdleDetect _ _ => true
  | .portRequestServe _ => true
  | .waitMonitorWake _ => true
  | .clumpSwapOut _ => true
  | .waitBudgetExhausted _ => true
  | .sleepExpiry _ _ _ => true
  | .yieldExpiry _ _ _ => true
  | .clumpPlacement _ _ _ => true
  | .clumpEnd _ => true
  | .nodeCompletion _ _ => true
  | .bandRestart _ _ => true
  | .aggregationWindowClose _ _ => true
  | .spawnBinTimerExpiry _ _ => true
  | .sqtailDoorbell _ _ => true
  | .commandAccept _ => true
  | .cmdNop _ => true
  | .cmdGraph _ => true
  | .cmdSignal _ => true
  | .cmdModeSwitch _ => true
  | .cmdWaitValue _ => true
  | .waitValueSatisfied _ => true
  | .commandCompletion _ => true
  | .chcmdApply _ => true
  | .channelChangeProceed => true
  | .channelZeroingComplete => true
  | .hstatClear _ => true
  | .sqrefClear _ _ => true
  | .resolveRetry _ _ _ => true
  | .resolveAbort _ _ _ => true
  | .invalRequest _ _ _ => true
  | .invalidationComplete _ => true
  | .cctlPreempt _ => true
  | .cctlResume _ => true
  | .cctlDiscard _ => true
  | .cctlDebugEnable _ => true
  | .cctlDebugDisable _ => true
  | .windowEnable _ _ => true
  | .windowDisable _ _ => true
  | .controlSpaceWrite _ _ _ => true
  | .preemption _ => true
  | .drainFallbackTimeout _ => true
  | .faultQueuePost _ => true
  | .migrationRequest _ _ _ => true
  | .chunkPullLand _ _ _ => true
  | .rowRefresh _ _ => true
  | .thermalBandSample _ _ => true
  | .bankCommandAccept _ => true
  | .bankCommandExecute _ _ => true
  | .bankRedTree _ _ => true
  | .copyCompletion _ => true
  | .spadParkedLoadComplete _ _ _ => true
  | .engineIssueAfterLock _ _ => true
  | .regionTableFill _ _ _ => true
  | .tileLoadComplete _ => true
  | .slotLoadComplete _ => true
  | .matrixStepRetire _ => true
  | .drainComplete _ => true
  | .mgemmSequenceStep _ => true
  | .gsetDescriptorRead _ => true
  | .tapeChunkReadback _ _ => true
  | .tapeSpillLand _ _ => true
  | .fenceComplete _ _ _ => true
  | .windowContribution _ _ _ => true
  | .windowGenerationEnd _ => true
  | .mortasPortFailure _ => true
  | .moduleFailure _ => true
  | .partitionBuild _ _ _ => true
  | .hostCxlMemAccess _ _ _ => true
  | .hostSnoop _ _ => true
  | .softError _ _ _ => true
  | .moduleReset _ => true
  | .firmwareUpdate _ => true
  | .spdmRequest => true
  | .keySlotLoad _ _ => true
  | .clockThrottle _ => true
  | .thermalShutdown => true
  | .windowRegistrationComplete _ => true
  | .atomicopRoutingEnable _ => true
  | .pldmPlatformMonitoring => true
  | .recoveryImageDelivery _ => true
  | _ => false

/-- An instruction or extension word. -/
def Instr.isWord (i : Instr) : Bool := !i.isEvent

/-- No field holds a value that its entry reserves outright, whatever the extension words and the band are:
a branch slot of 3 (R16), a reserved CVT destination (R28), a live-in count or an `exit.next` count above 16
(R160, R277), a reserved `result` operation (R278), `trapinfo` and `tstat` selectors (R336, R258), QUAL scope 7
and rounding modes 6 and 7 (R21). -/
def Instr.wf : Instr → Bool
  | .br _ _ _ slot => slot != 3
  | .call _ _ _ slot => slot != 3
  | .cvt _ _ dst _ _ => dst.toNat < 14
  | .region d _ _ => d.toNat ≤ 16
  | .exitNext d _ => d.toNat ≤ 16
  | .result d _ => d.toNat ≤ 4
  | .trapinfo _ b => b.toNat ≤ 2
  | .tstat _ x => x.toNat ≤ 4
  | .qual _ _ _ scope _ _ _ _ rm => scope != 7 && rm.toNat < 6
  | i => i.isWord

end Sys2Proof
end

