-- ==== Sys2Proof/Decode.lean ====
section
/-!
DEFINITION. Words and their fields (R9, R16), the decoder and the encoder (R26 to R28, and each entry's encoding table).

`decode` is total: a word with no meaning is rejected by name (R25, R26). The operand rules of R17 to R22 that depend
on an extension word or on the band's allocation are in Machine/Operands.lean.

The definitions that build a word's instruction are marked noncomputable for one reason: Lean's run-time representation
of an inductive type has no room for more than 245 constructors with arguments, and the opcode table has more rows than
that. They are plain definitions, and the kernel evaluates them.
-/

namespace Sys2Proof

/-- A decoded word: its chain bit, its switch marker and its instruction (R9). -/
structure DWord where
  ch : Bool
  sw : Bool
  instr : Instr
  deriving DecidableEq, Repr

/-- Why a word has no meaning; every case is the illegal-instruction trap (R25, R26). -/
inductive DecodeError where
  /-- A reserved major opcode, 0x33 to 0x3E (R26). -/
  | reservedOpcode (op : Nat)
  /-- A function marked reserved in the opcode map (R26). -/
  | reservedFunction (op fn : Nat)
  /-- A field that the entry marks 0, or bits that the entry keeps zero, is not zero (R17). -/
  | nonzeroField (op : Nat)
  /-- An extension word of kind 11, with CH = 0 or SW = 1, or with a reserved QUAL bit set (R14, R19, R21). -/
  | badExtension
  deriving DecidableEq, Repr

/-! ### Fields -/

/-- CH, bit 31. -/
def fCh (w : BitVec 32) : Bool := w.getLsbD 31
/-- SW, bit 30. -/
def fSw (w : BitVec 32) : Bool := w.getLsbD 30
/-- OP, bits 29:24. -/
def fOp (w : BitVec 32) : BitVec 6 := w.extractLsb' 24 6
/-- D (or T), bits 23:17. -/
def fD (w : BitVec 32) : BitVec 7 := w.extractLsb' 17 7
/-- A (or BASE), bits 16:10. -/
def fA (w : BitVec 32) : BitVec 7 := w.extractLsb' 10 7
/-- B, bits 9:3. -/
def fB (w : BitVec 32) : BitVec 7 := w.extractLsb' 3 7
/-- FN of formats A and E, bits 2:0. -/
def fFn (w : BitVec 32) : BitVec 3 := w.extractLsb' 0 3
/-- FN of format I, bits 9:7. -/
def fFnI (w : BitVec 32) : BitVec 3 := w.extractLsb' 7 3
/-- IMM7, bits 6:0. -/
def fImm7 (w : BitVec 32) : BitVec 7 := w.extractLsb' 0 7
/-- IMM17, bits 16:0. -/
def fImm17 (w : BitVec 32) : BitVec 17 := w.extractLsb' 0 17
/-- OFF6, bits 9:4. -/
def fOff (w : BitVec 32) : BitVec 6 := w.extractLsb' 4 6
/-- POL, bits 3:2. -/
def fPol (w : BitVec 32) : BitVec 2 := w.extractLsb' 2 2
/-- SZ (or SLOT), bits 1:0. -/
def fSz (w : BitVec 32) : BitVec 2 := w.extractLsb' 0 2
/-- NEG of format B, bit 23. -/
def fNeg (w : BitVec 32) : BitVec 1 := w.extractLsb' 23 1
/-- P of format B, bits 22:20. -/
def fBP (w : BitVec 32) : BitVec 3 := w.extractLsb' 20 3
/-- DISP18, bits 19:2. -/
def fDisp (w : BitVec 32) : BitVec 18 := w.extractLsb' 2 18
/-- KIND of format X, bits 23:22. -/
def fKind (w : BitVec 32) : BitVec 2 := w.extractLsb' 22 2
/-- Payload of format X, bits 21:0. -/
def fPayload (w : BitVec 32) : BitVec 22 := w.extractLsb' 0 22

/-! ### The decoder -/

/-- An instruction whose fields marked zero must be zero. -/
def zeroed (w : BitVec 32) (c : Bool) (i : Instr) : Except DecodeError Instr :=
  if c then .ok i else .error (.nonzeroField (fOp w).toNat)

/-- Major opcode 0x00 (R26). -/
def decOp00 (w : BitVec 32) : Except DecodeError Instr :=
  match (fFn w).toNat with
  | 0 => zeroed w (fD w == 0 && fA w == 0 && fB w == 0) (.nop)
  | 1 => zeroed w (fB w == 0) (.mov (fD w) (fA w))
  | 2 => zeroed w (fB w == 0) (.movc (fD w) (fA w))
  | 3 => zeroed w (fB w == 0) (.wrc (fD w) (fA w))
  | 4 => zeroed w ((fD w).toNat < 8 && fA w == 0 && fB w == 0) (.elect ((fD w).setWidth 3))
  | 5 => zeroed w (fA w == 0 && fB w == 0) (.amask (fD w))
  | n => .error (.reservedFunction 0x00 n)

/-- Major opcode 0x01 (R26). -/
def decOp01 (w : BitVec 32) : Except DecodeError Instr :=
  match (fFn w).toNat with
  | 0 => .ok (.add (fD w) (fA w) (fB w))
  | 1 => .ok (.sub (fD w) (fA w) (fB w))
  | 2 => .ok (.addc (fD w) (fA w) (fB w))
  | 3 => .ok (.subb (fD w) (fA w) (fB w))
  | 4 => .ok (.min (fD w) (fA w) (fB w))
  | 5 => .ok (.max (fD w) (fA w) (fB w))
  | 6 => .ok (.minn (fD w) (fA w) (fB w))
  | 7 => .ok (.maxn (fD w) (fA w) (fB w))
  | n => .error (.reservedFunction 0x01 n)

/-- Major opcode 0x02 (R26). -/
def decOp02 (w : BitVec 32) : Except DecodeError Instr :=
  match (fFnI w).toNat with
  | 0 => .ok (.addi (fD w) (fA w) (fImm7 w))
  | 1 => .ok (.rsubi (fD w) (fA w) (fImm7 w))
  | 2 => .ok (.mini (fD w) (fA w) (fImm7 w))
  | 3 => .ok (.maxi (fD w) (fA w) (fImm7 w))
  | 4 => .ok (.minni (fD w) (fA w) (fImm7 w))
  | 5 => .ok (.maxni (fD w) (fA w) (fImm7 w))
  | 6 => .ok (.andi (fD w) (fA w) (fImm7 w))
  | 7 => .ok (.ori (fD w) (fA w) (fImm7 w))
  | n => .error (.reservedFunction 0x02 n)

/-- Major opcode 0x03 (R26). -/
def decOp03 (w : BitVec 32) : Except DecodeError Instr :=
  match (fFn w).toNat with
  | 0 => .ok (.mulLo (fD w) (fA w) (fB w))
  | 1 => .ok (.mulHi (fD w) (fA w) (fB w))
  | 2 => .ok (.mulHin (fD w) (fA w) (fB w))
  | 3 => .ok (.madLo (fD w) (fA w) (fB w))
  | 4 => .ok (.madHi (fD w) (fA w) (fB w))
  | 5 => .ok (.div (fD w) (fA w) (fB w))
  | 6 => .ok (.divn (fD w) (fA w) (fB w))
  | 7 => .ok (.rem (fD w) (fA w) (fB w))
  | n => .error (.reservedFunction 0x03 n)

/-- Major opcode 0x04 (R26). -/
def decOp04 (w : BitVec 32) : Except DecodeError Instr :=
  match (fFn w).toNat with
  | 0 => .ok (.and (fD w) (fA w) (fB w))
  | 1 => .ok (.or (fD w) (fA w) (fB w))
  | 2 => .ok (.xor (fD w) (fA w) (fB w))
  | 3 => .ok (.andn (fD w) (fA w) (fB w))
  | 4 => .ok (.orn (fD w) (fA w) (fB w))
  | 5 => .ok (.xnor (fD w) (fA w) (fB w))
  | 6 => zeroed w (fB w == 0) (.not (fD w) (fA w))
  | n => .error (.reservedFunction 0x04 n)

/-- Major opcode 0x05 (R26). -/
def decOp05 (w : BitVec 32) : Except DecodeError Instr :=
  match (fFn w).toNat with
  | 0 => .ok (.shl (fD w) (fA w) (fB w))
  | 1 => .ok (.shr (fD w) (fA w) (fB w))
  | 2 => .ok (.sra (fD w) (fA w) (fB w))
  | 3 => .ok (.rotl (fD w) (fA w) (fB w))
  | 4 => .ok (.rotr (fD w) (fA w) (fB w))
  | 5 => .ok (.shlD (fD w) (fA w) (fB w))
  | 6 => .ok (.shrD (fD w) (fA w) (fB w))
  | 7 => .ok (.sraD (fD w) (fA w) (fB w))
  | n => .error (.reservedFunction 0x05 n)

/-- Major opcode 0x06 (R26). -/
def decOp06 (w : BitVec 32) : Except DecodeError Instr :=
  match (fFnI w).toNat with
  | 0 => .ok (.shlImm (fD w) (fA w) (fImm7 w))
  | 1 => .ok (.shrImm (fD w) (fA w) (fImm7 w))
  | 2 => .ok (.sraImm (fD w) (fA w) (fImm7 w))
  | 3 => .ok (.rotlImm (fD w) (fA w) (fImm7 w))
  | 4 => .ok (.rotrImm (fD w) (fA w) (fImm7 w))
  | 5 => .ok (.shlDImm (fD w) (fA w) (fImm7 w))
  | 6 => .ok (.shrDImm (fD w) (fA w) (fImm7 w))
  | 7 => .ok (.sraDImm (fD w) (fA w) (fImm7 w))
  | n => .error (.reservedFunction 0x06 n)

/-- Major opcode 0x07 (R26). -/
def decOp07 (w : BitVec 32) : Except DecodeError Instr :=
  match (fFn w).toNat with
  | 0 => zeroed w (fB w == 0) (.clz (fD w) (fA w))
  | 1 => zeroed w (fB w == 0) (.ctz (fD w) (fA w))
  | 2 => zeroed w (fB w == 0) (.popc (fD w) (fA w))
  | 3 => zeroed w (fB w == 0) (.brev (fD w) (fA w))
  | 4 => .ok (.bfe (fD w) (fA w) (fB w))
  | 5 => .ok (.bfen (fD w) (fA w) (fB w))
  | 6 => .ok (.bfi (fD w) (fA w) (fB w))
  | 7 => .ok (.sext (fD w) (fA w) (fB w))
  | n => .error (.reservedFunction 0x07 n)

/-- Major opcode 0x08 (R26). -/
def decOp08 (w : BitVec 32) : Except DecodeError Instr :=
  match (fFn w).toNat with
  | 0 => zeroed w ((fD w).toNat < 8) (.cmpEq ((fD w).setWidth 3) (fA w) (fB w))
  | 1 => zeroed w ((fD w).toNat < 8) (.cmpNe ((fD w).setWidth 3) (fA w) (fB w))
  | 2 => zeroed w ((fD w).toNat < 8) (.cmpLt ((fD w).setWidth 3) (fA w) (fB w))
  | 3 => zeroed w ((fD w).toNat < 8) (.cmpLe ((fD w).setWidth 3) (fA w) (fB w))
  | 4 => zeroed w ((fD w).toNat < 8) (.cmpLtn ((fD w).setWidth 3) (fA w) (fB w))
  | 5 => zeroed w ((fD w).toNat < 8) (.cmpLen ((fD w).setWidth 3) (fA w) (fB w))
  | 6 => zeroed w ((fD w).toNat < 8) (.test ((fD w).setWidth 3) (fA w) (fB w))
  | n => .error (.reservedFunction 0x08 n)

/-- Major opcode 0x09 (R26). -/
def decOp09 (w : BitVec 32) : Except DecodeError Instr :=
  match (fFnI w).toNat with
  | 0 => zeroed w ((fD w).toNat < 8) (.cmpEqImm ((fD w).setWidth 3) (fA w) (fImm7 w))
  | 1 => zeroed w ((fD w).toNat < 8) (.cmpNeImm ((fD w).setWidth 3) (fA w) (fImm7 w))
  | 2 => zeroed w ((fD w).toNat < 8) (.cmpLtImm ((fD w).setWidth 3) (fA w) (fImm7 w))
  | 3 => zeroed w ((fD w).toNat < 8) (.cmpLeImm ((fD w).setWidth 3) (fA w) (fImm7 w))
  | 4 => zeroed w ((fD w).toNat < 8) (.cmpLtnImm ((fD w).setWidth 3) (fA w) (fImm7 w))
  | 5 => zeroed w ((fD w).toNat < 8) (.cmpLenImm ((fD w).setWidth 3) (fA w) (fImm7 w))
  | 6 => zeroed w ((fD w).toNat < 8) (.testImm ((fD w).setWidth 3) (fA w) (fImm7 w))
  | n => .error (.reservedFunction 0x09 n)

/-- Major opcode 0x0A (R26). -/
def decOp0A (w : BitVec 32) : Except DecodeError Instr :=
  match (fFn w).toNat with
  | 0 => zeroed w ((fD w).toNat < 8 && (fA w).toNat < 8 && (fB w).toNat < 8) (.pand ((fD w).setWidth 3) ((fA w).setWidth 3) ((fB w).setWidth 3))
  | 1 => zeroed w ((fD w).toNat < 8 && (fA w).toNat < 8 && (fB w).toNat < 8) (.por ((fD w).setWidth 3) ((fA w).setWidth 3) ((fB w).setWidth 3))
  | 2 => zeroed w ((fD w).toNat < 8 && (fA w).toNat < 8 && (fB w).toNat < 8) (.pxor ((fD w).setWidth 3) ((fA w).setWidth 3) ((fB w).setWidth 3))
  | 3 => zeroed w ((fD w).toNat < 8 && (fA w).toNat < 8 && fB w == 0) (.pnot ((fD w).setWidth 3) ((fA w).setWidth 3))
  | 4 => zeroed w ((fD w).toNat < 8 && (fA w).toNat < 8 && fB w == 0) (.pmov ((fD w).setWidth 3) ((fA w).setWidth 3))
  | 5 => zeroed w ((fA w).toNat < 8 && fB w == 0) (.vset (fD w) ((fA w).setWidth 3))
  | 6 => zeroed w ((fD w).toNat < 8 && (fA w).toNat < 8 && fB w == 0) (.voteAny ((fD w).setWidth 3) ((fA w).setWidth 3))
  | 7 => zeroed w ((fD w).toNat < 8 && (fA w).toNat < 8 && fB w == 0) (.voteAll ((fD w).setWidth 3) ((fA w).setWidth 3))
  | n => .error (.reservedFunction 0x0A n)

/-- Major opcode 0x0B (R26). -/
def decOp0B (w : BitVec 32) : Except DecodeError Instr :=
  .ok (.sel (fD w) (fA w) (fB w) (fFn w))

/-- Major opcode 0x0C (R26). -/
def decOp0C (w : BitVec 32) : Except DecodeError Instr :=
  match (fFn w).toNat with
  | 0 => .ok (.addD (fD w) (fA w) (fB w))
  | 1 => .ok (.subD (fD w) (fA w) (fB w))
  | 2 => .ok (.lea1 (fD w) (fA w) (fB w))
  | 3 => .ok (.lea2 (fD w) (fA w) (fB w))
  | 4 => .ok (.lea4 (fD w) (fA w) (fB w))
  | 5 => .ok (.lea8 (fD w) (fA w) (fB w))
  | 6 => .ok (.lea16 (fD w) (fA w) (fB w))
  | 7 => .ok (.mulWide (fD w) (fA w) (fB w))
  | n => .error (.reservedFunction 0x0C n)

/-- Major opcode 0x0D (R26). -/
def decOp0D (w : BitVec 32) : Except DecodeError Instr :=
  .ok (.movi (fD w) (fImm17 w))

/-- Major opcode 0x0E (R26). -/
def decOp0E (w : BitVec 32) : Except DecodeError Instr :=
  match (fFn w).toNat with
  | 0 => .ok (.fadd (fD w) (fA w) (fB w))
  | 1 => .ok (.fsub (fD w) (fA w) (fB w))
  | 2 => .ok (.fmul (fD w) (fA w) (fB w))
  | 3 => .ok (.fmin (fD w) (fA w) (fB w))
  | 4 => .ok (.fmax (fD w) (fA w) (fB w))
  | 5 => .ok (.fdiff (fD w) (fA w) (fB w))
  | 6 => .ok (.fcopysign (fD w) (fA w) (fB w))
  | 7 => zeroed w (fB w == 0) (.frnd (fD w) (fA w))
  | n => .error (.reservedFunction 0x0E n)

/-- Major opcode 0x0F (R26). -/
def decOp0F (w : BitVec 32) : Except DecodeError Instr :=
  match (fFn w).toNat with
  | 0 => .ok (.fma (fD w) (fA w) (fB w))
  | 1 => .ok (.fms (fD w) (fA w) (fB w))
  | 2 => .ok (.fnma (fD w) (fA w) (fB w))
  | 3 => .ok (.fnms (fD w) (fA w) (fB w))
  | n => .error (.reservedFunction 0x0F n)

/-- Major opcode 0x10 (R26). -/
def decOp10 (w : BitVec 32) : Except DecodeError Instr :=
  match (fFn w).toNat with
  | 0 => .ok (.faddH2 (fD w) (fA w) (fB w))
  | 1 => .ok (.fmulH2 (fD w) (fA w) (fB w))
  | 2 => .ok (.fmaH2 (fD w) (fA w) (fB w))
  | 3 => .ok (.faddB2 (fD w) (fA w) (fB w))
  | 4 => .ok (.fmulB2 (fD w) (fA w) (fB w))
  | 5 => .ok (.fmaB2 (fD w) (fA w) (fB w))
  | 6 => .ok (.fminH2 (fD w) (fA w) (fB w))
  | 7 => .ok (.fmaxH2 (fD w) (fA w) (fB w))
  | n => .error (.reservedFunction 0x10 n)

/-- Major opcode 0x11 (R26). -/
def decOp11 (w : BitVec 32) : Except DecodeError Instr :=
  match (fFn w).toNat with
  | 0 => zeroed w ((fD w).toNat < 8) (.fcmpEq ((fD w).setWidth 3) (fA w) (fB w))
  | 1 => zeroed w ((fD w).toNat < 8) (.fcmpNe ((fD w).setWidth 3) (fA w) (fB w))
  | 2 => zeroed w ((fD w).toNat < 8) (.fcmpLt ((fD w).setWidth 3) (fA w) (fB w))
  | 3 => zeroed w ((fD w).toNat < 8) (.fcmpLe ((fD w).setWidth 3) (fA w) (fB w))
  | 4 => zeroed w ((fD w).toNat < 8) (.fcmpUn ((fD w).setWidth 3) (fA w) (fB w))
  | 5 => zeroed w ((fD w).toNat < 8) (.fclass ((fD w).setWidth 3) (fA w) (fB w))
  | n => .error (.reservedFunction 0x11 n)

/-- Major opcode 0x12 (R26). -/
def decOp12 (w : BitVec 32) : Except DecodeError Instr :=
  match (fFn w).toNat with
  | 0 => zeroed w (fB w == 0) (.rcp (fD w) (fA w))
  | 1 => zeroed w (fB w == 0) (.rsqrt (fD w) (fA w))
  | 2 => zeroed w (fB w == 0) (.sqrt (fD w) (fA w))
  | 3 => zeroed w (fB w == 0) (.exp2 (fD w) (fA w))
  | 4 => zeroed w (fB w == 0) (.log2 (fD w) (fA w))
  | 5 => zeroed w (fB w == 0) (.sinpi (fD w) (fA w))
  | 6 => zeroed w (fB w == 0) (.cospi (fD w) (fA w))
  | 7 => zeroed w (fB w == 0) (.tanh (fD w) (fA w))
  | n => .error (.reservedFunction 0x12 n)

/-- Major opcode 0x13 (R26). -/
def decOp13 (w : BitVec 32) : Except DecodeError Instr :=
  .ok (.cvt (fD w) (fA w) ((fB w).extractLsb' 3 4) ((fB w).extractLsb' 0 3) (fFn w))

/-- Major opcode 0x14 (R26). -/
def decOp14 (w : BitVec 32) : Except DecodeError Instr :=
  match (fFn w).toNat with
  | 0 => .ok (.pkF8 (fD w) (fA w) (fB w))
  | 1 => .ok (.pkF4 (fD w) (fA w) (fB w))
  | 2 => .ok (.pkI8 (fD w) (fA w) (fB w))
  | 3 => .ok (.pkI4 (fD w) (fA w) (fB w))
  | 4 => .ok (.unpkF8 (fD w) (fA w) (fB w))
  | 5 => .ok (.unpkF4 (fD w) (fA w) (fB w))
  | 6 => .ok (.unpkI8 (fD w) (fA w) (fB w))
  | 7 => .ok (.unpkI4 (fD w) (fA w) (fB w))
  | n => .error (.reservedFunction 0x14 n)

/-- Major opcode 0x15 (R26). -/
def decOp15 (w : BitVec 32) : Except DecodeError Instr :=
  match (fFn w).toNat with
  | 0 => .ok (.dot8I4 (fD w) (fA w) (fB w))
  | 1 => .ok (.dot8N4 (fD w) (fA w) (fB w))
  | 2 => .ok (.dot8I4n4 (fD w) (fA w) (fB w))
  | 3 => .ok (.dot4I8 (fD w) (fA w) (fB w))
  | 4 => .ok (.dot4N8 (fD w) (fA w) (fB w))
  | 5 => .ok (.dot4F8a (fD w) (fA w) (fB w))
  | 6 => .ok (.dot4F8b (fD w) (fA w) (fB w))
  | 7 => .ok (.dot2B16 (fD w) (fA w) (fB w))
  | n => .error (.reservedFunction 0x15 n)

/-- Major opcode 0x16 (R26). -/
def decOp16 (w : BitVec 32) : Except DecodeError Instr :=
  match (fFn w).toNat with
  | 0 => .ok (.shfl (fD w) (fA w) (fB w))
  | 1 => .ok (.shflUp (fD w) (fA w) (fB w))
  | 2 => .ok (.shflDn (fD w) (fA w) (fB w))
  | 3 => .ok (.shflX (fD w) (fA w) (fB w))
  | 4 => zeroed w ((fB w).toNat < 32) (.rdlane (fD w) (fA w) ((fB w).setWidth 5))
  | 5 => zeroed w ((fA w).toNat < 8 && fB w == 0) (.ballot (fD w) ((fA w).setWidth 3))
  | 6 => zeroed w ((fB w).toNat < 8) (.perm (fD w) (fA w) ((fB w).setWidth 3))
  | 7 => zeroed w ((fD w).toNat < 8 && fB w == 0) (.ptab ((fD w).setWidth 3) (fA w))
  | n => .error (.reservedFunction 0x16 n)

/-- Major opcode 0x17 (R26). -/
noncomputable def decOp17 (w : BitVec 32) : Except DecodeError Instr :=
  match (fFn w).toNat with
  | 0 => zeroed w (fB w == 0) (.bredAdd (fD w) (fA w))
  | 1 => zeroed w (fB w == 0) (.bredMin (fD w) (fA w))
  | 2 => zeroed w (fB w == 0) (.bredMax (fD w) (fA w))
  | 3 => zeroed w (fB w == 0) (.bredFadd (fD w) (fA w))
  | 4 => zeroed w (fB w == 0) (.bredFmin (fD w) (fA w))
  | 5 => zeroed w (fB w == 0) (.bredFmax (fD w) (fA w))
  | 6 => zeroed w (fB w == 0) (.scanAdd (fD w) (fA w))
  | 7 => zeroed w (fB w == 0) (.scanFadd (fD w) (fA w))
  | n => .error (.reservedFunction 0x17 n)

/-- Major opcode 0x18 (R26). -/
noncomputable def decOp18 (w : BitVec 32) : Except DecodeError Instr :=
  match (fFn w).toNat with
  | 0 => .ok (.kadd (fD w) (fA w) (fB w))
  | 1 => .ok (.ksub (fD w) (fA w) (fB w))
  | 2 => .ok (.kmul (fD w) (fA w) (fB w))
  | 3 => .ok (.kand (fD w) (fA w) (fB w))
  | 4 => .ok (.kor (fD w) (fA w) (fB w))
  | 5 => .ok (.kxor (fD w) (fA w) (fB w))
  | 6 => .ok (.kshl (fD w) (fA w) (fB w))
  | 7 => .ok (.kshr (fD w) (fA w) (fB w))
  | n => .error (.reservedFunction 0x18 n)

/-- Major opcode 0x19 (R26). -/
noncomputable def decOp19 (w : BitVec 32) : Except DecodeError Instr :=
  match (fFnI w).toNat with
  | 0 => .ok (.kaddi (fD w) (fA w) (fImm7 w))
  | 1 => .ok (.kandi (fD w) (fA w) (fImm7 w))
  | 2 => .ok (.kori (fD w) (fA w) (fImm7 w))
  | 3 => .ok (.kshli (fD w) (fA w) (fImm7 w))
  | 4 => .ok (.kshri (fD w) (fA w) (fImm7 w))
  | 5 => zeroed w (fA w == 0) (.kmovi (fD w) (fImm7 w))
  | 6 => .ok (.kcmpi (fD w) (fA w) (fImm7 w))
  | n => .error (.reservedFunction 0x19 n)

/-- Major opcode 0x1A (R26). -/
noncomputable def decOp1A (w : BitVec 32) : Except DecodeError Instr :=
  match (fSz w).toNat with
  | 0 => .ok (.ldB (fD w) (fA w) (fOff w) (fPol w))
  | 1 => .ok (.ldH (fD w) (fA w) (fOff w) (fPol w))
  | 2 => .ok (.ldW (fD w) (fA w) (fOff w) (fPol w))
  | 3 => .ok (.ldD (fD w) (fA w) (fOff w) (fPol w))
  | n => .error (.reservedFunction 0x1A n)

/-- Major opcode 0x1B (R26). -/
noncomputable def decOp1B (w : BitVec 32) : Except DecodeError Instr :=
  match (fSz w).toNat with
  | 0 => .ok (.ldsB (fD w) (fA w) (fOff w) (fPol w))
  | 1 => .ok (.ldsH (fD w) (fA w) (fOff w) (fPol w))
  | n => .error (.reservedFunction 0x1B n)

/-- Major opcode 0x1C (R26). -/
noncomputable def decOp1C (w : BitVec 32) : Except DecodeError Instr :=
  match (fSz w).toNat with
  | 0 => .ok (.stB (fD w) (fA w) (fOff w) (fPol w))
  | 1 => .ok (.stH (fD w) (fA w) (fOff w) (fPol w))
  | 2 => .ok (.stW (fD w) (fA w) (fOff w) (fPol w))
  | 3 => .ok (.stD (fD w) (fA w) (fOff w) (fPol w))
  | n => .error (.reservedFunction 0x1C n)

/-- Major opcode 0x1D (R26). -/
noncomputable def decOp1D (w : BitVec 32) : Except DecodeError Instr :=
  match (fSz w).toNat with
  | 0 => .ok (.ldQ (fD w) (fA w) (fOff w) (fPol w))
  | 1 => .ok (.stQ (fD w) (fA w) (fOff w) (fPol w))
  | 2 => zeroed w (fPol w == 0) (.ldSvW (fD w) (fA w) (fOff w))
  | 3 => zeroed w (fPol w == 0) (.ldSvQ (fD w) (fA w) (fOff w))
  | n => .error (.reservedFunction 0x1D n)

/-- Major opcode 0x1E (R26). -/
noncomputable def decOp1E (w : BitVec 32) : Except DecodeError Instr :=
  match (fFn w).toNat with
  | 0 => .ok (.atomAdd (fD w) (fA w) (fB w))
  | 1 => .ok (.atomMin (fD w) (fA w) (fB w))
  | 2 => .ok (.atomMax (fD w) (fA w) (fB w))
  | 3 => .ok (.atomAnd (fD w) (fA w) (fB w))
  | 4 => .ok (.atomOr (fD w) (fA w) (fB w))
  | 5 => .ok (.atomXor (fD w) (fA w) (fB w))
  | 6 => .ok (.atomXchg (fD w) (fA w) (fB w))
  | 7 => .ok (.atomIncw (fD w) (fA w) (fB w))
  | n => .error (.reservedFunction 0x1E n)

/-- Major opcode 0x1F (R26). -/
noncomputable def decOp1F (w : BitVec 32) : Except DecodeError Instr :=
  match (fFn w).toNat with
  | 0 => .ok (.cas (fD w) (fA w) (fB w))
  | 1 => .ok (.casD (fD w) (fA w) (fB w))
  | 2 => .ok (.casQ (fD w) (fA w) (fB w))
  | 3 => zeroed w (fD w == 0) (.redAdd (fA w) (fB w))
  | 4 => zeroed w (fD w == 0) (.redFadd (fA w) (fB w))
  | 5 => .ok (.atomFadd (fD w) (fA w) (fB w))
  | 6 => zeroed w (fD w == 0) (.redMin (fA w) (fB w))
  | 7 => zeroed w (fD w == 0) (.redMax (fA w) (fB w))
  | n => .error (.reservedFunction 0x1F n)

/-- Major opcode 0x20 (R26). -/
noncomputable def decOp20 (w : BitVec 32) : Except DecodeError Instr :=
  match (fPol w).toNat with
  | 0 => .ok (.ldSp (fD w) (fA w) (fOff w) (fSz w))
  | 1 => .ok (.stSp (fD w) (fA w) (fOff w) (fSz w))
  | 2 => zeroed w (fSz w == 0) (.ldSpQ (fD w) (fA w) (fOff w))
  | 3 => zeroed w (fSz w == 0) (.stSpQ (fD w) (fA w) (fOff w))
  | n => .error (.reservedFunction 0x20 n)

/-- Major opcode 0x21 (R26). -/
noncomputable def decOp21 (w : BitVec 32) : Except DecodeError Instr :=
  match (fFn w).toNat with
  | 0 => zeroed w (fD w == 0 && fA w == 0 && fB w == 0) (.fence)
  | 1 => zeroed w (fD w == 0 && fA w == 0 && fB w == 0) (.fenceE)
  | 2 => zeroed w (fD w == 0 && fA w == 0 && fB w == 0) (.fenceH)
  | 3 => zeroed w (fD w == 0 && fA w == 0 && fB w == 0) (.fenceSw)
  | 4 => zeroed w (fD w == 0 && fB w == 0) (.cinv (fA w))
  | 5 => zeroed w (fD w == 0 && fB w == 0) (.cwb (fA w))
  | 6 => zeroed w ((fD w).toNat < 4 && fB w == 0) (.prefetch ((fD w).setWidth 2) (fA w))
  | 7 => zeroed w (fB w == 0) (.leaseRenew (fD w) (fA w))
  | n => .error (.reservedFunction 0x21 n)

/-- Major opcode 0x22 (R26). -/
noncomputable def decOp22 (w : BitVec 32) : Except DecodeError Instr :=
  match (fFn w).toNat with
  | 0 => .ok (.cpG2s (fD w) (fA w) (fB w))
  | 1 => .ok (.cpS2g (fD w) (fA w) (fB w))
  | 2 => .ok (.cpG2g (fD w) (fA w) (fB w))
  | 3 => .ok (.cpGather (fD w) (fA w) (fB w))
  | 4 => .ok (.cpScatter (fD w) (fA w) (fB w))
  | 5 => zeroed w (fB w == 0) (.cpWait (fD w) (fA w))
  | 6 => zeroed w (fB w == 0) (.cpPoll (fD w) (fA w))
  | 7 => .ok (.cpQueue (fD w) (fA w) (fB w))
  | n => .error (.reservedFunction 0x22 n)

/-- Major opcode 0x23 (R26). -/
noncomputable def decOp23 (w : BitVec 32) : Except DecodeError Instr :=
  match (fFn w).toNat with
  | 0 => .ok (.binCount (fD w) (fA w) (fB w))
  | 1 => .ok (.binPatch (fD w) (fA w) (fB w))
  | 2 => zeroed w (fA w == 0 && fB w == 0) (.engRelease (fD w))
  | 3 => .ok (.binRead (fD w) (fA w) (fB w))
  | n => .error (.reservedFunction 0x23 n)

/-- Major opcode 0x24 (R26). -/
noncomputable def decOp24 (w : BitVec 32) : Except DecodeError Instr :=
  match (fFn w).toNat with
  | 0 => zeroed w (fB w == 0) (.swpReg (fD w) (fA w))
  | 1 => zeroed w (fD w == 0 && fB w == 0) (.swpUnreg (fA w))
  | 2 => .ok (.swpPos (fD w) (fA w) (fB w))
  | 3 => zeroed w (fB w == 0) (.swpWait (fD w) (fA w))
  | 4 => .ok (.swpQueue (fD w) (fA w) (fB w))
  | 5 => zeroed w (fB w == 0) (.swpStat (fD w) (fA w))
  | n => .error (.reservedFunction 0x24 n)

/-- Major opcode 0x25 (R26). -/
noncomputable def decOp25 (w : BitVec 32) : Except DecodeError Instr :=
  match (fFn w).toNat with
  | 0 => .ok (.bankTbl (fD w) (fA w) (fB w))
  | 1 => zeroed w (fB w == 0) (.bankLut (fD w) (fA w))
  | 2 => .ok (.bankBcast (fD w) (fA w) (fB w))
  | 3 => .ok (.bankRed (fD w) (fA w) (fB w))
  | 4 => .ok (.bankSync (fD w) (fA w) (fB w))
  | 5 => zeroed w (fB w == 0) (.bankClr (fD w) (fA w))
  | n => .error (.reservedFunction 0x25 n)

/-- Major opcode 0x26 (R26). -/
noncomputable def decOp26 (w : BitVec 32) : Except DecodeError Instr :=
  match (fFn w).toNat with
  | 0 => zeroed w ((fD w).toNat < 8) (.waitEq ((fD w).setWidth 3) (fA w) (fB w))
  | 1 => zeroed w ((fD w).toNat < 8) (.waitNe ((fD w).setWidth 3) (fA w) (fB w))
  | 2 => zeroed w ((fD w).toNat < 8) (.waitGeu ((fD w).setWidth 3) (fA w) (fB w))
  | 3 => zeroed w ((fD w).toNat < 8) (.waitMask ((fD w).setWidth 3) (fA w) (fB w))
  | 4 => zeroed w (fD w == 0 && fA w == 0 && fB w == 0) (.yield)
  | 5 => zeroed w ((fD w).toNat < 8 && fB w == 0) (.sleep ((fD w).setWidth 3) (fA w))
  | 6 => zeroed w (fD w == 0 && fB w == 0) (.wake (fA w))
  | n => .error (.reservedFunction 0x26 n)

/-- Major opcode 0x27 (R26). -/
noncomputable def decOp27 (w : BitVec 32) : Except DecodeError Instr :=
  match (fFn w).toNat with
  | 0 => zeroed w (fD w == 0 && (fA w).toNat < 64) (.barInit ((fA w).setWidth 6) (fB w))
  | 1 => zeroed w ((fA w).toNat < 64 && fB w == 0) (.barArrive (fD w) ((fA w).setWidth 6))
  | 2 => zeroed w (fD w == 0 && (fA w).toNat < 64) (.barWait ((fA w).setWidth 6) (fB w))
  | 3 => zeroed w (fD w == 0 && (fA w).toNat < 64 && fB w == 0) (.barSync ((fA w).setWidth 6))
  | 4 => zeroed w ((fA w).toNat < 64 && fB w == 0) (.barArriveT (fD w) ((fA w).setWidth 6))
  | 5 => zeroed w (fD w == 0 && (fA w).toNat < 64 && fB w == 0) (.barSyncT ((fA w).setWidth 6))
  | 6 => zeroed w ((fD w).toNat < 8 && (fA w).toNat < 64) (.barTest ((fD w).setWidth 3) ((fA w).setWidth 6) (fB w))
  | n => .error (.reservedFunction 0x27 n)

/-- Major opcode 0x28 (R26). -/
noncomputable def decOp28 (w : BitVec 32) : Except DecodeError Instr :=
  .ok (.br (fNeg w) (fBP w) (fDisp w) (fSz w))

/-- Major opcode 0x29 (R26). -/
noncomputable def decOp29 (w : BitVec 32) : Except DecodeError Instr :=
  match (fFn w).toNat with
  | 0 => zeroed w (fD w == 0 && fB w == 0) (.jmpr (fA w))
  | 1 => zeroed w (fD w == 0 && fB w == 0) (.callr (fA w))
  | 2 => zeroed w (fD w == 0 && fA w == 0 && fB w == 0) (.ret)
  | 3 => zeroed w (fD w == 0) (.brx (fA w) (fB w))
  | n => .error (.reservedFunction 0x29 n)

/-- Major opcode 0x2A (R26). -/
noncomputable def decOp2A (w : BitVec 32) : Except DecodeError Instr :=
  .ok (.call (fNeg w) (fBP w) (fDisp w) (fSz w))

/-- Major opcode 0x2B (R26). -/
noncomputable def decOp2B (w : BitVec 32) : Except DecodeError Instr :=
  match (fFn w).toNat with
  | 0 => zeroed w (fD w == 0 && fA w == 0 && fB w == 0) (.exit)
  | 1 => zeroed w (fB w == 0) (.exitNext (fD w) (fA w))
  | 2 => zeroed w (fD w == 0) (.spawn (fA w) (fB w))
  | 3 => zeroed w (fD w == 0) (.launch (fA w) (fB w))
  | 4 => zeroed w (fB w == 0) (.result (fD w) (fA w))
  | n => .error (.reservedFunction 0x2B n)

/-- Major opcode 0x2C (R26). -/
noncomputable def decOp2C (w : BitVec 32) : Except DecodeError Instr :=
  match (fFn w).toNat with
  | 0 => .ok (.region (fD w) (fA w) (fB w))
  | n => .error (.reservedFunction 0x2C n)

/-- Major opcode 0x2D (R26). -/
noncomputable def decOp2D (w : BitVec 32) : Except DecodeError Instr :=
  match (fFn w).toNat with
  | 0 => zeroed w (fD w == 0) (.trap (fA w) (fB w))
  | 1 => zeroed w (fB w == 0) (.trapIf (fD w) (fA w))
  | 2 => zeroed w (fD w == 0) (.brk (fA w) (fB w))
  | 3 => zeroed w (fA w == 0 && fB w == 0) (.rdtime (fD w))
  | 4 => zeroed w (fA w == 0 && fB w == 0) (.rdclk (fD w))
  | 5 => zeroed w (fA w == 0) (.trapinfo (fD w) (fB w))
  | 6 => zeroed w (fD w == 0 && fA w == 0 && fB w == 0) (.eret)
  | 7 => zeroed w (fD w == 0 && fB w == 0) (.halt (fA w))
  | n => .error (.reservedFunction 0x2D n)

/-- Major opcode 0x2E (R26). -/
noncomputable def decOp2E (w : BitVec 32) : Except DecodeError Instr :=
  match (fFn w).toNat with
  | 0 => zeroed w (fD w == 0 && fB w == 0) (.topen (fA w))
  | 1 => zeroed w (fA w == 0 && fB w == 0) (.tclose (fD w))
  | 2 => .ok (.trec (fD w) (fA w) ((fB w).extractLsb' 3 4) ((fB w).extractLsb' 0 3))
  | 3 => zeroed w (fD w == 0 && (fB w).toNat < 8) (.tbr (fA w) ((fB w).setWidth 3))
  | 4 => zeroed w (fD w == 0 && fA w == 0 && fB w == 0) (.trev)
  | 5 => .ok (.tpop (fD w) (fA w) ((fB w).extractLsb' 3 4) ((fB w).extractLsb' 0 3))
  | 6 => zeroed w (fD w == 0) (.tmark (fA w) (fB w))
  | 7 => zeroed w (fA w == 0 && (fB w).toNat < 8) (.tstat (fD w) ((fB w).setWidth 3))
  | n => .error (.reservedFunction 0x2E n)

/-- Major opcode 0x2F (R26). -/
noncomputable def decOp2F (w : BitVec 32) : Except DecodeError Instr :=
  match (fFn w).toNat with
  | 0 => zeroed w ((fD w).toNat < 8 && fB w == 0) (.tres ((fD w).setWidth 3) (fA w))
  | 1 => zeroed w (fD w == 0 && (fA w).toNat < 8 && fB w == 0) (.trel ((fA w).setWidth 3))
  | 2 => zeroed w ((fD w).toNat < 8 && fB w == 0) (.tld ((fD w).setWidth 3) (fA w))
  | 4 => zeroed w ((fD w).toNat < 8 && fB w == 0) (.tscale ((fD w).setWidth 3) (fA w))
  | 5 => zeroed w ((fA w).toNat < 8 && fB w == 0) (.tinfo (fD w) ((fA w).setWidth 3))
  | n => .error (.reservedFunction 0x2F n)

/-- Major opcode 0x30 (R26). -/
noncomputable def decOp30 (w : BitVec 32) : Except DecodeError Instr :=
  match (fFn w).toNat with
  | 0 => zeroed w ((fD w).toNat < 2 && (fA w).toNat < 8) (.mload ((fD w).setWidth 1) ((fA w).setWidth 3) (fB w))
  | 1 => zeroed w ((fD w).toNat < 4 && (fA w).toNat < 8 && (fB w).toNat < 8) (.mma ((fD w).setWidth 2) ((fA w).setWidth 3) ((fB w).extractLsb' 1 2) ((fB w).extractLsb' 0 1))
  | 2 => zeroed w ((fD w).toNat < 4 && (fA w).toNat < 8 && (fB w).toNat < 8) (.mmaPair ((fD w).setWidth 2) ((fA w).setWidth 3) ((fB w).extractLsb' 1 2) ((fB w).extractLsb' 0 1))
  | 3 => zeroed w ((fD w).toNat < 4 && (fA w).toNat < 8 && (fB w).toNat < 8) (.mmag ((fD w).setWidth 2) ((fA w).setWidth 3) ((fB w).extractLsb' 1 2) ((fB w).extractLsb' 0 1))
  | 4 => zeroed w ((fD w).toNat < 4 && (fA w).toNat < 8 && (fB w).toNat < 8) (.mmagPair ((fD w).setWidth 2) ((fA w).setWidth 3) ((fB w).extractLsb' 1 2) ((fB w).extractLsb' 0 1))
  | 5 => zeroed w ((fD w).toNat < 4 && fA w == 0 && fB w == 0) (.mzero ((fD w).setWidth 2))
  | 6 => zeroed w ((fB w).toNat < 2) (.mgemm (fD w) (fA w) ((fB w).setWidth 1))
  | 7 => zeroed w (fD w == 0 && (fA w).toNat < 4 && fB w == 0) (.mwait ((fA w).setWidth 2))
  | n => .error (.reservedFunction 0x30 n)

/-- Major opcode 0x31 (R26). -/
noncomputable def decOp31 (w : BitVec 32) : Except DecodeError Instr :=
  match (fFn w).toNat with
  | 0 => zeroed w ((fD w).toNat < 4 && fA w == 0 && fB w == 0) (.mbegin ((fD w).setWidth 2))
  | 1 => zeroed w ((fD w).toNat < 4 && fA w == 0 && fB w == 0) (.mend ((fD w).setWidth 2))
  | 2 => zeroed w ((fA w).toNat < 4) (.mdrain (fD w) ((fA w).setWidth 2) (fB w))
  | 3 => zeroed w (fD w == 0 && (fA w).toNat < 4) (.mst ((fA w).setWidth 2) (fB w))
  | 4 => zeroed w ((fD w).toNat < 4) (.mact ((fD w).setWidth 2) (fA w) (fB w))
  | 5 => zeroed w ((fD w).toNat < 2 && (fA w).toNat < 8 && fB w == 0) (.mloadg ((fD w).setWidth 1) ((fA w).setWidth 3))
  | n => .error (.reservedFunction 0x31 n)

/-- Major opcode 0x32 (R26). -/
noncomputable def decOp32 (w : BitVec 32) : Except DecodeError Instr :=
  match (fFn w).toNat with
  | 0 => zeroed w ((fD w).toNat < 8 && fB w == 0) (.gset ((fD w).setWidth 3) (fA w))
  | 1 => zeroed w ((fD w).toNat < 8 && fB w == 0) (.gseed ((fD w).setWidth 3) (fA w))
  | 2 => zeroed w ((fA w).toNat < 8) (.gread (fD w) ((fA w).setWidth 3) (fB w))
  | 3 => zeroed w ((fD w).toNat < 8 && fB w == 0) (.gscope ((fD w).setWidth 3) (fA w))
  | n => .error (.reservedFunction 0x32 n)

/-- An extension word, OP 0x3F, by its kind (R19 to R22). CH is 1 and SW is 0 (R14, R19). -/
noncomputable def decExt (w : BitVec 32) : Except DecodeError Instr :=
  if fCh w && !fSw w then
    match (fKind w).toNat with
    | 0 => .ok (.immext (fPayload w))
    | 1 =>
      if (fPayload w).extractLsb' 0 5 == 0#5 then
        .ok (.qual ((fPayload w).extractLsb' 21 1) ((fPayload w).extractLsb' 20 1) ((fPayload w).extractLsb' 17 3)
          ((fPayload w).extractLsb' 14 3) ((fPayload w).extractLsb' 12 2) ((fPayload w).extractLsb' 11 1)
          ((fPayload w).extractLsb' 10 1) ((fPayload w).extractLsb' 8 2) ((fPayload w).extractLsb' 5 3))
      else .error .badExtension
    | 2 => .ok (.regext ((fPayload w).extractLsb' 15 7) ((fPayload w).extractLsb' 8 7) ((fPayload w).extractLsb' 0 8))
    | _ => .error .badExtension
  else .error .badExtension

/-- The instruction of a word, by its major opcode (R26). -/
noncomputable def decodeInstr (w : BitVec 32) : Except DecodeError Instr :=
  match (fOp w).toNat with
  | 0x00 => decOp00 w
  | 0x01 => decOp01 w
  | 0x02 => decOp02 w
  | 0x03 => decOp03 w
  | 0x04 => decOp04 w
  | 0x05 => decOp05 w
  | 0x06 => decOp06 w
  | 0x07 => decOp07 w
  | 0x08 => decOp08 w
  | 0x09 => decOp09 w
  | 0x0A => decOp0A w
  | 0x0B => decOp0B w
  | 0x0C => decOp0C w
  | 0x0D => decOp0D w
  | 0x0E => decOp0E w
  | 0x0F => decOp0F w
  | 0x10 => decOp10 w
  | 0x11 => decOp11 w
  | 0x12 => decOp12 w
  | 0x13 => decOp13 w
  | 0x14 => decOp14 w
  | 0x15 => decOp15 w
  | 0x16 => decOp16 w
  | 0x17 => decOp17 w
  | 0x18 => decOp18 w
  | 0x19 => decOp19 w
  | 0x1A => decOp1A w
  | 0x1B => decOp1B w
  | 0x1C => decOp1C w
  | 0x1D => decOp1D w
  | 0x1E => decOp1E w
  | 0x1F => decOp1F w
  | 0x20 => decOp20 w
  | 0x21 => decOp21 w
  | 0x22 => decOp22 w
  | 0x23 => decOp23 w
  | 0x24 => decOp24 w
  | 0x25 => decOp25 w
  | 0x26 => decOp26 w
  | 0x27 => decOp27 w
  | 0x28 => decOp28 w
  | 0x29 => decOp29 w
  | 0x2A => decOp2A w
  | 0x2B => decOp2B w
  | 0x2C => decOp2C w
  | 0x2D => decOp2D w
  | 0x2E => decOp2E w
  | 0x2F => decOp2F w
  | 0x30 => decOp30 w
  | 0x31 => decOp31 w
  | 0x32 => decOp32 w
  | 0x3F => decExt w
  | n => .error (.reservedOpcode n)

/-- The decoder: every 32-bit word has a meaning or is rejected by name. -/
noncomputable def decode (w : BitVec 32) : Except DecodeError DWord :=
  match decodeInstr w with
  | .ok i => .ok ⟨fCh w, fSw w, i⟩
  | .error e => .error e

/-- The word that four bytes hold, lowest address first (R3, R9). -/
def wordOfBytes (b0 b1 b2 b3 : BitVec 8) : BitVec 32 := b3 ++ b2 ++ b1 ++ b0

/-- Decoding from bytes: the next word and the bytes after it. -/
noncomputable def decodeBytes : List (BitVec 8) → Option (Except DecodeError DWord × List (BitVec 8))
  | b0 :: b1 :: b2 :: b3 :: rest => some (decode (wordOfBytes b0 b1 b2 b3), rest)
  | _ => none

/-- The instruction read from a word whose bits are numbered as the opcode table numbers them, laid out as the
hardware stores it and given to the decoder. -/
noncomputable def decodeTableWord (nbits w : Nat) : Option Instr :=
  match decodeBytes (leBytes 4 (w % 2 ^ nbits)) with
  | some (.ok d, _) => some d.instr
  | _ => none

/-! ### The encoder, from the same encoding tables -/

/-- Formats A and E (R16). -/
def fmtA (op : BitVec 6) (d a b : BitVec 7) (fn : BitVec 3) : BitVec 30 := op ++ d ++ a ++ b ++ fn
/-- Format I. -/
def fmtI (op : BitVec 6) (d a : BitVec 7) (fn : BitVec 3) (i : BitVec 7) : BitVec 30 := op ++ d ++ a ++ fn ++ i
/-- Format L. -/
def fmtL (op : BitVec 6) (d : BitVec 7) (i : BitVec 17) : BitVec 30 := op ++ d ++ i
/-- Format M. -/
def fmtM (op : BitVec 6) (t base : BitVec 7) (off : BitVec 6) (pol sz : BitVec 2) : BitVec 30 :=
  op ++ t ++ base ++ off ++ pol ++ sz
/-- Format B. -/
def fmtB (op : BitVec 6) (neg : BitVec 1) (p : BitVec 3) (disp : BitVec 18) (slot : BitVec 2) : BitVec 30 :=
  op ++ neg ++ p ++ disp ++ slot
/-- Format X. -/
def fmtX (kind : BitVec 2) (payload : BitVec 22) : BitVec 30 := 0x3F#6 ++ kind ++ payload

/-- Bits 29:0 of the word of an instruction; a device event has none. -/
def encodeBody (i : Instr) : Option (BitVec 30) :=
  match i with
  | .nop => some (fmtA 0x00 0 0 0 0)
  | .mov d a => some (fmtA 0x00 d a 0 1)
  | .movc d a => some (fmtA 0x00 d a 0 2)
  | .wrc d a => some (fmtA 0x00 d a 0 3)
  | .elect d => some (fmtA 0x00 (d.setWidth 7) 0 0 4)
  | .amask d => some (fmtA 0x00 d 0 0 5)
  | .add d a b => some (fmtA 0x01 d a b 0)
  | .sub d a b => some (fmtA 0x01 d a b 1)
  | .addc d a b => some (fmtA 0x01 d a b 2)
  | .subb d a b => some (fmtA 0x01 d a b 3)
  | .min d a b => some (fmtA 0x01 d a b 4)
  | .max d a b => some (fmtA 0x01 d a b 5)
  | .minn d a b => some (fmtA 0x01 d a b 6)
  | .maxn d a b => some (fmtA 0x01 d a b 7)
  | .addi d a imm => some (fmtI 0x02 d a 0 imm)
  | .rsubi d a imm => some (fmtI 0x02 d a 1 imm)
  | .mini d a imm => some (fmtI 0x02 d a 2 imm)
  | .maxi d a imm => some (fmtI 0x02 d a 3 imm)
  | .minni d a imm => some (fmtI 0x02 d a 4 imm)
  | .maxni d a imm => some (fmtI 0x02 d a 5 imm)
  | .andi d a imm => some (fmtI 0x02 d a 6 imm)
  | .ori d a imm => some (fmtI 0x02 d a 7 imm)
  | .mulLo d a b => some (fmtA 0x03 d a b 0)
  | .mulHi d a b => some (fmtA 0x03 d a b 1)
  | .mulHin d a b => some (fmtA 0x03 d a b 2)
  | .madLo d a b => some (fmtA 0x03 d a b 3)
  | .madHi d a b => some (fmtA 0x03 d a b 4)
  | .div d a b => some (fmtA 0x03 d a b 5)
  | .divn d a b => some (fmtA 0x03 d a b 6)
  | .rem d a b => some (fmtA 0x03 d a b 7)
  | .and d a b => some (fmtA 0x04 d a b 0)
  | .or d a b => some (fmtA 0x04 d a b 1)
  | .xor d a b => some (fmtA 0x04 d a b 2)
  | .andn d a b => some (fmtA 0x04 d a b 3)
  | .orn d a b => some (fmtA 0x04 d a b 4)
  | .xnor d a b => some (fmtA 0x04 d a b 5)
  | .not d a => some (fmtA 0x04 d a 0 6)
  | .shl d a b => some (fmtA 0x05 d a b 0)
  | .shr d a b => some (fmtA 0x05 d a b 1)
  | .sra d a b => some (fmtA 0x05 d a b 2)
  | .rotl d a b => some (fmtA 0x05 d a b 3)
  | .rotr d a b => some (fmtA 0x05 d a b 4)
  | .shlD d a b => some (fmtA 0x05 d a b 5)
  | .shrD d a b => some (fmtA 0x05 d a b 6)
  | .sraD d a b => some (fmtA 0x05 d a b 7)
  | .shlImm d a imm => some (fmtI 0x06 d a 0 imm)
  | .shrImm d a imm => some (fmtI 0x06 d a 1 imm)
  | .sraImm d a imm => some (fmtI 0x06 d a 2 imm)
  | .rotlImm d a imm => some (fmtI 0x06 d a 3 imm)
  | .rotrImm d a imm => some (fmtI 0x06 d a 4 imm)
  | .shlDImm d a imm => some (fmtI 0x06 d a 5 imm)
  | .shrDImm d a imm => some (fmtI 0x06 d a 6 imm)
  | .sraDImm d a imm => some (fmtI 0x06 d a 7 imm)
  | .clz d a => some (fmtA 0x07 d a 0 0)
  | .ctz d a => some (fmtA 0x07 d a 0 1)
  | .popc d a => some (fmtA 0x07 d a 0 2)
  | .brev d a => some (fmtA 0x07 d a 0 3)
  | .bfe d a b => some (fmtA 0x07 d a b 4)
  | .bfen d a b => some (fmtA 0x07 d a b 5)
  | .bfi d a b => some (fmtA 0x07 d a b 6)
  | .sext d a b => some (fmtA 0x07 d a b 7)
  | .cmpEq d a b => some (fmtA 0x08 (d.setWidth 7) a b 0)
  | .cmpNe d a b => some (fmtA 0x08 (d.setWidth 7) a b 1)
  | .cmpLt d a b => some (fmtA 0x08 (d.setWidth 7) a b 2)
  | .cmpLe d a b => some (fmtA 0x08 (d.setWidth 7) a b 3)
  | .cmpLtn d a b => some (fmtA 0x08 (d.setWidth 7) a b 4)
  | .cmpLen d a b => some (fmtA 0x08 (d.setWidth 7) a b 5)
  | .test d a b => some (fmtA 0x08 (d.setWidth 7) a b 6)
  | .cmpEqImm d a imm => some (fmtI 0x09 (d.setWidth 7) a 0 imm)
  | .cmpNeImm d a imm => some (fmtI 0x09 (d.setWidth 7) a 1 imm)
  | .cmpLtImm d a imm => some (fmtI 0x09 (d.setWidth 7) a 2 imm)
  | .cmpLeImm d a imm => some (fmtI 0x09 (d.setWidth 7) a 3 imm)
  | .cmpLtnImm d a imm => some (fmtI 0x09 (d.setWidth 7) a 4 imm)
  | .cmpLenImm d a imm => some (fmtI 0x09 (d.setWidth 7) a 5 imm)
  | .testImm d a imm => some (fmtI 0x09 (d.setWidth 7) a 6 imm)
  | .pand d a b => some (fmtA 0x0A (d.setWidth 7) (a.setWidth 7) (b.setWidth 7) 0)
  | .por d a b => some (fmtA 0x0A (d.setWidth 7) (a.setWidth 7) (b.setWidth 7) 1)
  | .pxor d a b => some (fmtA 0x0A (d.setWidth 7) (a.setWidth 7) (b.setWidth 7) 2)
  | .pnot d a => some (fmtA 0x0A (d.setWidth 7) (a.setWidth 7) 0 3)
  | .pmov d a => some (fmtA 0x0A (d.setWidth 7) (a.setWidth 7) 0 4)
  | .vset d a => some (fmtA 0x0A d (a.setWidth 7) 0 5)
  | .voteAny d a => some (fmtA 0x0A (d.setWidth 7) (a.setWidth 7) 0 6)
  | .voteAll d a => some (fmtA 0x0A (d.setWidth 7) (a.setWidth 7) 0 7)
  | .sel d a b p => some (fmtA 0x0B d a b p)
  | .addD d a b => some (fmtA 0x0C d a b 0)
  | .subD d a b => some (fmtA 0x0C d a b 1)
  | .lea1 d a b => some (fmtA 0x0C d a b 2)
  | .lea2 d a b => some (fmtA 0x0C d a b 3)
  | .lea4 d a b => some (fmtA 0x0C d a b 4)
  | .lea8 d a b => some (fmtA 0x0C d a b 5)
  | .lea16 d a b => some (fmtA 0x0C d a b 6)
  | .mulWide d a b => some (fmtA 0x0C d a b 7)
  | .movi d imm => some (fmtL 0x0D d imm)
  | .fadd d a b => some (fmtA 0x0E d a b 0)
  | .fsub d a b => some (fmtA 0x0E d a b 1)
  | .fmul d a b => some (fmtA 0x0E d a b 2)
  | .fmin d a b => some (fmtA 0x0E d a b 3)
  | .fmax d a b => some (fmtA 0x0E d a b 4)
  | .fdiff d a b => some (fmtA 0x0E d a b 5)
  | .fcopysign d a b => some (fmtA 0x0E d a b 6)
  | .frnd d a => some (fmtA 0x0E d a 0 7)
  | .fma d a b => some (fmtA 0x0F d a b 0)
  | .fms d a b => some (fmtA 0x0F d a b 1)
  | .fnma d a b => some (fmtA 0x0F d a b 2)
  | .fnms d a b => some (fmtA 0x0F d a b 3)
  | .faddH2 d a b => some (fmtA 0x10 d a b 0)
  | .fmulH2 d a b => some (fmtA 0x10 d a b 1)
  | .fmaH2 d a b => some (fmtA 0x10 d a b 2)
  | .faddB2 d a b => some (fmtA 0x10 d a b 3)
  | .fmulB2 d a b => some (fmtA 0x10 d a b 4)
  | .fmaB2 d a b => some (fmtA 0x10 d a b 5)
  | .fminH2 d a b => some (fmtA 0x10 d a b 6)
  | .fmaxH2 d a b => some (fmtA 0x10 d a b 7)
  | .fcmpEq d a b => some (fmtA 0x11 (d.setWidth 7) a b 0)
  | .fcmpNe d a b => some (fmtA 0x11 (d.setWidth 7) a b 1)
  | .fcmpLt d a b => some (fmtA 0x11 (d.setWidth 7) a b 2)
  | .fcmpLe d a b => some (fmtA 0x11 (d.setWidth 7) a b 3)
  | .fcmpUn d a b => some (fmtA 0x11 (d.setWidth 7) a b 4)
  | .fclass d a b => some (fmtA 0x11 (d.setWidth 7) a b 5)
  | .rcp d a => some (fmtA 0x12 d a 0 0)
  | .rsqrt d a => some (fmtA 0x12 d a 0 1)
  | .sqrt d a => some (fmtA 0x12 d a 0 2)
  | .exp2 d a => some (fmtA 0x12 d a 0 3)
  | .log2 d a => some (fmtA 0x12 d a 0 4)
  | .sinpi d a => some (fmtA 0x12 d a 0 5)
  | .cospi d a => some (fmtA 0x12 d a 0 6)
  | .tanh d a => some (fmtA 0x12 d a 0 7)
  | .cvt d a dst rnd src => some (fmtA 0x13 d a (dst ++ rnd : BitVec 7) src)
  | .pkF8 d a b => some (fmtA 0x14 d a b 0)
  | .pkF4 d a b => some (fmtA 0x14 d a b 1)
  | .pkI8 d a b => some (fmtA 0x14 d a b 2)
  | .pkI4 d a b => some (fmtA 0x14 d a b 3)
  | .unpkF8 d a b => some (fmtA 0x14 d a b 4)
  | .unpkF4 d a b => some (fmtA 0x14 d a b 5)
  | .unpkI8 d a b => some (fmtA 0x14 d a b 6)
  | .unpkI4 d a b => some (fmtA 0x14 d a b 7)
  | .dot8I4 d a b => some (fmtA 0x15 d a b 0)
  | .dot8N4 d a b => some (fmtA 0x15 d a b 1)
  | .dot8I4n4 d a b => some (fmtA 0x15 d a b 2)
  | .dot4I8 d a b => some (fmtA 0x15 d a b 3)
  | .dot4N8 d a b => some (fmtA 0x15 d a b 4)
  | .dot4F8a d a b => some (fmtA 0x15 d a b 5)
  | .dot4F8b d a b => some (fmtA 0x15 d a b 6)
  | .dot2B16 d a b => some (fmtA 0x15 d a b 7)
  | .shfl d a b => some (fmtA 0x16 d a b 0)
  | .shflUp d a b => some (fmtA 0x16 d a b 1)
  | .shflDn d a b => some (fmtA 0x16 d a b 2)
  | .shflX d a b => some (fmtA 0x16 d a b 3)
  | .rdlane d a b => some (fmtA 0x16 d a (b.setWidth 7) 4)
  | .ballot d a => some (fmtA 0x16 d (a.setWidth 7) 0 5)
  | .perm d a b => some (fmtA 0x16 d a (b.setWidth 7) 6)
  | .ptab d a => some (fmtA 0x16 (d.setWidth 7) a 0 7)
  | .bredAdd d a => some (fmtA 0x17 d a 0 0)
  | .bredMin d a => some (fmtA 0x17 d a 0 1)
  | .bredMax d a => some (fmtA 0x17 d a 0 2)
  | .bredFadd d a => some (fmtA 0x17 d a 0 3)
  | .bredFmin d a => some (fmtA 0x17 d a 0 4)
  | .bredFmax d a => some (fmtA 0x17 d a 0 5)
  | .scanAdd d a => some (fmtA 0x17 d a 0 6)
  | .scanFadd d a => some (fmtA 0x17 d a 0 7)
  | .kadd d a b => some (fmtA 0x18 d a b 0)
  | .ksub d a b => some (fmtA 0x18 d a b 1)
  | .kmul d a b => some (fmtA 0x18 d a b 2)
  | .kand d a b => some (fmtA 0x18 d a b 3)
  | .kor d a b => some (fmtA 0x18 d a b 4)
  | .kxor d a b => some (fmtA 0x18 d a b 5)
  | .kshl d a b => some (fmtA 0x18 d a b 6)
  | .kshr d a b => some (fmtA 0x18 d a b 7)
  | .kaddi d a imm => some (fmtI 0x19 d a 0 imm)
  | .kandi d a imm => some (fmtI 0x19 d a 1 imm)
  | .kori d a imm => some (fmtI 0x19 d a 2 imm)
  | .kshli d a imm => some (fmtI 0x19 d a 3 imm)
  | .kshri d a imm => some (fmtI 0x19 d a 4 imm)
  | .kmovi d imm => some (fmtI 0x19 d 0 5 imm)
  | .kcmpi d a imm => some (fmtI 0x19 d a 6 imm)
  | .ldB t base off pol => some (fmtM 0x1A t base off pol 0)
  | .ldH t base off pol => some (fmtM 0x1A t base off pol 1)
  | .ldW t base off pol => some (fmtM 0x1A t base off pol 2)
  | .ldD t base off pol => some (fmtM 0x1A t base off pol 3)
  | .ldsB t base off pol => some (fmtM 0x1B t base off pol 0)
  | .ldsH t base off pol => some (fmtM 0x1B t base off pol 1)
  | .stB t base off pol => some (fmtM 0x1C t base off pol 0)
  | .stH t base off pol => some (fmtM 0x1C t base off pol 1)
  | .stW t base off pol => some (fmtM 0x1C t base off pol 2)
  | .stD t base off pol => some (fmtM 0x1C t base off pol 3)
  | .ldQ t base off pol => some (fmtM 0x1D t base off pol 0)
  | .stQ t base off pol => some (fmtM 0x1D t base off pol 1)
  | .ldSvW t base off => some (fmtM 0x1D t base off 0 2)
  | .ldSvQ t base off => some (fmtM 0x1D t base off 0 3)
  | .atomAdd d a b => some (fmtA 0x1E d a b 0)
  | .atomMin d a b => some (fmtA 0x1E d a b 1)
  | .atomMax d a b => some (fmtA 0x1E d a b 2)
  | .atomAnd d a b => some (fmtA 0x1E d a b 3)
  | .atomOr d a b => some (fmtA 0x1E d a b 4)
  | .atomXor d a b => some (fmtA 0x1E d a b 5)
  | .atomXchg d a b => some (fmtA 0x1E d a b 6)
  | .atomIncw d a b => some (fmtA 0x1E d a b 7)
  | .cas d a b => some (fmtA 0x1F d a b 0)
  | .casD d a b => some (fmtA 0x1F d a b 1)
  | .casQ d a b => some (fmtA 0x1F d a b 2)
  | .redAdd a b => some (fmtA 0x1F 0 a b 3)
  | .redFadd a b => some (fmtA 0x1F 0 a b 4)
  | .atomFadd d a b => some (fmtA 0x1F d a b 5)
  | .redMin a b => some (fmtA 0x1F 0 a b 6)
  | .redMax a b => some (fmtA 0x1F 0 a b 7)
  | .ldSp t base off sz => some (fmtM 0x20 t base off 0 sz)
  | .stSp t base off sz => some (fmtM 0x20 t base off 1 sz)
  | .ldSpQ t base off => some (fmtM 0x20 t base off 2 0)
  | .stSpQ t base off => some (fmtM 0x20 t base off 3 0)
  | .fence => some (fmtA 0x21 0 0 0 0)
  | .fenceE => some (fmtA 0x21 0 0 0 1)
  | .fenceH => some (fmtA 0x21 0 0 0 2)
  | .fenceSw => some (fmtA 0x21 0 0 0 3)
  | .cinv a => some (fmtA 0x21 0 a 0 4)
  | .cwb a => some (fmtA 0x21 0 a 0 5)
  | .prefetch pol a => some (fmtA 0x21 (pol.setWidth 7) a 0 6)
  | .leaseRenew d a => some (fmtA 0x21 d a 0 7)
  | .cpG2s d a b => some (fmtA 0x22 d a b 0)
  | .cpS2g d a b => some (fmtA 0x22 d a b 1)
  | .cpG2g d a b => some (fmtA 0x22 d a b 2)
  | .cpGather d a b => some (fmtA 0x22 d a b 3)
  | .cpScatter d a b => some (fmtA 0x22 d a b 4)
  | .cpWait d a => some (fmtA 0x22 d a 0 5)
  | .cpPoll d a => some (fmtA 0x22 d a 0 6)
  | .cpQueue d a b => some (fmtA 0x22 d a b 7)
  | .binCount d a b => some (fmtA 0x23 d a b 0)
  | .binPatch d a b => some (fmtA 0x23 d a b 1)
  | .engRelease d => some (fmtA 0x23 d 0 0 2)
  | .binRead d a b => some (fmtA 0x23 d a b 3)
  | .swpReg d a => some (fmtA 0x24 d a 0 0)
  | .swpUnreg a => some (fmtA 0x24 0 a 0 1)
  | .swpPos d a b => some (fmtA 0x24 d a b 2)
  | .swpWait d a => some (fmtA 0x24 d a 0 3)
  | .swpQueue d a b => some (fmtA 0x24 d a b 4)
  | .swpStat d a => some (fmtA 0x24 d a 0 5)
  | .bankTbl d a b => some (fmtA 0x25 d a b 0)
  | .bankLut d a => some (fmtA 0x25 d a 0 1)
  | .bankBcast d a b => some (fmtA 0x25 d a b 2)
  | .bankRed d a b => some (fmtA 0x25 d a b 3)
  | .bankSync d a b => some (fmtA 0x25 d a b 4)
  | .bankClr d a => some (fmtA 0x25 d a 0 5)
  | .waitEq d a b => some (fmtA 0x26 (d.setWidth 7) a b 0)
  | .waitNe d a b => some (fmtA 0x26 (d.setWidth 7) a b 1)
  | .waitGeu d a b => some (fmtA 0x26 (d.setWidth 7) a b 2)
  | .waitMask d a b => some (fmtA 0x26 (d.setWidth 7) a b 3)
  | .yield => some (fmtA 0x26 0 0 0 4)
  | .sleep d a => some (fmtA 0x26 (d.setWidth 7) a 0 5)
  | .wake a => some (fmtA 0x26 0 a 0 6)
  | .barInit a b => some (fmtA 0x27 0 (a.setWidth 7) b 0)
  | .barArrive d a => some (fmtA 0x27 d (a.setWidth 7) 0 1)
  | .barWait a b => some (fmtA 0x27 0 (a.setWidth 7) b 2)
  | .barSync a => some (fmtA 0x27 0 (a.setWidth 7) 0 3)
  | .barArriveT d a => some (fmtA 0x27 d (a.setWidth 7) 0 4)
  | .barSyncT a => some (fmtA 0x27 0 (a.setWidth 7) 0 5)
  | .barTest d a b => some (fmtA 0x27 (d.setWidth 7) (a.setWidth 7) b 6)
  | .br neg p disp slot => some (fmtB 0x28 neg p disp slot)
  | .jmpr a => some (fmtA 0x29 0 a 0 0)
  | .callr a => some (fmtA 0x29 0 a 0 1)
  | .ret => some (fmtA 0x29 0 0 0 2)
  | .brx a b => some (fmtA 0x29 0 a b 3)
  | .call neg p disp slot => some (fmtB 0x2A neg p disp slot)
  | .exit => some (fmtA 0x2B 0 0 0 0)
  | .exitNext d a => some (fmtA 0x2B d a 0 1)
  | .spawn a b => some (fmtA 0x2B 0 a b 2)
  | .launch a b => some (fmtA 0x2B 0 a b 3)
  | .result d a => some (fmtA 0x2B d a 0 4)
  | .region d a b => some (fmtA 0x2C d a b 0)
  | .trap a b => some (fmtA 0x2D 0 a b 0)
  | .trapIf d a => some (fmtA 0x2D d a 0 1)
  | .brk a b => some (fmtA 0x2D 0 a b 2)
  | .rdtime d => some (fmtA 0x2D d 0 0 3)
  | .rdclk d => some (fmtA 0x2D d 0 0 4)
  | .trapinfo d b => some (fmtA 0x2D d 0 b 5)
  | .eret => some (fmtA 0x2D 0 0 0 6)
  | .halt a => some (fmtA 0x2D 0 a 0 7)
  | .topen a => some (fmtA 0x2E 0 a 0 0)
  | .tclose d => some (fmtA 0x2E d 0 0 1)
  | .trec d a n1 p => some (fmtA 0x2E d a (n1 ++ p : BitVec 7) 2)
  | .tbr a p => some (fmtA 0x2E 0 a (p.setWidth 7) 3)
  | .trev => some (fmtA 0x2E 0 0 0 4)
  | .tpop d a n1 p => some (fmtA 0x2E d a (n1 ++ p : BitVec 7) 5)
  | .tmark a b => some (fmtA 0x2E 0 a b 6)
  | .tstat d which => some (fmtA 0x2E d 0 (which.setWidth 7) 7)
  | .tres d a => some (fmtA 0x2F (d.setWidth 7) a 0 0)
  | .trel a => some (fmtA 0x2F 0 (a.setWidth 7) 0 1)
  | .tld d a => some (fmtA 0x2F (d.setWidth 7) a 0 2)
  | .tscale d a => some (fmtA 0x2F (d.setWidth 7) a 0 4)
  | .tinfo d a => some (fmtA 0x2F d (a.setWidth 7) 0 5)
  | .mload d a b => some (fmtA 0x30 (d.setWidth 7) (a.setWidth 7) b 0)
  | .mma d a colq slot => some (fmtA 0x30 (d.setWidth 7) (a.setWidth 7) ((colq ++ slot : BitVec 3).setWidth 7) 1)
  | .mmaPair d a colq slot => some (fmtA 0x30 (d.setWidth 7) (a.setWidth 7) ((colq ++ slot : BitVec 3).setWidth 7) 2)
  | .mmag d a colq slot => some (fmtA 0x30 (d.setWidth 7) (a.setWidth 7) ((colq ++ slot : BitVec 3).setWidth 7) 3)
  | .mmagPair d a colq slot => some (fmtA 0x30 (d.setWidth 7) (a.setWidth 7) ((colq ++ slot : BitVec 3).setWidth 7) 4)
  | .mzero d => some (fmtA 0x30 (d.setWidth 7) 0 0 5)
  | .mgemm d a b => some (fmtA 0x30 d a (b.setWidth 7) 6)
  | .mwait a => some (fmtA 0x30 0 (a.setWidth 7) 0 7)
  | .mbegin d => some (fmtA 0x31 (d.setWidth 7) 0 0 0)
  | .mend d => some (fmtA 0x31 (d.setWidth 7) 0 0 1)
  | .mdrain d a b => some (fmtA 0x31 d (a.setWidth 7) b 2)
  | .mst a b => some (fmtA 0x31 0 (a.setWidth 7) b 3)
  | .mact d a b => some (fmtA 0x31 (d.setWidth 7) a b 4)
  | .mloadg d a => some (fmtA 0x31 (d.setWidth 7) (a.setWidth 7) 0 5)
  | .gset d a => some (fmtA 0x32 (d.setWidth 7) a 0 0)
  | .gseed d a => some (fmtA 0x32 (d.setWidth 7) a 0 1)
  | .gread d a b => some (fmtA 0x32 d (a.setWidth 7) b 2)
  | .gscope d a => some (fmtA 0x32 (d.setWidth 7) a 0 3)
  | .immext imm => some (fmtX 0 imm)
  | .qual gen neg p scope order ub ua cache rm => some (fmtX 1 (gen ++ neg ++ p ++ scope ++ order ++ ub ++ ua ++ cache ++ rm ++ 0#5))
  | .regext e f mode => some (fmtX 2 (e ++ f ++ mode))
  | .issueSlot _ _ _ => none
  | .gatherWindowExpiry _ _ => none
  | .shortLatencyResultReturn _ _ _ _ => none
  | .engineResultLand _ _ _ => none
  | .trapDelivery _ _ _ => none
  | .coreClockTick _ _ _ => none
  | .l2Eviction _ => none
  | .sharerFilterEviction _ _ => none
  | .tokenBucketRefill _ _ => none
  | .portIdleDetect _ _ => none
  | .portRequestServe _ => none
  | .waitMonitorWake _ => none
  | .clumpSwapOut _ => none
  | .waitBudgetExhausted _ => none
  | .sleepExpiry _ _ _ => none
  | .yieldExpiry _ _ _ => none
  | .clumpPlacement _ _ _ => none
  | .clumpEnd _ => none
  | .nodeCompletion _ _ => none
  | .bandRestart _ _ => none
  | .aggregationWindowClose _ _ => none
  | .spawnBinTimerExpiry _ _ => none
  | .sqtailDoorbell _ _ => none
  | .commandAccept _ => none
  | .cmdNop _ => none
  | .cmdGraph _ => none
  | .cmdSignal _ => none
  | .cmdModeSwitch _ => none
  | .cmdWaitValue _ => none
  | .waitValueSatisfied _ => none
  | .commandCompletion _ => none
  | .chcmdApply _ => none
  | .channelChangeProceed => none
  | .channelZeroingComplete => none
  | .hstatClear _ => none
  | .sqrefClear _ _ => none
  | .resolveRetry _ _ _ => none
  | .resolveAbort _ _ _ => none
  | .invalRequest _ _ _ => none
  | .invalidationComplete _ => none
  | .cctlPreempt _ => none
  | .cctlResume _ => none
  | .cctlDiscard _ => none
  | .cctlDebugEnable _ => none
  | .cctlDebugDisable _ => none
  | .windowEnable _ _ => none
  | .windowDisable _ _ => none
  | .controlSpaceWrite _ _ _ => none
  | .preemption _ => none
  | .drainFallbackTimeout _ => none
  | .faultQueuePost _ => none
  | .migrationRequest _ _ _ => none
  | .chunkPullLand _ _ _ => none
  | .rowRefresh _ _ => none
  | .thermalBandSample _ _ => none
  | .bankCommandAccept _ => none
  | .bankCommandExecute _ _ => none
  | .bankRedTree _ _ => none
  | .copyCompletion _ => none
  | .spadParkedLoadComplete _ _ _ => none
  | .engineIssueAfterLock _ _ => none
  | .regionTableFill _ _ _ => none
  | .tileLoadComplete _ => none
  | .slotLoadComplete _ => none
  | .matrixStepRetire _ => none
  | .drainComplete _ => none
  | .mgemmSequenceStep _ => none
  | .gsetDescriptorRead _ => none
  | .tapeChunkReadback _ _ => none
  | .tapeSpillLand _ _ => none
  | .fenceComplete _ _ _ => none
  | .windowContribution _ _ _ => none
  | .windowGenerationEnd _ => none
  | .mortasPortFailure _ => none
  | .moduleFailure _ => none
  | .partitionBuild _ _ _ => none
  | .hostCxlMemAccess _ _ _ => none
  | .hostSnoop _ _ => none
  | .softError _ _ _ => none
  | .moduleReset _ => none
  | .firmwareUpdate _ => none
  | .spdmRequest => none
  | .keySlotLoad _ _ => none
  | .clockThrottle _ => none
  | .thermalShutdown => none
  | .windowRegistrationComplete _ => none
  | .atomicopRoutingEnable _ => none
  | .pldmPlatformMonitoring => none
  | .recoveryImageDelivery _ => none

/-- The word of an instruction with its chain bit and switch marker. -/
def encode (d : DWord) : Option (BitVec 32) :=
  (encodeBody d.instr).map fun b => (BitVec.ofBool d.ch ++ BitVec.ofBool d.sw ++ b : BitVec 32)

/-- A decoded word that has a word: an instruction, and for an extension word CH = 1 and SW = 0 (R14, R19). -/
def DWord.wf (d : DWord) : Bool :=
  d.instr.isWord && (!d.instr.isExt || (d.ch && !d.sw))

end Sys2Proof
end

