-- ==== Sys2Proof/Machine/Operands.lean ====
section
/-!
DEFINITION. Every operand form (R16, R20, R21): how a word's fields name registers and immediates; and, for each instruction,
its signature: its pipe (R12, R26), the class of each field (R17) and the extension fields its entry accepts (R19 to R22),
from which the illegal encodings of R25 that depend on the extension words or on the band follow.
-/

namespace Sys2Proof.Machine

/-! ### Reading operands -/

/-- Field A of a strand: a vector register, or with UA a uniform register of its band (R21, R168). -/
def State.opA (s : State) (m : Lane) (a : BitVec 7) : Word :=
  if s.sh.ext.ua then (s.bnd m).ureg a.toNat else (s.str m).reg a.toNat

/-- Field B of a strand, by UB. -/
def State.opB (s : State) (m : Lane) (b : BitVec 7) : Word :=
  if s.sh.ext.ub then (s.bnd m).ureg b.toNat else (s.str m).reg b.toNat

/-- Field A as a 64-bit pair. -/
def State.opA64 (s : State) (m : Lane) (a : BitVec 7) : DWord64 :=
  if s.sh.ext.ua then (s.bnd m).upair a.toNat else (s.str m).pair a.toNat

/-- Field B as a 64-bit pair. -/
def State.opB64 (s : State) (m : Lane) (b : BitVec 7) : DWord64 :=
  if s.sh.ext.ub then (s.bnd m).upair b.toNat else (s.str m).pair b.toNat

/-- Field D, read as a vector register. -/
def State.opD (s : State) (m : Lane) (d : BitVec 7) : Word := (s.str m).reg d.toNat

/-- The `i`-th word of an operand of several registers in field A. -/
def State.opAword (s : State) (m : Lane) (a : BitVec 7) (i : Nat) : Word :=
  if s.sh.ext.ua then (s.bnd m).ureg (a.toNat + i) else (s.str m).reg (a.toNat + i)

/-- The `i`-th word of an operand of several registers in field B. -/
def State.opBword (s : State) (m : Lane) (b : BitVec 7) (i : Nat) : Word :=
  if s.sh.ext.ub then (s.bnd m).ureg (b.toNat + i) else (s.str m).reg (b.toNat + i)

/-- The immediate of format I, sign-extended to 32 bits: IMM7, or 29 bits with IMMEXT (R20). -/
def State.immI (s : State) (i : BitVec 7) : Word :=
  match s.sh.ext.imm with
  | some h => (h ++ i : BitVec 29).signExtend 32
  | none => i.signExtend 32

/-- The immediate of format L, cut to 32 bits (R20, R184). -/
def State.immL (s : State) (i : BitVec 17) : Word :=
  match s.sh.ext.imm with
  | some h => (h ++ i : BitVec 39).setWidth 32
  | none => i.signExtend 32

/-- The offset of format M in bytes, for an access of `n` bytes (R20, R27). -/
def State.offM (s : State) (o : BitVec 6) (n : Nat) : Int :=
  (match s.sh.ext.imm with
   | some h => (h ++ o : BitVec 28).toInt
   | none => o.toInt) * n

/-- The displacement of format B in packets (R20). -/
def State.dispB (s : State) (d : BitVec 18) : Int :=
  match s.sh.ext.imm with
  | some h => (h ++ d : BitVec 40).toInt
  | none => d.toInt

/-- The memory address of a format M word (R103): the 64-bit base plus the offset, modulo 2^64. -/
def State.addrM (s : State) (m : Lane) (base : BitVec 7) (o : BitVec 6) (n : Nat) : DWord64 :=
  s.opA64 m base + BitVec.ofInt 64 (s.offM o n)

/-- The scratchpad offset of a format M word (R134), modulo 2^32; BASE + 1 is not read. -/
def State.addrS (s : State) (m : Lane) (base : BitVec 7) (o : BitVec 6) (n : Nat) : Word :=
  s.opA m base + BitVec.ofInt 32 (s.offM o n)

/-- The MODE8 byte of the REGEXT word, zero without one (R22). -/
def Ext.mode (e : Ext) : BitVec 8 := (e.reg.map fun x => x.2.2).getD 0

/-- The E field of the REGEXT word. -/
def Ext.e (e : Ext) : BitVec 7 := (e.reg.map fun x => x.1).getD 0

/-- The lowest-lane participant of a sheaf or of a band in it (R83, R140, R303). -/
def lowest : List Lane → Lane
  | [] => ⟨0, 0⟩
  | m :: ms => ms.foldl (fun a x => if x.lane < a.lane then x else a) m

/-- Sign-extended product scale: the access size that SZ selects (R27). -/
def sizeOf (sz : BitVec 2) : Nat := 2 ^ sz.toNat

/-! ### Signatures -/

/-- The pipes of a quadrant (R12); `v` is either vector pipe. -/
inductive Pipe where
  | none | v | v1 | m | c | e | k
  deriving DecidableEq, Repr

/-- The class of a field (R17). -/
inductive Cls where
  /-- Not a register: a number, or a field the entry marks 0. -/
  | num
  /-- `w` vector registers from a multiple of `al`. -/
  | v (w al : Nat)
  /-- `w` uniform registers from a multiple of `al`. -/
  | k (w al : Nat)
  | p | t | a | g
  deriving DecidableEq, Repr

/-- A field: its class, the number it holds, and whether the instruction reads and writes what it names. -/
structure Fld where
  cls : Cls := .num
  n : Nat := 0
  rd : Bool := true
  wr : Bool := false
  deriving DecidableEq, Repr

/-- What an instruction accepts and touches. -/
structure Sig where
  pipe : Pipe := .v
  d : Fld := {}
  a : Fld := {}
  b : Fld := {}
  /-- A predicate in a field of its own. -/
  p : Option Nat := none
  /-- The E field of a REGEXT word. -/
  e : Fld := {}
  /-- IMMEXT is accepted (R19, R165). -/
  imm : Bool := false
  /-- A QUAL word is accepted. -/
  qual : Bool := true
  /-- UA and UB are accepted, where their fields name vector registers (R21). -/
  uaOk : Bool := true
  ubOk : Bool := true
  rm : Bool := false
  orders : List Nat := [0]
  caches : List Nat := [0]
  /-- REGEXT: 0 not accepted, 1 optional, 2 required; and its MODE8 mask. -/
  regext : Nat := 0
  modeMask : Nat := 0
  deriving DecidableEq, Repr

/-- A vector operand read. -/
def vr (n : BitVec 7) (w : Nat := 1) (al : Nat := w) : Fld := { cls := .v w al, n := n.toNat }
/-- A vector result. -/
def vw (n : BitVec 7) (w : Nat := 1) (al : Nat := w) : Fld := { cls := .v w al, n := n.toNat, rd := false, wr := true }
/-- A vector register read and written. -/
def vrw (n : BitVec 7) (w : Nat := 1) : Fld := { cls := .v w w, n := n.toNat, wr := true }
/-- A uniform operand. -/
def kr (n : BitVec 7) (w : Nat := 1) : Fld := { cls := .k w w, n := n.toNat }
/-- A uniform result. -/
def kw (n : BitVec 7) : Fld := { cls := .k 1 1, n := n.toNat, rd := false, wr := true }
/-- A predicate read. -/
def prd (n : BitVec 3) : Fld := { cls := .p, n := n.toNat }
/-- A predicate written. -/
def pwr (n : BitVec 3) : Fld := { cls := .p, n := n.toNat, rd := false, wr := true }
/-- A tile handle, accumulator or generator. -/
def tf (n : BitVec 3) : Fld := { cls := .t, n := n.toNat }
def af (n : BitVec 2) : Fld := { cls := .a, n := n.toNat }
def gf (n : BitVec 3) : Fld := { cls := .g, n := n.toNat }

/-- Three vector registers. -/
def sig3 (d a b : BitVec 7) : Sig := { d := vw d, a := vr a, b := vr b }
/-- Two vector registers. -/
def sig2 (d a : BitVec 7) : Sig := { d := vw d, a := vr a }
/-- Format I on vector registers. -/
def sigI (d a : BitVec 7) : Sig := { d := vw d, a := vr a, imm := true }
/-- A compare. -/
def sigC (d : BitVec 3) (a b : BitVec 7) : Sig := { d := pwr d, a := vr a, b := vr b }
/-- A compare with an immediate. -/
def sigCI (d : BitVec 3) (a : BitVec 7) : Sig := { d := pwr d, a := vr a, imm := true }
/-- Three uniform registers. -/
def sigK (d a b : BitVec 7) : Sig := { pipe := .k, d := kw d, a := kr a, b := kr b }
/-- Format I on uniform registers. -/
def sigKI (d a : BitVec 7) (imm : Bool) : Sig := { pipe := .k, d := kw d, a := kr a, imm := imm }
/-- A load of `w` registers under a policy (R105): CACHE byp is illegal with own and wi. -/
def sigLd (t base : BitVec 7) (w : Nat) (pol : BitVec 2) : Sig :=
  { pipe := .m, d := vw t w, a := vr base 2, imm := true, orders := [0, 1],
    caches := if pol == 0 || pol == 3 then [0, 1, 2] else [0, 1, 2, 3] }
/-- A store of `w` registers under a policy. -/
def sigSt (t base : BitVec 7) (w : Nat) (pol : BitVec 2) : Sig :=
  { pipe := .m, d := vr t w, a := vr base 2, imm := true, orders := [0, 2, 3],
    caches := if pol == 0 || pol == 3 then [0, 1, 2] else [0, 1, 2, 3] }
/-- An atomic with a returned value of `w` registers. -/
def sigAt (d a b : BitVec 7) (w mask : Nat) : Sig :=
  { pipe := .m, d := vw d w, a := vr a 2, b := vr b w, orders := [0, 1, 2, 3], regext := 1, modeMask := mask }
/-- A reduction without a returned value. -/
def sigRed (a b : BitVec 7) (w mask regext : Nat) : Sig :=
  { pipe := .m, a := vr a 2, b := vr b w, orders := [0, 2], regext := regext, modeMask := mask }
/-- A compare-and-swap of `w` registers. -/
def sigCas (d a b e : BitVec 7) (w : Nat) : Sig :=
  { pipe := .m, d := vw d w, a := vr a 2, b := vr b w, e := vr e w, orders := [0, 1, 2, 3], regext := 2 }
/-- A scratchpad access: BASE is an even vector register or any uniform register, and one register of it is read (R134). -/
def sigSp (t base : BitVec 7) (w : Nat) (store ua : Bool) : Sig :=
  { pipe := .m, d := if store then vr t w else vw t w, a := vr base 1 (if ua then 1 else 2), imm := true, ubOk := false }
/-- An engine word. -/
def sigE (d a b : Fld) : Sig := { pipe := .e, d := d, a := a, b := b }
/-- An engine word that accepts no uniform operand. -/
def sigE0 (d a b : Fld) : Sig := { pipe := .e, d := d, a := a, b := b, uaOk := false, ubOk := false }
/-- A control word. -/
def sigX (d a b : Fld) : Sig := { pipe := .c, d := d, a := a, b := b }
/-- A control word that accepts no uniform operand. -/
def sigX0 (d a b : Fld) : Sig := { pipe := .c, d := d, a := a, b := b, uaOk := false, ubOk := false }

/-- Whether a control register is 64 bits wide (R29). -/
def cregWide (n : Nat) : Bool := n == 0x0A || n == 0x0B || n == 0x0D || n == 0x0E

/-- The origin pair of a generator operand, which a REGEXT word names and ORG has read (R208, R209). -/
def originFld (x : Ext) : Fld := if x.reg.isSome then { vr x.e 2 with rd := x.mode.getLsbD 0 } else {}

/-- The signature of an instruction under its extension fields; a device event has none.
DEDUCED: notes/assumptions/15.md. DEDUCED: notes/assumptions/19.md. -/
def sigOf (x : Ext) (i : Instr) : Sig :=
  let w64 := x.mode.getLsbD 1
  let wa := if w64 then 2 else 1
  match i with
  | .nop => { pipe := .none, qual := false }
  | .mov d a => { sig2 d a with ubOk := false }
  | .movc d a => { pipe := .c, d := vw d (if cregWide a.toNat then 2 else 1), uaOk := false, ubOk := false }
  | .wrc _ a => { pipe := .c, a := vr a, ubOk := false }
  | .elect d => { d := pwr d }
  | .amask d => { d := vw d }
  | .add d a b | .sub d a b | .addc d a b | .subb d a b | .min d a b | .max d a b | .minn d a b | .maxn d a b
  | .mulLo d a b | .mulHi d a b | .mulHin d a b | .div d a b | .divn d a b | .rem d a b
  | .and d a b | .or d a b | .xor d a b | .andn d a b | .orn d a b | .xnor d a b
  | .shl d a b | .shr d a b | .sra d a b | .rotl d a b | .rotr d a b | .bfe d a b | .bfen d a b | .sext d a b => sig3 d a b
  | .madLo d a b | .madHi d a b | .bfi d a b => { sig3 d a b with d := vrw d }
  | .addi d a _ | .rsubi d a _ | .mini d a _ | .maxi d a _ | .minni d a _ | .maxni d a _ | .andi d a _ | .ori d a _ => sigI d a
  | .not d a | .clz d a | .ctz d a | .popc d a | .brev d a => sig2 d a
  | .shlD d a b | .shrD d a b | .sraD d a b => { d := vw d 2, a := vr a 2, b := vr b }
  | .shlImm d a _ | .shrImm d a _ | .sraImm d a _ | .rotlImm d a _ | .rotrImm d a _ => sig2 d a
  | .shlDImm d a _ | .shrDImm d a _ | .sraDImm d a _ => { d := vw d 2, a := vr a 2 }
  | .cmpEq d a b | .cmpNe d a b | .cmpLt d a b | .cmpLe d a b | .cmpLtn d a b | .cmpLen d a b | .test d a b => sigC d a b
  | .cmpEqImm d a _ | .cmpNeImm d a _ | .cmpLtImm d a _ | .cmpLeImm d a _ | .cmpLtnImm d a _ | .cmpLenImm d a _
  | .testImm d a _ => sigCI d a
  | .pand d a b | .por d a b | .pxor d a b => { d := pwr d, a := prd a, b := prd b }
  | .pnot d a | .pmov d a | .voteAny d a | .voteAll d a => { d := pwr d, a := prd a }
  | .vset d a => { d := vw d, a := prd a }
  | .sel d a b p => { sig3 d a b with p := some p.toNat }
  | .addD d a b | .subD d a b => { d := vw d 2, a := vr a 2, b := vr b 2 }
  | .lea1 d a b | .lea2 d a b | .lea4 d a b | .lea8 d a b | .lea16 d a b => { d := vw d 2, a := vr a 2, b := vr b }
  | .mulWide d a b => { d := vw d 2, a := vr a, b := vr b }
  | .movi d _ => { d := vw d, imm := true }
  | .fadd d a b | .fsub d a b | .fmul d a b | .fdiff d a b => { sig3 d a b with rm := true }
  | .fmin d a b | .fmax d a b | .fcopysign d a b => sig3 d a b
  | .frnd d a => { sig2 d a with rm := true }
  | .fma d a b | .fms d a b | .fnma d a b | .fnms d a b | .fmaH2 d a b | .fmaB2 d a b =>
    { sig3 d a b with d := vrw d, rm := true }
  | .faddH2 d a b | .fmulH2 d a b | .faddB2 d a b | .fmulB2 d a b => { sig3 d a b with rm := true }
  | .fminH2 d a b | .fmaxH2 d a b => sig3 d a b
  | .fcmpEq d a b | .fcmpNe d a b | .fcmpLt d a b | .fcmpLe d a b | .fcmpUn d a b | .fclass d a b => sigC d a b
  | .rcp d a | .rsqrt d a | .sqrt d a | .exp2 d a | .log2 d a | .sinpi d a | .cospi d a | .tanh d a =>
    { sig2 d a with pipe := .v1 }
  | .cvt d a dst _ src =>
    { d := vw d (if dst == 7 || dst == 13 then 2 else 1), a := vr a (if src == 7 then 2 else 1), ubOk := false }
  | .pkF8 d a b => { sig3 d a b with d := vrw d, rm := true, regext := 1, modeMask := 5 }
  | .pkF4 d a b => { sig3 d a b with d := vrw d, rm := true, regext := 1, modeMask := 4 }
  | .pkI8 d a b | .pkI4 d a b => { sig3 d a b with d := vrw d, regext := 1, modeMask := 2 }
  | .unpkF8 d a b => { sig3 d a b with regext := 1, modeMask := 1 }
  | .unpkF4 d a b => { sig3 d a b with regext := 1, modeMask := 0 }
  | .unpkI8 d a b | .unpkI4 d a b => { sig3 d a b with regext := 1, modeMask := 2 }
  | .dot8I4 d a b | .dot8N4 d a b | .dot8I4n4 d a b | .dot4I8 d a b | .dot4N8 d a b => { sig3 d a b with d := vrw d }
  | .dot4F8a d a b | .dot4F8b d a b | .dot2B16 d a b => { sig3 d a b with d := vrw d, rm := true }
  | .shfl d a b | .shflUp d a b | .shflDn d a b | .shflX d a b => { sig3 d a b with pipe := .v1 }
  | .rdlane d a _ => { pipe := .v1, d := kw d, a := vr a, ubOk := false }
  | .ballot d a => { pipe := .v1, d := vw d, a := prd a }
  | .perm d a _ => { sig2 d a with pipe := .v1, uaOk := false, ubOk := false }
  | .ptab _ a => { pipe := .v1, a := vr a, uaOk := false, ubOk := false }
  | .bredAdd d a | .bredMin d a | .bredMax d a | .bredFadd d a | .bredFmin d a | .bredFmax d a | .scanAdd d a
  | .scanFadd d a => { sig2 d a with pipe := .v1, ubOk := false }
  | .kadd d a b | .ksub d a b | .kmul d a b | .kand d a b | .kor d a b | .kxor d a b | .kshl d a b | .kshr d a b => sigK d a b
  | .kaddi d a _ | .kandi d a _ | .kori d a _ | .kcmpi d a _ => sigKI d a true
  | .kshli d a _ | .kshri d a _ => sigKI d a false
  | .kmovi d _ => { pipe := .k, d := kw d, imm := true }
  | .ldB t r _ pol | .ldH t r _ pol | .ldW t r _ pol | .ldsB t r _ pol | .ldsH t r _ pol => sigLd t r 1 pol
  | .ldD t r _ pol => sigLd t r 2 pol
  | .ldQ t r _ pol => sigLd t r 4 pol
  | .stB t r _ pol | .stH t r _ pol | .stW t r _ pol => sigSt t r 1 pol
  | .stD t r _ pol => sigSt t r 2 pol
  | .stQ t r _ pol => sigSt t r 4 pol
  | .ldSvW t r _ => { pipe := .m, d := vw t 1, a := vr r 2, imm := true, orders := [0, 1] }
  | .ldSvQ t r _ => { pipe := .m, d := vw t 4, a := vr r 2, imm := true, orders := [0, 1] }
  | .atomAdd d a b | .atomAnd d a b | .atomOr d a b | .atomXor d a b | .atomXchg d a b => sigAt d a b wa 2
  | .atomMin d a b | .atomMax d a b => sigAt d a b wa 3
  | .atomIncw d a b => sigAt d a b 1 0
  | .cas d a b => sigCas d a b x.e 1
  | .casD d a b => sigCas d a b x.e 2
  | .casQ d a b => sigCas d a b x.e 4
  | .redAdd a b => sigRed a b wa 2 1
  | .redFadd a b => sigRed a b 1 0 0
  | .atomFadd d a b => { sigAt d a b 1 0 with regext := 0 }
  | .redMin a b | .redMax a b => sigRed a b wa 3 1
  | .ldSp t r _ sz => sigSp t r (if sz == 3 then 2 else 1) false x.ua
  | .stSp t r _ sz => sigSp t r (if sz == 3 then 2 else 1) true x.ua
  | .ldSpQ t r _ => sigSp t r 4 false x.ua
  | .stSpQ t r _ => sigSp t r 4 true x.ua
  | .fence => { pipe := .m, orders := [0, 1, 2, 3] }
  | .fenceE | .fenceH | .fenceSw => { pipe := .m }
  | .cinv a | .cwb a => { pipe := .m, a := vr a 2 }
  | .prefetch _ a => { pipe := .m, a := vr a 2, caches := [0, 1, 2, 3] }
  | .leaseRenew d a => { pipe := .m, d := vw d, a := vr a 2 }
  | .cpG2s d a b | .cpS2g d a b | .cpG2g d a b | .cpGather d a b | .cpScatter d a b | .cpQueue d a b =>
    sigE (kw d) (vr a 8) (vr b 2)
  | .cpWait d a | .cpPoll d a => sigE (kw d) (kr a) {}
  | .binCount d a b | .binRead d a b => sigE (vw d) (vr a) (vr b)
  | .binPatch d a b => sigE (vr d) (vr a) (vr b)
  | .engRelease d => sigE (kw d) {} {}
  | .swpReg d a => sigE0 (kw d) (vr a 2) {}
  | .swpUnreg a => sigE0 {} (kr a) {}
  | .swpPos d a b => sigE0 (vw d) (vr a 2) (kr b)
  | .swpWait d a | .swpStat d a => sigE0 (kw d) (kr a) {}
  | .swpQueue d a b => sigE0 (kr d) (vr a 2) (vr b)
  | .bankTbl d a b | .bankBcast d a b | .bankRed d a b => sigE (vr d) (vr a 2) (vr b)
  | .bankLut d a | .bankClr d a => sigE (vr d) (vr a 2) {}
  | .bankSync d a b => sigE (kw d) (vr a 2) (vr b)
  | .waitEq d a b | .waitNe d a b | .waitGeu d a b | .waitMask d a b =>
    { sigX (pwr d) (vr a 2) (vr b) with orders := [0, 1] }
  | .yield => sigX {} {} {}
  | .sleep d a => sigX (pwr d) (vr a) {}
  | .wake a => sigX {} (vr a) {}
  | .barInit _ b => sigX {} {} (vr b)
  | .barArrive d _ | .barArriveT d _ => sigX (vw d) {} {}
  | .barWait _ b => sigX {} {} (vr b)
  | .barSync _ | .barSyncT _ => sigX {} {} {}
  | .barTest d _ b => sigX (pwr d) {} (vr b)
  | .br _ p _ _ => { sigX0 {} {} {} with imm := true, p := some p.toNat }
  | .call _ p _ _ => { sigX0 {} {} {} with imm := true, p := some p.toNat, d := vw 127 }
  | .jmpr a => sigX {} (vr a) {}
  | .callr a => sigX (vw 127) (vr a) {}
  | .ret => sigX0 (vr 127) {} {}
  | .brx a b => sigX {} (vr a) (vr b)
  | .exit => sigX0 {} {} {}
  | .exitNext _ a => sigX0 {} (kr a) {}
  | .spawn a b => sigX0 {} (kr a) (vr b 4)
  | .launch a b => sigX0 {} (kr a) (vr b 2)
  | .result _ a => sigX0 {} (kr a) {}
  | .region _ _ _ => { sigX0 {} {} {} with qual := false, regext := 1, modeMask := 255 }
  | .trap _ _ | .brk _ _ | .eret => sigX0 {} {} {}
  | .trapIf _ a => { sigX {} (vr a) {} with ubOk := false }
  | .halt a => { sigX {} (vr a) {} with ubOk := false }
  | .rdtime d | .rdclk d => sigX0 (vw d 2) {} {}
  | .trapinfo d _ => sigX0 (vw d 2) {} {}
  | .topen a => sigE0 {} (vr a 8) {}
  | .tclose d => sigE0 (kw d) {} {}
  | .trec d a n1 p => { sigE0 (vr d (n1.toNat + 1) 1) (kr a) {} with p := some p.toNat }
  | .tbr a p => { sigE0 { pwr p with rd := true } (kr a) {} with p := some p.toNat }
  | .trev => sigE0 {} {} {}
  | .tpop d a n1 p => { sigE0 (vw d (n1.toNat + 1) 1) (kr a) {} with p := some p.toNat }
  | .tmark a b => sigE0 {} (kr a) { kr b with wr := true }
  | .tstat d _ => sigE0 (vw d 2) {} {}
  | .tres d a => sigE (tf d) (vr a 2) {}
  | .trel a => sigE {} (tf a) {}
  | .tld d a | .tscale d a => sigE (tf d) (vr a) {}
  | .tinfo d a => sigE (vw d 2) (tf a) {}
  | .mload _ a b => sigE {} (tf a) (vr b)
  | .mma d a _ _ | .mmaPair d a _ _ => sigE (af d) (tf a) {}
  | .mmag d a _ _ | .mmagPair d a _ _ => { sigE (af d) (gf a) {} with regext := 1, modeMask := 1, e := originFld x }
  | .mzero d => sigE (af d) {} {}
  | .mgemm d a _ => sigE (kw d) (vr a) {}
  | .mwait a => sigE {} (af a) {}
  | .mbegin d | .mend d => sigE (af d) {} {}
  | .mdrain _ a b => sigE {} (af a) (vr b 8)
  | .mst a b => sigE {} (af a) (vr b 8)
  | .mact d a b => sigE (af d) (vr a) (vr b)
  | .mloadg _ a => { sigE {} (gf a) {} with regext := 1, modeMask := 1, e := originFld x }
  | .gset d a | .gseed d a => sigE (gf d) (vr a 2) {}
  | .gread d a b => sigE (vw d) (gf a) (vr b 2)
  | .gscope d a => sigE (gf d) (vr a) {}
  | _ => { pipe := .none }

/-! ### Illegal encodings that depend on the extension words or the band (R17 to R22, R25) -/

/-- Whether a field names something of its class: a register within the allocation (v127 apart), or, where the field's uniform
bit is set, a uniform register (R17, R21). DEDUCED: notes/assumptions/18.md. -/
def Fld.ok (f : Fld) (k : Kernel) (asK : Bool) : Bool :=
  match f.cls with
  | .v w al =>
    if asK then f.n % al == 0 && decide (f.n + w ≤ 64)
    else f.n % al == 0 && decide (f.n + w ≤ 128) && (List.range w).all fun i => decide (f.n + i < k.regs) || f.n + i == 127
  | .k w al => f.n % al == 0 && decide (f.n + w ≤ 64)
  | .a => decide (f.n < k.acc)
  | _ => true

/-- Whether a field is a vector register field. -/
def Fld.isV (f : Fld) : Bool :=
  match f.cls with
  | .v _ _ => true
  | _ => false

/-- The QUAL fields fit what the instruction accepts (R21). DEDUCED: notes/assumptions/20.md. The entries of `fence.h`, `fence.sw`, `cinv`,
`cwb`, `prefetch` and `lease.renew` do not list SCOPE among the fields that they accept (R112, R114), while R21 has SCOPE ignored by an
instruction whose entry gives it no scope: the model ignores it there (DEDUCED: notes/assumptions/100.md). -/
def Ext.qualOk (x : Ext) (g : Sig) : Bool :=
  !x.qual ||
  (g.qual && x.scope != 7 && decide (x.rm < 6) && (g.rm || x.rm == 0) && g.orders.contains x.order &&
    g.caches.contains x.cache && (!x.ua || (g.uaOk && g.a.isV)) && (!x.ub || (g.ubOk && g.b.isV)))

/-- The REGEXT word fits what the instruction accepts (R19, R22): E is zero where it names nothing, F is zero. -/
def Ext.regOk (x : Ext) (g : Sig) : Bool :=
  match x.reg with
  | none => g.regext != 2
  | some (e, f, mode) =>
    g.regext != 0 && f == 0 && (g.e.isV || e == 0) && (mode.toNat &&& (255 - g.modeMask)) == 0

/-- The limits that single entries set on their fields, under the allocation of the clump. -/
def entryOk (x : Ext) (k : Kernel) (thicket : Nat) (i : Instr) : Bool :=
  match i with
  | .movc _ a => decide (a.toNat < 0x15)
  | .wrc d _ => d == 0x12
  | .br _ _ _ slot | .call _ _ _ slot =>
    slot != 3 && !x.gen && !x.neg && x.p == 0 && x.order == 0 && !x.ua && !x.ub && x.cache == 0 && x.rm == 0
  | .exitNext d _ => decide (d.toNat ≤ 16) && decide (8 * d.toNat ≤ k.regs)
  | .barInit n _ | .barArrive _ n | .barWait n _ | .barSync n | .barTest _ n _ => decide (n.toNat < k.bar)
  | .barArriveT _ n | .barSyncT n => decide (n.toNat < k.bar) && thicket != 0
  | .trec d _ n1 _ | .tpop d _ n1 _ => decide (d.toNat + n1.toNat < k.regs)
  | .mdrain d _ _ => d.toNat % 8 == 0 && (d == 0 || decide (d.toNat + 8 ≤ k.regs))
  | .mload s _ _ | .mloadg s _ => decide (s.toNat < k.slots)
  | .mma _ _ _ s | .mmag _ _ _ s => decide (s.toNat < k.slots)
  | .mmaPair d _ _ s | .mmagPair d _ _ s => decide (s.toNat < k.slots) && d.toNat % 2 == 0 && decide (d.toNat + 1 < k.acc)
  | _ => true

/-- Whether an instruction under its extension fields is a legal encoding for a strand of the clump (R17 to R25). -/
def legal (x : Ext) (k : Kernel) (thicket : Nat) (i : Instr) : Bool :=
  let g := sigOf x i
  i.isWord && !i.isExt && i.wf && x.qualOk g && x.regOk g && (x.imm.isNone || g.imm) &&
    g.d.ok k false && g.a.ok k x.ua && g.b.ok k x.ub && g.e.ok k false && entryOk x k thicket i

/-- Whether the pipes of a chain can be assigned (R13). -/
def pipesOk (ps : List Pipe) : Bool :=
  let n (p : Pipe) := ps.countP (· == p)
  decide (n .m ≤ 1) && decide (n .c ≤ 1) && decide (n .e ≤ 1) && decide (n .k ≤ 1) && decide (n .v1 ≤ 1) &&
    decide (n .v + n .v1 ≤ 2)

/-! ### What a word touches (R15, R317) -/

/-- The registers that a field names: vector registers from 0, predicates from 128, uniform registers from 256. -/
def Fld.keys (f : Fld) (asK : Bool) : List Nat :=
  match f.cls with
  | .v w _ => (List.range w).map fun i => if asK then 256 + f.n + i else f.n + i
  | .k w _ => (List.range w).map fun i => 256 + f.n + i
  | .p => [128 + f.n]
  | _ => []

/-- Every register that a word reads or writes. -/
def touched (x : Ext) (i : Instr) : List Nat :=
  let g := sigOf x i
  g.d.keys false ++ g.a.keys x.ua ++ g.b.keys x.ub ++ g.e.keys false ++ (g.p.map (128 + ·)).toList ++
    (if x.gen then [128 + x.p] else [])

/-- The registers that a word writes. -/
def written (x : Ext) (i : Instr) : List Nat :=
  let g := sigOf x i
  let of (f : Fld) (asK : Bool) := if f.wr then f.keys asK else []
  of g.d false ++ of g.a x.ua ++ of g.b x.ub

/-- The vector registers that a word reads. -/
def vectorReads (x : Ext) (i : Instr) : List Nat :=
  let g := sigOf x i
  let of (f : Fld) (asK : Bool) := if f.rd && !asK && f.isV then f.keys false else []
  of g.d false ++ of g.a x.ua ++ of g.b x.ub ++ of g.e false

/-- What a pending engine result names (R15). -/
def EngOut.keys (e : EngOut) : List Nat := e.vregs ++ e.pregs.map (128 + ·) ++ e.kregs.map (256 + ·)

end Sys2Proof.Machine
end

