-- ==== Sys2Proof/Machine/Chain.lean ====
section
/-!
DEFINITION. Issuing a chain (R10 to R15, R18 to R25, R311, R314, R317): fetching its words, the checks on encoding grounds, the
waits at issue, the effects of its words, and where each strand goes next. The meaning of a word is the argument `ex`.
-/

namespace Sys2Proof.Machine

/-! ### Fetching -/

/-- The packet and slot of a program counter value (R10). -/
def pcPacket (pc : Word) : Nat := pc.toNat / 4
def pcSlot (pc : Word) : Nat := pc.toNat % 4

/-- The program counter value of a packet and slot. -/
def pcOf (packet slot : Nat) : Word := BitVec.ofNat 32 (4 * packet + slot)

/-- The byte offset of a word in its code segment. -/
def pcOffset (pc : Word) : Nat := 12 * pcPacket pc + 4 * pcSlot pc

/-- The first word after one at a slot. -/
def pcNext (pc : Word) : Word := if 2 ≤ pcSlot pc then pcOf (pcPacket pc + 1) 0 else pcOf (pcPacket pc) (pcSlot pc + 1)

/-- What fetching a word gives: the word, a fault, or a park. -/
inductive Fetched where
  | word (w : Word)
  | fault (t : Trap)
  | absent (va level pte base size : Nat)
  | wait (va : Nat)
  deriving DecidableEq, Repr

/-- Fetches the word at a program counter value of a clump's code segment (R10, R313, R331), and uses its translation. -/
def State.fetchWord (s : State) (c : Nat) (pc : Word) : Fetched × State :=
  let k := (s.clump c).kernel
  let ctx := (s.clump c).ctx
  let va := k.codeBase + pcOffset pc
  if k.codeLen < pcOffset pc + 4 then (.fault { cause := .fetch, addr := va % 2 ^ 56 }, s)
  else
    match s.translate ctx va 4 .fetch with
    | .ok pa e base size pin => (.word (BitVec.ofNat 32 (s.latestNat pa 4)), s.useLeaf ctx base size e pin)
    | .absent level pte base size => (.absent va level pte base size, s)
    | .migrating => (.wait va, s)
    | .bad _ => (.fault { cause := .fetch, addr := va % 2 ^ 56 }, s)

/-- Fetches the words of a chain: up to three, through the first with CH = 0, none beyond slot 2. The last two results are the
words so far with their program counter values, and what stopped the fetch, if anything did. -/
def State.fetchChain (s : State) (c : Nat) : Nat → Word → List (Word × Word) → (List (Word × Word) × Option Fetched) × State
  | 0, _, acc => ((acc, none), s)
  | n + 1, pc, acc =>
    match s.fetchWord c pc with
    | (.word w, s) =>
      if fCh w ∧ pcSlot pc < 2 then s.fetchChain c n (pcNext pc) (acc ++ [(pc, w)]) else ((acc ++ [(pc, w)], none), s)
    | (f, s) => ((acc, some f), s)

/-! ### The words of a chain -/

/-- A word of a chain with the extension fields that apply to it. -/
structure CWord where
  /-- Where the word starts, its extension words counted, and the word itself. -/
  start : Word
  pc : Word
  sw : Bool
  ext : Ext
  instr : Instr
  deriving DecidableEq, Repr

/-- Adds an extension word's fields (R20 to R22); `none` for a second one of its kind (R19). -/
def Ext.addWord (x : Ext) : Instr → Option Ext
  | .immext imm => if x.imm.isSome then none else some { x with imm := some imm }
  | .qual gen neg p scope order ub ua cache rm =>
    if x.qual then none
    else some { x with qual := true, gen := gen == 1, neg := neg == 1, p := p.toNat, scope := scope.toNat,
                       order := order.toNat, ub := ub == 1, ua := ua == 1, cache := cache.toNat, rm := rm.toNat }
  | .regext e f mode => if x.reg.isSome then none else some { x with reg := some (e, f, mode) }
  | _ => none

/-- Reads the words of a chain (R11, R19 to R25): `none` if an encoding is illegal. With `more`, they are the words before one that
cannot be fetched. -/
noncomputable def readChain (k : Kernel) (thicket : Nat) (more : Bool) : Ext → Option Word → List (Word × Word) → Option (List CWord)
  | _, _, [] => some []
  | x, start, (pc, w) :: rest =>
    match decode w with
    | .error _ => none
    | .ok d =>
      if d.ch ∧ pcSlot pc = 2 then none
      else if d.instr.isExt then
        match x.addWord d.instr with
        | some x' => if rest = [] && !more then none else readChain k thicket more x' (some (start.getD pc)) rest
        | none => none
      else if legal x k thicket d.instr then
        (readChain k thicket more {} none rest).map fun ws => ⟨start.getD pc, pc, d.sw, x, d.instr⟩ :: ws
      else none

/-- The descriptor of an engine word of the sheaf at hand makes its encoding illegal: field B of a copy without a completion address
(R141), field D of a drain that writes no registers (R221, R228). A descriptor that an engine still writes is looked at once the word
issues again (R15). DEDUCED: notes/assumptions/16.md. -/
def State.descIllegal (s : State) (w : CWord) : Bool :=
  let m := lowest s.sh.lanes
  let s := s.updSh fun h => { h with ext := w.ext }
  let still (uni : Bool) (r : Nat) : Bool := (s.bnd m).engOut.any fun e => e.keys.contains (if uni then 256 + r else r)
  let copy (a b : BitVec 7) : Bool := b != 0 && !still w.ext.ua (a.toNat + 7) && !(s.opAword m a 7).getLsbD 7
  match w.instr with
  | .cpG2s _ a b | .cpS2g _ a b | .cpG2g _ a b | .cpGather _ a b | .cpScatter _ a b | .cpQueue _ a b => copy a b
  | .mdrain d _ b => d != 0 && !still w.ext.ub b.toNat && ((s.opBword { m with lane := 0 } b 0) >>> 8) &&& 3 != 2
  | _ => false

/-- The word before a target in its packet is an extension word with CH = 1 (R24). -/
def isChainedExt (w : Word) : Bool := fOp w == 0x3F && fCh w

/-! ### Waits at issue -/

/-- Whether a word draws stochastic roundings (R42). -/
def CWord.draws (w : CWord) : Bool :=
  w.ext.rm == 5 ||
    (match w.instr with
     | .cvt _ _ _ rnd _ => rnd == 5
     | _ => false)

/-- Whether an operation that loads generator 0 of a clump is in flight (R15, R42). -/
def State.g0Busy (s : State) (c : Nat) : Bool :=
  s.ops.any fun o => o.clump == c &&
    (match o.kind with
     | .gset g _ => g == 0
     | _ => false)

/-- The registers that a chain touches (R15). -/
def chainTouched (ws : List CWord) : List Nat := ws.flatMap fun w => touched w.ext w.instr

/-- Whether a band waits at issue for an engine write to a register the chain touches. -/
def Band.interlocked (b : Band) (keys : List Nat) : Bool := b.engOut.any fun e => e.keys.any keys.contains

/-! ### Whole bands (R23, R267) -/

/-- Whether a word issues to the E pipe. -/
def CWord.isEngine (w : CWord) : Bool := (sigOf w.ext w.instr).pipe == .e

/-- The sheaf is every live strand of one band. -/
def State.wholeBand (s : State) : Bool :=
  match s.sh.lanes with
  | [] => false
  | m :: _ => s.sh.lanes.all (fun x => x.band == m.band) && (s.bnd m).live.all fun l => s.sh.lanes.contains ⟨m.band, l⟩

/-- The guard of an engine word is the same in every live strand. -/
def State.guardAgrees (s : State) (x : Ext) : Bool :=
  s.sh.lanes.all (fun m => x.guard (s.str m)) || s.sh.lanes.all fun m => !x.guard (s.str m)

/-! ### Poisoned registers (R317) -/

/-- Delivers poison to active strands whose band has a poisoned granule among the registers that the word reads. -/
def State.poisonedReads (s : State) (w : CWord) : State :=
  let rs := (vectorReads w.ext w.instr).map (· / 8)
  s.active.foldl (fun t m => if (s.bnd m).regPoison.any rs.contains then t.trap m { cause := .poison } else t) s

/-! ### Running a chain -/

/-- Where a strand goes after its chain: it takes its new program counter, and its age starts anew; the switch marker parks it while
results are outstanding, or while it waits for a load whose result is still to come (R11, R14, R262). -/
def State.goOn (s : State) (sw : Bool) (m : Lane) : State :=
  let h := s.sh
  let b := s.band h.clump m.band
  let pc := ((h.moved.find? fun x => x.1 == m).map (·.2)).getD h.next
  let n := s.slotCount (s.clump h.clump).coreNo b.quad
  s.updStrand h.clump m fun t =>
    { t with pc := if t.park.isSome then t.pc else pc, park := t.park.map fun p => { p with next := p.next.map fun _ => pc },
             since := n, passes := 0, marker := t.marker || (sw && (t.loads || !b.quiet m.lane)), fenced := false, got := none }

/-- What stopped a strand is a wait. -/
def Stop.waits : Stop → Bool
  | .hold _ => true
  | _ => false

/-- The strand issues the chain again: what it was granted at a slice port stays with it. -/
def Sheaf.comesBack (h : Sheaf) (m : Lane) : Bool := h.stopped.any fun x => x.1 == m && (x.2.waits || x.2 == .again)

/-- The end of a chain for a strand: what the next word reads lands, before what later slots write to its register, and a token that the
chain turned out not to need is lost (R101); then the strand goes on, unless a user trap, a breakpoint or a `halt` has its effect now that
the whole chain has taken effect (R11, R14, R269, R311). -/
def State.finishLane (s : State) (sw : Bool) (m : Lane) : State :=
  let h := s.sh
  if h.comesBack m then s
  else if h.isStopped m then s.dropGrants h.clump m
  else
    let c := h.clump
    let s := match h.links.find? fun x => x.1 == m with
      | some (_, i) => (s.dropGrants c m).updStrand c m fun t => t.land i
      | none => s.dropGrants c m
    let t := s.strand c m
    if t.life ≠ .live then s
    else
      match h.users.find? fun x => x.1 == m, t.park.isSome with
      -- a word of the chain has parked the strand; the trap comes once the word has performed
      | some (_, .trap x), true =>
        s.updStrand c m fun t => { t with trap := some x, redo := h.at_, park := t.park.map fun p => { p with next := some h.next } }
      | some (_, .land n rs ks), _ => (s.runAfter m (.land n rs ks)).goOn sw m
      | some (_, x), _ => s.runAfter m x
      | none, _ => s.goOn sw m

/-- Applies what stopped a strand once its chain's other strands have run. -/
def State.applyStops (s : State) (xs : List (Lane × Stop)) : State := xs.foldl (fun s x => s.applyStop x.1 x.2) s

/-- The register that the status of a parked word goes to, by its key. -/
def State.statusKey (s : State) : ParkOn → Option Nat
  | .wait mon => (s.coh.monitors.find? mon).map (128 + ·.d)
  | .sleep _ d => some (128 + d)
  | .copyWait _ d => some (256 + d)
  | .sweepWait _ _ _ d => some (256 + d)
  | _ => none

/-- The word at hand writes registers of a strand that an earlier word of the chain has parked: the parked word's status no longer changes
them (R15). -/
def State.overruleStatus (s : State) (m : Lane) (keys : List Nat) : State :=
  match (s.str m).park with
  | some p =>
    if p.next.isSome && p.word != s.sh.pc && (s.statusKey p.on).any keys.contains then s.updStr m fun t => { t with overruled := true }
    else s
  | none => s

/-- A later slot of a chain overrules what an earlier word of the chain is still to write to the registers it writes: an engine's result,
and the status of a word that has parked its strands (R15). -/
def State.overrule (s : State) (w : CWord) : State :=
  let keys := written w.ext w.instr
  let uniform := keys.filter (256 ≤ ·)
  let own := keys.filter (· < 256)
  let s := s.activeBands.foldl (fun t bm => t.updBand s.sh.clump bm.1 fun b =>
    b.overrule (uniform.map (fun k => (32, k)) ++ bm.2.flatMap fun m => own.map fun k => (m.lane, k))) s
  let s := s.active.foldl (fun t m => t.overruleStatus m own) s
  (s.sh.lanes.filter fun m => s.activeBands.any fun bm => bm.1 == m.band).foldl (fun t m => t.overruleStatus m uniform) s

/-- Runs words in slot order; what cannot be fetched after them faults last. -/
def runWords (ex : Instr → State → Out) : List CWord → State → Out
  | [], s => .next (match s.sh.cut with
    | some t => s.trapAll t
    | none => s)
  | w :: ws, s =>
    let at_ (h : Sheaf) : Sheaf := { h with ext := w.ext, pc := w.pc, start := w.start, names := touched w.ext w.instr }
    match ex w.instr (((s.updSh at_).overrule w).poisonedReads w) with
    | .next s => runWords ex ws s
    | .fault f => .fault f
    | .refused r => .refused r

/-- Tape traffic. -/
def Op.isTape (o : Op) : Bool :=
  match o.kind with
  | .tape _ _ => true
  | _ => false

/-- What a run that is thrown away leaves, once strand `m` has stopped in it: the faults and port requests posted, a tape chunk that is
being read back, the answer to an aborted translation that the strand has taken, and the divergence report of its band's tape (R251).
DEDUCED: notes/assumptions/63.md. -/
def State.keepPosts (s t : State) (m : Lane) : State :=
  let ops := t.ops.filter fun o => o.isTape && !s.ops.any fun x => x.id == o.id
  let asked := t.coh.waiting.filter fun x => !s.coh.waiting.contains x
  let s := { s with coh := { s.coh with faults := t.coh.faults
                                        waiting := s.coh.waiting ++ asked
                                        idle := s.coh.idle.filter fun k => !asked.any fun x => bucketKey x.slice x.ctx == k }
                    ops := s.ops ++ ops
                    locks := s.locks ++ t.locks.filter fun (l : Nat × RangeLock) => ops.any fun o => o.id == l.2.op
                    uid := t.uid }
  let u := t.bnd m
  s.updBand s.sh.clump m.band fun b =>
    { b.updStrand m.lane fun y => { y with aborted := (u.strand m.lane).aborted } with
      begun := u.begun
      tape := { b.tape with div := u.tape.div, expected := u.tape.expected, top := u.tape.top } }

/-- The strands of the sheaf that a run has stopped, and that were not stopped before it. -/
def State.newlyStopped (s t : State) : List Lane := s.sh.lanes.filter fun m => t.sh.isStopped m && !s.sh.isStopped m

/-- Adds what a run stopped for some strands to the chain as it was before the run. -/
def State.withStops (s t : State) (ms : List Lane) : State :=
  (ms.foldl (fun x m => x.keepPosts t m) s).updSh fun h =>
    { h with stopped := h.stopped ++ t.sh.stopped.filter fun x => ms.contains x.1 }

/-- The whole band waits at issue with those of its strands that wait: nothing of a chain that holds an engine word takes effect until
every strand can issue it (R11, R267). -/
def State.holdBand (s t : State) (ms : List Lane) : State :=
  let u := s.withStops t ms
  let all := u.sh.lanes.map fun m =>
    (m, ((u.sh.stopped.find? fun x => x.1 == m).map (·.2)).elim Stop.again fun x => if x.waits then x else .again)
  (u.updSh fun h => { h with stopped := all }).applyStops all

/-- Runs a chain. A chain of several words that stops for some strand runs again from the state before it with the lowest of
those strands left out, or all of them where none is left to run, so that no word of it takes effect for them (R11, R311). Where a
strand waits in a chain that holds an engine word, its whole band does.
DEDUCED: notes/assumptions/63.md. -/
def runChain (ex : Instr → State → Out) (ws : List CWord) : Nat → State → Out
  | 0, s => .next s
  | fuel + 1, s =>
    match runWords ex ws s with
    | .next t =>
      match if s.sh.solo then [] else s.newlyStopped t with
      | [] => .next (t.applyStops s.sh.stopped)
      | m :: ms =>
        if ws.any CWord.isEngine && t.sh.stopped.any fun x => x.2.waits then .next (s.holdBand t (m :: ms))
        else
          let left := s.sh.lanes.filter fun x => !s.sh.isStopped x
          runChain ex ws fuel (s.withStops t (if left.length ≤ ms.length + 1 then m :: ms else [m]))
    | .fault f => .fault f
    | .refused r => .refused r

/-- Ends the issue of a sheaf. -/
def State.finish (s : State) (sw : Bool) : State :=
  { s.sh.lanes.foldl (fun s m => s.finishLane sw m) s with sheaf := none }

/-- The sheaf takes a trap on encoding grounds, or a fetch fault: every strand of it. -/
def State.cancel (s : State) (t : Trap) : State := { s.trapAll t with sheaf := none }

/-- Parks every strand of the sheaf at its chain. -/
def State.parkSheaf (s : State) (on : ParkOn) : State := { s.holdAll on with sheaf := none }

/-- The pending band faults are delivered to the strands of their bands, which leave the sheaf (R314). -/
def State.takePending (s : State) : State :=
  s.sh.lanes.foldl (fun t m =>
    match (s.bnd m).pend with
    | some x =>
      let t := (t.deliver s.sh.clump m x s.sh.at_).dropGrants s.sh.clump m
      let t := t.updBand s.sh.clump m.band fun b => { b with pend := none }
      t.updSh fun h => { h with lanes := h.lanes.filter (· != m) }
    | none => t) s

/-- The strands of bands that wait at issue leave the sheaf, parked at the chain (R15). -/
def State.parkInterlocked (s : State) (ws : List CWord) : State :=
  let keys := chainTouched ws
  let g0 := ws.any CWord.draws && s.g0Busy s.sh.clump
  s.sh.lanes.foldl (fun t m =>
    if g0 || (s.bnd m).interlocked keys then
      let t := t.updStr m fun x => { x with park := some ⟨.interlock, s.sh.at_, none⟩ }
      t.updSh fun h => { h with lanes := h.lanes.filter (· != m) }
    else t) s

/-- The chain of a formed sheaf, once its words are known. DEDUCED: notes/assumptions/63.md. -/
def State.issueWords (s : State) (ex : Instr → State → Out) (ws : List CWord) : Out :=
  if ws.any s.descIllegal then .next (s.cancel { cause := .illegal })
  else if !pipesOk (ws.map fun w => (sigOf w.ext w.instr).pipe) then .next (s.cancel { cause := .pipeConflict })
  else if ws.any CWord.isEngine && !s.wholeBand then .next (s.cancel { cause := .partialBand })
  else
    let s := s.parkInterlocked ws
    if s.sh.lanes = [] then .next { s with sheaf := none }
    -- a guard is read once what an engine still writes to it has landed (R15)
    else if !(ws.filter CWord.isEngine).all fun w => s.guardAgrees w.ext then .next (s.cancel { cause := .partialBand })
    else
      match runChain ex ws (s.sh.lanes.length + 1) (s.updSh fun h => { h with solo := decide (ws.length ≤ 1) && h.cut.isNone }) with
      | .next t => .next (t.finish (ws.any (·.sw)))
      | .fault f => .fault f
      | .refused r => .refused r

/-- Issues the chain of the sheaf at hand (R11, R24, R25). A word that cannot be fetched faults after the words before it, whose causes
come first (R311). Where the word just before the target cannot be fetched, the spec does not
say whether the sheaf traps: the model takes the word for no extension word (DESIGN CHOICE, notes/assumptions/80.md). -/
noncomputable def State.issue (s : State) (ex : Instr → State → Out) : Out :=
  let s := s.takePending
  let h := s.sh
  if h.lanes = [] then .next { s with sheaf := none }
  else if pcSlot h.at_ = 3 then .next (s.cancel { cause := .illegal })
  else
    match s.fetchChain h.clump 3 h.at_ [] with
    | (([], some (.fault t)), s) => .next (s.cancel t)
    | ((_, some (.absent va level pte base size)), s) =>
      let k := s.clp
      let s := match h.lanes with
        | m :: _ => s.noteFault k.ctx k.die va level pte base size Kind.fetch.code (s.bnd m).slot h.quad k.core
        | [] => s
      .next (s.parkSheaf (.xlate va Kind.fetch.code))
    | ((_, some (.wait va)), s) => .next (s.parkSheaf (.migrating va))
    | ((raws, f), s) =>
      let cut := match f with
        | some (.fault t) => some t
        | _ => none
      let before := if pcSlot h.at_ = 0 then false
        else match s.fetchWord h.clump (pcOf (pcPacket h.at_) (pcSlot h.at_ - 1)) with
          | (.word w, _) => isChainedExt w
          | _ => false
      if before then .next (s.cancel { cause := .illegal })
      else
        match readChain s.clp.kernel s.clp.thicket cut.isSome {} none raws with
        | none => .next (s.cancel { cause := .illegal })
        | some ws =>
          let last := ((raws.getLast?).map (·.1)).getD h.at_
          (s.updSh fun h => { h with next := pcNext last, cut := cut }).issueWords ex ws

end Sys2Proof.Machine
end

