-- ==== Sys2Proof/Machine/Integer.lean ====
section
/-!
DEFINITION. Integer, logic, shift, bit, compare, predicate and address instructions, OP 0x00 to 0x0D (R165 to R184; `nop`,
R31). Every result is a short-latency result computed from the state before the instruction.
-/

namespace Sys2Proof.Machine

/-! ### Shapes -/

/-- `D := f(A, B)` per strand. -/
def State.alu3 (s : State) (d a b : BitVec 7) (f : Word → Word → Word) : State :=
  s.perLane fun m => [.v d.toNat (f (s.opA m a) (s.opB m b))]

/-- `D := f(A)` per strand. -/
def State.alu2 (s : State) (d a : BitVec 7) (f : Word → Word) : State := s.perLane fun m => [.v d.toNat (f (s.opA m a))]

/-- `D := f(A, imm)` per strand. -/
def State.aluI (s : State) (d a imm : BitVec 7) (f : Word → Word → Word) : State :=
  s.perLane fun m => [.v d.toNat (f (s.opA m a) (s.immI imm))]

/-- `D := f(D, A, B)` per strand. -/
def State.alu4 (s : State) (d a b : BitVec 7) (f : Word → Word → Word → Word) : State :=
  s.perLane fun m => [.v d.toNat (f (s.opD m d) (s.opA m a) (s.opB m b))]

/-- A predicate `f(A, B)` per strand. -/
def State.cmp3 (s : State) (d : BitVec 3) (a b : BitVec 7) (f : Word → Word → Bool) : State :=
  s.perLane fun m => [.p d.toNat (f (s.opA m a) (s.opB m b))]

/-- A predicate `f(A, imm)` per strand. -/
def State.cmpI (s : State) (d : BitVec 3) (a imm : BitVec 7) (f : Word → Word → Bool) : State :=
  s.perLane fun m => [.p d.toNat (f (s.opA m a) (s.immI imm))]

/-- A predicate from two predicates. -/
def State.pred3 (s : State) (d a b : BitVec 3) (f : Bool → Bool → Bool) : State :=
  s.perLane fun m => [.p d.toNat (f ((s.str m).pred a.toNat) ((s.str m).pred b.toNat))]

/-- A pair `f(A pair, B pair)` per strand. -/
def State.pair3 (s : State) (d a b : BitVec 7) (f : DWord64 → DWord64 → DWord64) : State :=
  s.perLane fun m => writePair d.toNat (f (s.opA64 m a) (s.opB64 m b))

/-- A pair `f(A pair, B)` per strand. -/
def State.pairW (s : State) (d a b : BitVec 7) (f : DWord64 → Word → DWord64) : State :=
  s.perLane fun m => writePair d.toNat (f (s.opA64 m a) (s.opB m b))

/-- A pair `f(A pair, n)` for an unsigned immediate amount (R178). -/
def State.pairI (s : State) (d a imm : BitVec 7) (f : DWord64 → Nat → DWord64) : State :=
  s.perLane fun m => writePair d.toNat (f (s.opA64 m a) imm.toNat)

/-! ### The operations -/

/-- Signed minimum and maximum. -/
def smin (a b : Word) : Word := if a.slt b then a else b
def smax (a b : Word) : Word := if a.slt b then b else a
/-- Unsigned minimum and maximum. -/
def umin (a b : Word) : Word := if a.ult b then a else b
def umax (a b : Word) : Word := if a.ult b then b else a

/-- The signed product, exact in 64 bits (R175). -/
def sprod (a b : Word) : DWord64 := a.signExtend 64 * b.signExtend 64
/-- The unsigned product, exact in 64 bits. -/
def uprod (a b : Word) : DWord64 := a.setWidth 64 * b.setWidth 64
/-- Bits [63:32]. -/
def high (x : DWord64) : Word := (x >>> 32).setWidth 32

/-- Signed quotient with the fixed results of R176. -/
def sdivR (a b : Word) : Word :=
  if b = 0 then 0xFFFFFFFF
  else if a = 0x80000000 ∧ b = 0xFFFFFFFF then 0x80000000
  else BitVec.ofInt 32 (a.toInt.tdiv b.toInt)

/-- Unsigned quotient. -/
def udivR (a b : Word) : Word := if b = 0 then 0xFFFFFFFF else BitVec.ofNat 32 (a.toNat / b.toNat)

/-- Signed remainder with the sign of A. -/
def sremR (a b : Word) : Word :=
  if b = 0 then a
  else if a = 0x80000000 ∧ b = 0xFFFFFFFF then 0
  else BitVec.ofInt 32 (a.toInt.tmod b.toInt)

/-- Shifts by an unsigned amount (R178); the whole width or more gives zero, or the sign in every bit. -/
def shlN {w : Nat} (x : BitVec w) (n : Nat) : BitVec w := if w ≤ n then 0 else x <<< n
def shrN {w : Nat} (x : BitVec w) (n : Nat) : BitVec w := if w ≤ n then 0 else x >>> n
def sraN {w : Nat} (x : BitVec w) (n : Nat) : BitVec w := x.sshiftRight (if w ≤ n then w - 1 else n)
/-- Rotates by an amount modulo 32. -/
def rotlN (x : Word) (n : Nat) : Word := x.rotateLeft (n % 32)
def rotrN (x : Word) (n : Nat) : Word := x.rotateRight (n % 32)

/-- Leading zeros among the low `k` bits, then trailing zeros from bit `32 - k`, and ones among the low `k` bits (R179). -/
def clzN (x : Word) : Nat → Nat
  | 0 => 0
  | k + 1 => if x.getLsbD k then 0 else 1 + clzN x k
def ctzN (x : Word) : Nat → Nat
  | 0 => 0
  | k + 1 => if x.getLsbD (31 - k) then 0 else 1 + ctzN x k
def popcN (x : Word) : Nat → Nat
  | 0 => 0
  | k + 1 => (if x.getLsbD k then 1 else 0) + popcN x k
/-- Bit i moved to bit 31 − i. -/
def brevN (x : Word) : Nat → Nat
  | 0 => 0
  | k + 1 => (if x.getLsbD k then 2 ^ (31 - k) else 0) + brevN x k

/-- The field's position, and its length within the word: 0 if it is empty (R179). -/
def fieldPos (b : Word) : Nat := b.toNat % 256
def fieldLen (b : Word) : Nat := Nat.min (fieldPos b + b.toNat / 256 % 256) 32 - fieldPos b

/-- The field, zero-extended. -/
def bfenR (a b : Word) : Word := BitVec.ofNat 32 (a.toNat / 2 ^ fieldPos b % 2 ^ fieldLen b)

/-- The field, sign-extended from its top bit. -/
def bfeR (a b : Word) : Word :=
  let n := fieldLen b
  let x := a.toNat / 2 ^ fieldPos b % 2 ^ n
  if n ≠ 0 ∧ 2 ^ (n - 1) ≤ x then BitVec.ofInt 32 ((x : Int) - 2 ^ n) else BitVec.ofNat 32 x

/-- D with the field replaced by the low bits of A. -/
def bfiR (d a b : Word) : Word :=
  let p := fieldPos b
  let n := fieldLen b
  if n = 0 then d
  else
    let mask := BitVec.ofNat 32 ((2 ^ n - 1) * 2 ^ p)
    (d &&& ~~~mask) ||| (shlN a p &&& mask)

/-- A sign-extended from bit B[4:0]. -/
def sextR (a b : Word) : Word :=
  let n := b.toNat % 32
  sraN (shlN a (31 - n)) (31 - n)

/-- A pair plus a scaled signed index (R183). -/
def leaR (k : Nat) (a : DWord64) (b : Word) : DWord64 := a + b.signExtend 64 * BitVec.ofNat 64 k

/-- The mask of the participants of a lane's band (R173). -/
def State.partMask (s : State) (m : Lane) : Word :=
  (s.active.filter fun x => x.band == m.band).foldl (fun a x => a ||| (1#32 <<< x.lane)) 0

/-- The participants of a lane's band (R167). -/
def State.parts (s : State) (m : Lane) : List Lane := s.active.filter fun x => x.band == m.band

/-! ### Control registers (R29, R170) -/

/-- The value of a control register for a strand: its low word, or the whole of a 64-bit register. -/
def State.creg (s : State) (m : Lane) (n : Nat) : DWord64 :=
  let c := s.clp
  let b := s.bnd m
  let t := s.str m
  let p := s.plantingOf s.sh.clump
  let w (x : Nat) : DWord64 := BitVec.ofNat 64 (x % 2 ^ 32)
  match n with
  | 0x00 => w m.lane
  | 0x01 => w b.slot
  | 0x02 => w m.band
  | 0x03 => w b.quad
  | 0x04 => w c.no
  | 0x05 => w c.core
  | 0x06 => w c.die
  | 0x07 => w s.ctl.chip
  | 0x08 => w p.id
  | 0x09 => w c.node
  | 0x0A => BitVec.ofNat 64 s.cycle
  | 0x0B => BitVec.ofNat 64 s.time
  | 0x0C => w b.tape.word
  | 0x0D => t.tinfo
  | 0x0E => BitVec.ofNat 64 (s.ctx c.ctx).budget
  | 0x0F => w c.ctx
  | 0x10 => w p.prio
  | 0x11 => b.liveMask.setWidth 64
  | 0x12 => t.epc.setWidth 64
  | 0x13 => w c.thicket
  | 0x14 => w c.kernel.regs
  | _ => 0

/-! ### The instructions -/
/-- R31: nothing changes; a switch marker on the word acts after the chain (R14). -/
def execNop  (s : State) : Out :=
  .next s

/-- R170. -/
def execMov (d a : BitVec 7) (s : State) : Out :=
  .next (s.alu2 d a id)

/-- R170: reads a control register. -/
def execMovc (d a : BitVec 7) (s : State) : Out :=
  .next (s.perLane fun m =>
    if cregWide a.toNat then writePair d.toNat (s.creg m a.toNat) else [.v d.toNat ((s.creg m a.toNat).setWidth 32)])

/-- R170: `%epc` (0x12) is the only register a strand writes, and the write is in force at its next instruction. -/
def execWrc (d a : BitVec 7) (s : State) : Out :=
  .next (if d == 0x12 then s.active.foldl (fun t m => t.updStr m fun x => { x with epc := s.opA m a }) s else s)

/-- R173. -/
def execElect (d : BitVec 3) (s : State) : Out :=
  .next (s.perLane fun m => [.p d.toNat (lowest (s.parts m) == m)])

/-- R173. -/
def execAmask (d : BitVec 7) (s : State) : Out :=
  .next (s.perLane fun m => [.v d.toNat (s.partMask m)])

/-- R174. -/
def execAdd (d a b : BitVec 7) (s : State) : Out :=
  .next (s.alu3 d a b ((· + ·)))

/-- R174. -/
def execSub (d a b : BitVec 7) (s : State) : Out :=
  .next (s.alu3 d a b ((· - ·)))

/-- R174. -/
def execAddc (d a b : BitVec 7) (s : State) : Out :=
  .next (s.alu3 d a b (fun x y => boolWord (carryOut x y)))

/-- R174. -/
def execSubb (d a b : BitVec 7) (s : State) : Out :=
  .next (s.alu3 d a b (fun x y => boolWord (borrowOut x y)))

/-- R174. -/
def execMin (d a b : BitVec 7) (s : State) : Out :=
  .next (s.alu3 d a b smin)

/-- R174. -/
def execMax (d a b : BitVec 7) (s : State) : Out :=
  .next (s.alu3 d a b smax)

/-- R174. -/
def execMinn (d a b : BitVec 7) (s : State) : Out :=
  .next (s.alu3 d a b umin)

/-- R174. -/
def execMaxn (d a b : BitVec 7) (s : State) : Out :=
  .next (s.alu3 d a b umax)

/-- R174. -/
def execAddi (d a imm : BitVec 7) (s : State) : Out :=
  .next (s.aluI d a imm (· + ·))

/-- R174. -/
def execRsubi (d a imm : BitVec 7) (s : State) : Out :=
  .next (s.aluI d a imm (fun x y => y - x))

/-- R174. -/
def execMini (d a imm : BitVec 7) (s : State) : Out :=
  .next (s.aluI d a imm smin)

/-- R174. -/
def execMaxi (d a imm : BitVec 7) (s : State) : Out :=
  .next (s.aluI d a imm smax)

/-- R174. -/
def execMinni (d a imm : BitVec 7) (s : State) : Out :=
  .next (s.aluI d a imm umin)

/-- R174. -/
def execMaxni (d a imm : BitVec 7) (s : State) : Out :=
  .next (s.aluI d a imm umax)

/-- R174. -/
def execAndi (d a imm : BitVec 7) (s : State) : Out :=
  .next (s.aluI d a imm (· &&& ·))

/-- R174. -/
def execOri (d a imm : BitVec 7) (s : State) : Out :=
  .next (s.aluI d a imm (· ||| ·))

/-- R175. -/
def execMulLo (d a b : BitVec 7) (s : State) : Out :=
  .next (s.alu3 d a b (· * ·))

/-- R175. -/
def execMulHi (d a b : BitVec 7) (s : State) : Out :=
  .next (s.alu3 d a b (fun x y => high (sprod x y)))

/-- R175. -/
def execMulHin (d a b : BitVec 7) (s : State) : Out :=
  .next (s.alu3 d a b (fun x y => high (uprod x y)))

/-- R175, R176. -/
def execDiv (d a b : BitVec 7) (s : State) : Out :=
  .next (s.alu3 d a b sdivR)

/-- R175, R176. -/
def execDivn (d a b : BitVec 7) (s : State) : Out :=
  .next (s.alu3 d a b udivR)

/-- R175, R176. -/
def execRem (d a b : BitVec 7) (s : State) : Out :=
  .next (s.alu3 d a b sremR)

/-- R175. -/
def execMadLo (d a b : BitVec 7) (s : State) : Out :=
  .next (s.alu4 d a b fun z x y => z + x * y)

/-- R175. -/
def execMadHi (d a b : BitVec 7) (s : State) : Out :=
  .next (s.alu4 d a b fun z x y => z + high (sprod x y))

/-- R177. -/
def execAnd (d a b : BitVec 7) (s : State) : Out :=
  .next (s.alu3 d a b (· &&& ·))

/-- R177. -/
def execOr (d a b : BitVec 7) (s : State) : Out :=
  .next (s.alu3 d a b (· ||| ·))

/-- R177. -/
def execXor (d a b : BitVec 7) (s : State) : Out :=
  .next (s.alu3 d a b (· ^^^ ·))

/-- R177. -/
def execAndn (d a b : BitVec 7) (s : State) : Out :=
  .next (s.alu3 d a b (fun x y => x &&& ~~~y))

/-- R177. -/
def execOrn (d a b : BitVec 7) (s : State) : Out :=
  .next (s.alu3 d a b (fun x y => x ||| ~~~y))

/-- R177. -/
def execXnor (d a b : BitVec 7) (s : State) : Out :=
  .next (s.alu3 d a b (fun x y => ~~~(x ^^^ y)))

/-- R177. -/
def execNot (d a : BitVec 7) (s : State) : Out :=
  .next (s.alu2 d a fun x => ~~~x)

/-- R178. -/
def execShl (d a b : BitVec 7) (s : State) : Out :=
  .next (s.alu3 d a b fun x y => shlN x y.toNat)

/-- R178. -/
def execShr (d a b : BitVec 7) (s : State) : Out :=
  .next (s.alu3 d a b fun x y => shrN x y.toNat)

/-- R178. -/
def execSra (d a b : BitVec 7) (s : State) : Out :=
  .next (s.alu3 d a b fun x y => sraN x y.toNat)

/-- R178. -/
def execRotl (d a b : BitVec 7) (s : State) : Out :=
  .next (s.alu3 d a b fun x y => rotlN x y.toNat)

/-- R178. -/
def execRotr (d a b : BitVec 7) (s : State) : Out :=
  .next (s.alu3 d a b fun x y => rotrN x y.toNat)

/-- R178. -/
def execShlD (d a b : BitVec 7) (s : State) : Out :=
  .next (s.pairW d a b fun x y => shlN x y.toNat)

/-- R178. -/
def execShrD (d a b : BitVec 7) (s : State) : Out :=
  .next (s.pairW d a b fun x y => shrN x y.toNat)

/-- R178. -/
def execSraD (d a b : BitVec 7) (s : State) : Out :=
  .next (s.pairW d a b fun x y => sraN x y.toNat)

/-- R178: the amount is IMM7, unsigned. -/
def execShlImm (d a imm : BitVec 7) (s : State) : Out :=
  .next (s.alu2 d a fun x => shlN x imm.toNat)

/-- R178: the amount is IMM7, unsigned. -/
def execShrImm (d a imm : BitVec 7) (s : State) : Out :=
  .next (s.alu2 d a fun x => shrN x imm.toNat)

/-- R178: the amount is IMM7, unsigned. -/
def execSraImm (d a imm : BitVec 7) (s : State) : Out :=
  .next (s.alu2 d a fun x => sraN x imm.toNat)

/-- R178: the amount is IMM7, unsigned. -/
def execRotlImm (d a imm : BitVec 7) (s : State) : Out :=
  .next (s.alu2 d a fun x => rotlN x imm.toNat)

/-- R178: the amount is IMM7, unsigned. -/
def execRotrImm (d a imm : BitVec 7) (s : State) : Out :=
  .next (s.alu2 d a fun x => rotrN x imm.toNat)

/-- R178. -/
def execShlDImm (d a imm : BitVec 7) (s : State) : Out :=
  .next (s.pairI d a imm shlN)

/-- R178. -/
def execShrDImm (d a imm : BitVec 7) (s : State) : Out :=
  .next (s.pairI d a imm shrN)

/-- R178. -/
def execSraDImm (d a imm : BitVec 7) (s : State) : Out :=
  .next (s.pairI d a imm sraN)

/-- R179. -/
def execClz (d a : BitVec 7) (s : State) : Out :=
  .next (s.alu2 d a fun x => BitVec.ofNat 32 (clzN x 32))

/-- R179. -/
def execCtz (d a : BitVec 7) (s : State) : Out :=
  .next (s.alu2 d a fun x => BitVec.ofNat 32 (ctzN x 32))

/-- R179. -/
def execPopc (d a : BitVec 7) (s : State) : Out :=
  .next (s.alu2 d a fun x => BitVec.ofNat 32 (popcN x 32))

/-- R179. -/
def execBrev (d a : BitVec 7) (s : State) : Out :=
  .next (s.alu2 d a fun x => BitVec.ofNat 32 (brevN x 32))

/-- R179. -/
def execBfe (d a b : BitVec 7) (s : State) : Out :=
  .next (s.alu3 d a b bfeR)

/-- R179. -/
def execBfen (d a b : BitVec 7) (s : State) : Out :=
  .next (s.alu3 d a b bfenR)

/-- R179. -/
def execSext (d a b : BitVec 7) (s : State) : Out :=
  .next (s.alu3 d a b sextR)

/-- R179. -/
def execBfi (d a b : BitVec 7) (s : State) : Out :=
  .next (s.alu4 d a b bfiR)

/-- R180. -/
def execCmpEq (d : BitVec 3) (a b : BitVec 7) (s : State) : Out :=
  .next (s.cmp3 d a b (ICmp.eval .eq))

/-- R180. -/
def execCmpNe (d : BitVec 3) (a b : BitVec 7) (s : State) : Out :=
  .next (s.cmp3 d a b (ICmp.eval .ne))

/-- R180. -/
def execCmpLt (d : BitVec 3) (a b : BitVec 7) (s : State) : Out :=
  .next (s.cmp3 d a b (ICmp.eval .lt))

/-- R180. -/
def execCmpLe (d : BitVec 3) (a b : BitVec 7) (s : State) : Out :=
  .next (s.cmp3 d a b (ICmp.eval .le))

/-- R180. -/
def execCmpLtn (d : BitVec 3) (a b : BitVec 7) (s : State) : Out :=
  .next (s.cmp3 d a b (ICmp.eval .ltn))

/-- R180. -/
def execCmpLen (d : BitVec 3) (a b : BitVec 7) (s : State) : Out :=
  .next (s.cmp3 d a b (ICmp.eval .len))

/-- R180. -/
def execTest (d : BitVec 3) (a b : BitVec 7) (s : State) : Out :=
  .next (s.cmp3 d a b (ICmp.eval .test))

/-- R180. -/
def execCmpEqImm (d : BitVec 3) (a imm : BitVec 7) (s : State) : Out :=
  .next (s.cmpI d a imm (ICmp.eval .eq))

/-- R180. -/
def execCmpNeImm (d : BitVec 3) (a imm : BitVec 7) (s : State) : Out :=
  .next (s.cmpI d a imm (ICmp.eval .ne))

/-- R180. -/
def execCmpLtImm (d : BitVec 3) (a imm : BitVec 7) (s : State) : Out :=
  .next (s.cmpI d a imm (ICmp.eval .lt))

/-- R180. -/
def execCmpLeImm (d : BitVec 3) (a imm : BitVec 7) (s : State) : Out :=
  .next (s.cmpI d a imm (ICmp.eval .le))

/-- R180. -/
def execCmpLtnImm (d : BitVec 3) (a imm : BitVec 7) (s : State) : Out :=
  .next (s.cmpI d a imm (ICmp.eval .ltn))

/-- R180. -/
def execCmpLenImm (d : BitVec 3) (a imm : BitVec 7) (s : State) : Out :=
  .next (s.cmpI d a imm (ICmp.eval .len))

/-- R180. -/
def execTestImm (d : BitVec 3) (a imm : BitVec 7) (s : State) : Out :=
  .next (s.cmpI d a imm (ICmp.eval .test))

/-- R181. -/
def execPand (d a b : BitVec 3) (s : State) : Out :=
  .next (s.pred3 d a b (· && ·))

/-- R181. -/
def execPor (d a b : BitVec 3) (s : State) : Out :=
  .next (s.pred3 d a b (· || ·))

/-- R181. -/
def execPxor (d a b : BitVec 3) (s : State) : Out :=
  .next (s.pred3 d a b (· != ·))

/-- R181. -/
def execPnot (d a : BitVec 3) (s : State) : Out :=
  .next (s.perLane fun m => [.p d.toNat !((s.str m).pred a.toNat)])

/-- R181. -/
def execPmov (d a : BitVec 3) (s : State) : Out :=
  .next (s.perLane fun m => [.p d.toNat ((s.str m).pred a.toNat)])

/-- R181. -/
def execVset (d : BitVec 7) (a : BitVec 3) (s : State) : Out :=
  .next (s.perLane fun m => [.v d.toNat (boolWord ((s.str m).pred a.toNat))])

/-- R181, over the participants of R167. -/
def execVoteAny (d a : BitVec 3) (s : State) : Out :=
  .next (s.perLane fun m => [.p d.toNat ((s.parts m).any fun x => (s.str x).pred a.toNat)])

/-- R181, over the participants of R167. -/
def execVoteAll (d a : BitVec 3) (s : State) : Out :=
  .next (s.perLane fun m => [.p d.toNat ((s.parts m).all fun x => (s.str x).pred a.toNat)])

/-- R182. -/
def execSel (d a b : BitVec 7) (p : BitVec 3) (s : State) : Out :=
  .next (s.perLane fun m => [.v d.toNat (if (s.str m).pred p.toNat then s.opA m a else s.opB m b)])

/-- R183. -/
def execAddD (d a b : BitVec 7) (s : State) : Out :=
  .next (s.pair3 d a b (· + ·))

/-- R183. -/
def execSubD (d a b : BitVec 7) (s : State) : Out :=
  .next (s.pair3 d a b (· - ·))

/-- R183. -/
def execLea1 (d a b : BitVec 7) (s : State) : Out :=
  .next (s.pairW d a b (leaR 1))

/-- R183. -/
def execLea2 (d a b : BitVec 7) (s : State) : Out :=
  .next (s.pairW d a b (leaR 2))

/-- R183. -/
def execLea4 (d a b : BitVec 7) (s : State) : Out :=
  .next (s.pairW d a b (leaR 4))

/-- R183. -/
def execLea8 (d a b : BitVec 7) (s : State) : Out :=
  .next (s.pairW d a b (leaR 8))

/-- R183. -/
def execLea16 (d a b : BitVec 7) (s : State) : Out :=
  .next (s.pairW d a b (leaR 16))

/-- R183. -/
def execMulWide (d a b : BitVec 7) (s : State) : Out :=
  .next (s.perLane fun m => writePair d.toNat (sprod (s.opA m a) (s.opB m b)))

/-- R184. -/
def execMovi (d : BitVec 7) (imm : BitVec 17) (s : State) : Out :=
  .next (s.perLane fun _ => [.v d.toNat (s.immL imm)])

end Sys2Proof.Machine
end

