-- ==== Sys2Proof/Machine/Float.lean ====
section
/-!
DEFINITION. F32, paired, compare, transcendental, conversion, packing and dot-product instructions, OP 0x0E to 0x15 (R185 to
R193), with stochastic rounding's draws (R42).
-/

namespace Sys2Proof.Machine
open Sys2Proof.Machine.Num (Fmt Val)

/-! ### Rounding for a strand -/

/-- The id of a generator scope for a strand (R235): 0 none, 1 planting, 2 clump, 3 band, 4 strand. -/
def State.scopeId (s : State) (c : Nat) (m : Lane) (scope : Nat) : Nat :=
  match scope with
  | 1 => (s.plantingOf c).id
  | 2 => (s.clump c).no
  | 3 => m.band
  | 4 => m.band * 32 + m.lane
  | _ => 0

/-- The 24-bit draw of stochastic rounding at a counter value (R42): g0's effective seed under the strand's own ids. -/
def State.draw (s : State) (m : Lane) (ctr : Word) : Nat :=
  let g := s.clp.gens.getD 0 {}
  let seed := Num.effSeed g.seed (s.scopeId s.sh.clump m g.scope)
  (Num.hash seed (BitVec.ofNat 32 (m.band * 32 + m.lane)) ctr).toNat / 256

/-- Rounds a value for a strand whose counter stands at `ctr`; sr moves the counter when it draws. -/
def State.roundAt (s : State) (m : Lane) (t : Fmt) (mode : Nat) (sat : Bool) (ctr : Word) (x : Val) : Nat × Word :=
  let r := Num.roundCore t mode (if mode = 5 then s.draw m ctr else 0) sat x
  (r.1, if mode = 5 ∧ r.2 then ctr + 1 else ctr)

/-- `D := round(f)` in F32 in the word's RM, per strand. -/
def State.f32op (s : State) (d : BitVec 7) (f : Lane → Val) : State :=
  s.perLaneSr fun m =>
    let r := s.roundAt m Num.f32 s.sh.ext.rm false (s.str m).ctr (f m)
    ([.v d.toNat (BitVec.ofNat 32 r.1)], r.2)

/-- F32 values of the operands of a strand. -/
def State.fA (s : State) (m : Lane) (a : BitVec 7) : Val := Num.ofF32 (s.opA m a)
def State.fB (s : State) (m : Lane) (b : BitVec 7) : Val := Num.ofF32 (s.opB m b)
def State.fD (s : State) (m : Lane) (d : BitVec 7) : Val := Num.ofF32 (s.opD m d)

/-- The two halves of a word. -/
def lowHalf (x : Word) : Nat := x.toNat % 2 ^ 16
def highHalf (x : Word) : Nat := x.toNat / 2 ^ 16

/-- A paired operation (R187): each half is computed on its own, [15:0] first. -/
def State.pairOp (s : State) (d : BitVec 7) (t : Fmt) (f : Lane → (Word → Nat) → Val) : State :=
  s.perLaneSr fun m =>
    let lo := s.roundAt m t s.sh.ext.rm false (s.str m).ctr (f m lowHalf)
    let hi := s.roundAt m t s.sh.ext.rm false lo.2 (f m highHalf)
    ([.v d.toNat (BitVec.ofNat 32 (lo.1 + hi.1 * 2 ^ 16))], hi.2)

/-- A paired minimum or maximum, which does not round. -/
def State.pairSel (s : State) (d a b : BitVec 7) (f : Nat → Nat → Nat) : State :=
  s.alu3 d a b fun x y => BitVec.ofNat 32 (f (lowHalf x) (lowHalf y) + f (highHalf x) (highHalf y) * 2 ^ 16)

/-- The mode of exact additions' zero results: that of the word (R44). -/
def State.rm (s : State) : Nat := s.sh.ext.rm

/-- A minus B if A is greater, +0 if it is not, NaN if either is (R185). -/
def fdiffVal (mode : Nat) (x y : Val) : Val :=
  if Num.isNan x || Num.isNan y then .nan
  else if Num.lt y x then Num.add mode x (Num.neg y) else .fin false 0 0

/-- A word's F32 value rounded to an integral value in a mode, with sr's draw; the sign of a zero stays (R185). -/
def frndVal (mode u : Nat) (x : Val) : Val × Bool :=
  match x with
  | .fin s n e =>
    let r := Num.roundInt mode u s n e
    (.fin s r.1.natAbs 0, r.2)
  | x => (x, false)

/-! ### Conversions (R28, R190, R191) -/

/-- The floating-point format of a code of R28, if it is one. -/
def fmtOf (code : Nat) : Option Fmt :=
  match code with
  | 0 => some Num.f32
  | 1 => some Num.f16
  | 2 => some Num.b16
  | 5 => some Num.f8a
  | 6 => some Num.f8b
  | 8 => some Num.f4
  | _ => none

/-- The range of an integer format of R28: its least and greatest values, and its width. -/
def intRange (code : Nat) : Int × Int × Nat :=
  match code with
  | 3 => (-(2 ^ 31), 2 ^ 31 - 1, 32)
  | 4 => (0, 2 ^ 32 - 1, 32)
  | 7 => (-(2 ^ 63), 2 ^ 63 - 1, 64)
  | 9 => (-128, 127, 8)
  | 10 => (0, 255, 8)
  | 11 => (-(2 ^ 15), 2 ^ 15 - 1, 16)
  | 12 => (0, 2 ^ 16 - 1, 16)
  | _ => (0, 2 ^ 64 - 1, 64)

/-- A value converted to an integer format (R41, R191): rounded, then saturated; NaN gives the greatest value. The second
result says that sr drew. -/
def toIntFmt (code mode u : Nat) (x : Val) : Int × Bool :=
  let r := intRange code
  match x with
  | .nan => (r.2.1, false)
  | .inf s => (if s then r.1 else r.2.1, false)
  | .fin s n e =>
    let y := Num.roundInt mode u s n e
    (Num.clamp r.1 r.2.1 y.1, y.2 || Num.clamp r.1 r.2.1 y.1 != y.1)

/-- The bits of an integer in a width. -/
def intBits (w : Nat) (x : Int) : Nat := (x % (2 ^ w : Int)).toNat

/-- The integer value of a source code: I32, N32 or I64. -/
def intSource (code : Nat) (x : DWord64) : Int :=
  match code with
  | 3 => (x.setWidth 32).toInt
  | 4 => ((x.setWidth 32).toNat : Int)
  | _ => x.toInt

/-- The result bits of `cvt` and whether sr drew. -/
def cvtBits (src dst mode u : Nat) (x : DWord64) : Nat × Bool :=
  match fmtOf src, fmtOf dst with
  | some f, some t =>
    if src = dst then
      let bits := x.toNat % 2 ^ f.width
      (if Num.isNan (Num.decode f bits) then f.nan else bits, false)
    else Num.round t mode u (Num.decode f (x.toNat % 2 ^ f.width))
  | some f, none =>
    let r := toIntFmt dst (if mode = 6 then 0 else if mode = 7 then 1 else mode) u (Num.decode f (x.toNat % 2 ^ f.width))
    (intBits (intRange dst).2.2 r.1, r.2)
  | none, some t => Num.round t mode u (Num.ofInt (intSource src x))
  | none, none =>
    let v := intSource src x
    let r := intRange dst
    (intBits r.2.2 (if mode = 6 ∨ mode = 7 then Num.clamp r.1 r.2.1 v else v), false)

/-! ### Packed elements (R39, R192, R193) -/

/-- Element `n` of width `w` of a word. -/
def elemN (x : Word) (w n : Nat) : Nat := x.toNat / 2 ^ (w * n) % 2 ^ w
/-- The same, signed. -/
def elemI (x : Word) (w n : Nat) : Int :=
  let v := elemN x w n
  if 2 ^ (w - 1) ≤ v then (v : Int) - 2 ^ w else v

/-- Packing shifts D down by two elements and fills the top two (R192). -/
def packInto (w : Nat) (d : Word) (x y : Nat) : Word :=
  (d >>> (2 * w)) ||| BitVec.ofNat 32 (x * 2 ^ (32 - 2 * w)) ||| BitVec.ofNat 32 (y * 2 ^ (32 - w))

/-- Packing two F32 values in a format. -/
def State.packF (s : State) (d a b : BitVec 7) (t : Fmt) : State :=
  let sat := s.sh.ext.mode.getLsbD 2
  s.perLaneSr fun m =>
    let x := s.roundAt m t s.sh.ext.rm sat (s.str m).ctr (s.fA m a)
    let y := s.roundAt m t s.sh.ext.rm sat x.2 (s.fB m b)
    ([.v d.toNat (packInto t.width (s.opD m d) x.1 y.1)], y.2)

/-- Packing two I32 values, saturated to `w` bits, unsigned with U. -/
def State.packI (s : State) (d a b : BitVec 7) (w : Nat) : State :=
  let u := s.sh.ext.mode.getLsbD 1
  let c (x : Word) : Nat :=
    if u then intBits w (Num.clamp 0 (2 ^ w - 1) x.toInt)
    else intBits w (Num.clamp (-(2 ^ (w - 1))) (2 ^ (w - 1) - 1) x.toInt)
  s.alu4 d a b fun z x y => packInto w z (c x) (c y)

/-- Widening one element to F32, exactly. -/
def widenF (t : Fmt) (x : Nat) : Word := Num.rneF32 (Num.decode t x)

/-- Widening one integer element. -/
def State.unpackI (s : State) (d a b : BitVec 7) (w : Nat) : State :=
  let u := s.sh.ext.mode.getLsbD 1
  s.alu3 d a b fun x y =>
    let n := y.toNat % (32 / w)
    if u then BitVec.ofNat 32 (elemN x w n) else BitVec.ofInt 32 (elemI x w n)

/-- The sum over elements 0 to `n − 1` of a term. -/
def sumTo (f : Nat → Int) : Nat → Int
  | 0 => 0
  | n + 1 => sumTo f n + f n

/-- An integer dot product (R46): the exact sum with D, modulo 2^32. -/
def State.dotI (s : State) (d a b : BitVec 7) (n : Nat) (f : Word → Word → Nat → Int) : State :=
  s.alu4 d a b fun z x y => BitVec.ofInt 32 (z.toInt + sumTo (f x y) n)

/-- The exact sum of products of packed elements and an accumulator. -/
def dotVal (mode : Nat) (t : Fmt) (acc : Val) (x y : Word) : Nat → Val
  | 0 => acc
  | n + 1 => Num.add mode (dotVal mode t acc x y n)
      (Num.mul (Num.decode t (elemN x t.width n)) (Num.decode t (elemN y t.width n)))

/-- A floating-point dot product (R46): the exact sum with D, rounded once. -/
def State.dotF (s : State) (d a b : BitVec 7) (t : Fmt) : State :=
  s.f32op d fun m => dotVal s.rm t (s.fD m d) (s.opA m a) (s.opB m b) (32 / t.width)

/-! ### The instructions -/
/-- R185. -/
def execFadd (d a b : BitVec 7) (s : State) : Out :=
  .next (s.f32op d fun m => Num.add s.rm (s.fA m a) (s.fB m b))

/-- R185. -/
def execFsub (d a b : BitVec 7) (s : State) : Out :=
  .next (s.f32op d fun m => Num.add s.rm (s.fA m a) (Num.neg (s.fB m b)))

/-- R185. -/
def execFmul (d a b : BitVec 7) (s : State) : Out :=
  .next (s.f32op d fun m => Num.mul (s.fA m a) (s.fB m b))

/-- R185. -/
def execFmin (d a b : BitVec 7) (s : State) : Out :=
  .next (s.alu3 d a b fun x y => BitVec.ofNat 32 (Num.fmin Num.f32 x.toNat y.toNat))

/-- R185. -/
def execFmax (d a b : BitVec 7) (s : State) : Out :=
  .next (s.alu3 d a b fun x y => BitVec.ofNat 32 (Num.fmax Num.f32 x.toNat y.toNat))

/-- R185. -/
def execFdiff (d a b : BitVec 7) (s : State) : Out :=
  .next (s.f32op d fun m => fdiffVal s.rm (s.fA m a) (s.fB m b))

/-- R185. -/
def execFcopysign (d a b : BitVec 7) (s : State) : Out :=
  .next (s.alu3 d a b fun x y =>
    if Num.isNan (Num.ofF32 x) then BitVec.ofNat 32 Num.f32.nan else (x &&& 0x7FFFFFFF) ||| (y &&& 0x80000000))

/-- R185. -/
def execFrnd (d a : BitVec 7) (s : State) : Out :=
  .next (s.perLaneSr fun m =>
    let t := s.str m
    let r := frndVal s.rm (if s.rm = 5 then s.draw m t.ctr else 0) (s.fA m a)
    ([.v d.toNat (Num.rneF32 r.1)], if s.rm = 5 ∧ r.2 then t.ctr + 1 else t.ctr))

/-- R186. -/
def execFma (d a b : BitVec 7) (s : State) : Out :=
  .next (s.f32op d fun m => Num.add s.rm (Num.mul (s.fA m a) (s.fB m b)) (s.fD m d))

/-- R186. -/
def execFms (d a b : BitVec 7) (s : State) : Out :=
  .next (s.f32op d fun m => Num.add s.rm (Num.mul (s.fA m a) (s.fB m b)) (Num.neg (s.fD m d)))

/-- R186. -/
def execFnma (d a b : BitVec 7) (s : State) : Out :=
  .next (s.f32op d fun m => Num.add s.rm (Num.neg (Num.mul (s.fA m a) (s.fB m b))) (s.fD m d))

/-- R186. -/
def execFnms (d a b : BitVec 7) (s : State) : Out :=
  .next (s.f32op d fun m => Num.add s.rm (Num.neg (Num.mul (s.fA m a) (s.fB m b))) (Num.neg (s.fD m d)))

/-- R187. -/
def execFaddH2 (d a b : BitVec 7) (s : State) : Out :=
  .next (s.pairOp d Num.f16 fun m h => Num.add s.rm (Num.decode Num.f16 (h (s.opA m a))) (Num.decode Num.f16 (h (s.opB m b))))

/-- R187. -/
def execFmulH2 (d a b : BitVec 7) (s : State) : Out :=
  .next (s.pairOp d Num.f16 fun m h => Num.mul (Num.decode Num.f16 (h (s.opA m a))) (Num.decode Num.f16 (h (s.opB m b))))

/-- R187. -/
def execFmaH2 (d a b : BitVec 7) (s : State) : Out :=
  .next (s.pairOp d Num.f16 fun m h => Num.add s.rm (Num.mul (Num.decode Num.f16 (h (s.opA m a))) (Num.decode Num.f16 (h (s.opB m b)))) (Num.decode Num.f16 (h (s.opD m d))))

/-- R187. -/
def execFaddB2 (d a b : BitVec 7) (s : State) : Out :=
  .next (s.pairOp d Num.b16 fun m h => Num.add s.rm (Num.decode Num.b16 (h (s.opA m a))) (Num.decode Num.b16 (h (s.opB m b))))

/-- R187. -/
def execFmulB2 (d a b : BitVec 7) (s : State) : Out :=
  .next (s.pairOp d Num.b16 fun m h => Num.mul (Num.decode Num.b16 (h (s.opA m a))) (Num.decode Num.b16 (h (s.opB m b))))

/-- R187. -/
def execFmaB2 (d a b : BitVec 7) (s : State) : Out :=
  .next (s.pairOp d Num.b16 fun m h => Num.add s.rm (Num.mul (Num.decode Num.b16 (h (s.opA m a))) (Num.decode Num.b16 (h (s.opB m b)))) (Num.decode Num.b16 (h (s.opD m d))))

/-- R187. -/
def execFminH2 (d a b : BitVec 7) (s : State) : Out :=
  .next (s.pairSel d a b (Num.fmin Num.f16))

/-- R187. -/
def execFmaxH2 (d a b : BitVec 7) (s : State) : Out :=
  .next (s.pairSel d a b (Num.fmax Num.f16))

/-- R188. -/
def execFcmpEq (d : BitVec 3) (a b : BitVec 7) (s : State) : Out :=
  .next (s.cmp3 d a b (FCmp.eval .eq))

/-- R188. -/
def execFcmpNe (d : BitVec 3) (a b : BitVec 7) (s : State) : Out :=
  .next (s.cmp3 d a b (FCmp.eval .ne))

/-- R188. -/
def execFcmpLt (d : BitVec 3) (a b : BitVec 7) (s : State) : Out :=
  .next (s.cmp3 d a b (FCmp.eval .lt))

/-- R188. -/
def execFcmpLe (d : BitVec 3) (a b : BitVec 7) (s : State) : Out :=
  .next (s.cmp3 d a b (FCmp.eval .le))

/-- R188. -/
def execFcmpUn (d : BitVec 3) (a b : BitVec 7) (s : State) : Out :=
  .next (s.cmp3 d a b (FCmp.eval .un))

/-- R188. -/
def execFclass (d : BitVec 3) (a b : BitVec 7) (s : State) : Out :=
  .next (s.cmp3 d a b classIn)

/-- R189, R45. -/
def execRcp (d a : BitVec 7) (s : State) : Out :=
  .next (s.alu2 d a (Num.Fun.eval .rcp))

/-- R189, R45. -/
def execRsqrt (d a : BitVec 7) (s : State) : Out :=
  .next (s.alu2 d a (Num.Fun.eval .rsqrt))

/-- R189, R45. -/
def execSqrt (d a : BitVec 7) (s : State) : Out :=
  .next (s.alu2 d a (Num.Fun.eval .sqrt))

/-- R189, R45. -/
def execExp2 (d a : BitVec 7) (s : State) : Out :=
  .next (s.alu2 d a (Num.Fun.eval .exp2))

/-- R189, R45. -/
def execLog2 (d a : BitVec 7) (s : State) : Out :=
  .next (s.alu2 d a (Num.Fun.eval .log2))

/-- R189, R45. -/
def execSinpi (d a : BitVec 7) (s : State) : Out :=
  .next (s.alu2 d a (Num.Fun.eval .sinpi))

/-- R189, R45. -/
def execCospi (d a : BitVec 7) (s : State) : Out :=
  .next (s.alu2 d a (Num.Fun.eval .cospi))

/-- R189, R45. -/
def execTanh (d a : BitVec 7) (s : State) : Out :=
  .next (s.alu2 d a (Num.Fun.eval .tanh))

/-- R190, R191. -/
def execCvt (d a : BitVec 7) (dst : BitVec 4) (rnd src : BitVec 3) (s : State) : Out :=
  .next (s.perLaneSr fun m =>
    let t := s.str m
    let x := if src == 7 then s.opA64 m a else (s.opA m a).setWidth 64
    let r := cvtBits src.toNat dst.toNat rnd.toNat (if rnd == 5 then s.draw m t.ctr else 0) x
    (if dst == 7 || dst == 13 then writePair d.toNat (BitVec.ofNat 64 r.1) else [.v d.toNat (BitVec.ofNat 32 r.1)],
      if rnd == 5 ∧ r.2 then t.ctr + 1 else t.ctr))

/-- R192. -/
def execPkF8 (d a b : BitVec 7) (s : State) : Out :=
  .next (s.packF d a b (if s.sh.ext.mode.getLsbD 0 then Num.f8b else Num.f8a))

/-- R192. -/
def execPkF4 (d a b : BitVec 7) (s : State) : Out :=
  .next (s.packF d a b Num.f4)

/-- R192. -/
def execPkI8 (d a b : BitVec 7) (s : State) : Out :=
  .next (s.packI d a b 8)

/-- R192. -/
def execPkI4 (d a b : BitVec 7) (s : State) : Out :=
  .next (s.packI d a b 4)

/-- R192. -/
def execUnpkF8 (d a b : BitVec 7) (s : State) : Out :=
  let t := if s.sh.ext.mode.getLsbD 0 then Num.f8b else Num.f8a
  .next (s.alu3 d a b fun x y => widenF t (elemN x 8 (y.toNat % 4)))

/-- R192. -/
def execUnpkF4 (d a b : BitVec 7) (s : State) : Out :=
  .next (s.alu3 d a b fun x y => widenF Num.f4 (elemN x 4 (y.toNat % 8)))

/-- R192. -/
def execUnpkI8 (d a b : BitVec 7) (s : State) : Out :=
  .next (s.unpackI d a b 8)

/-- R192. -/
def execUnpkI4 (d a b : BitVec 7) (s : State) : Out :=
  .next (s.unpackI d a b 4)

/-- R193, R46. -/
def execDot8I4 (d a b : BitVec 7) (s : State) : Out :=
  .next (s.dotI d a b 8 fun x y n => (elemI x 4 n : Int) * elemI y 4 n)

/-- R193, R46. -/
def execDot8N4 (d a b : BitVec 7) (s : State) : Out :=
  .next (s.dotI d a b 8 fun x y n => (elemN x 4 n : Int) * elemN y 4 n)

/-- R193, R46. -/
def execDot8I4n4 (d a b : BitVec 7) (s : State) : Out :=
  .next (s.dotI d a b 8 fun x y n => (elemI x 4 n : Int) * elemN y 4 n)

/-- R193, R46. -/
def execDot4I8 (d a b : BitVec 7) (s : State) : Out :=
  .next (s.dotI d a b 4 fun x y n => (elemI x 8 n : Int) * elemI y 8 n)

/-- R193, R46. -/
def execDot4N8 (d a b : BitVec 7) (s : State) : Out :=
  .next (s.dotI d a b 4 fun x y n => (elemN x 8 n : Int) * elemN y 8 n)

/-- R193, R46. -/
def execDot4F8a (d a b : BitVec 7) (s : State) : Out :=
  .next (s.dotF d a b Num.f8a)

/-- R193, R46. -/
def execDot4F8b (d a b : BitVec 7) (s : State) : Out :=
  .next (s.dotF d a b Num.f8b)

/-- R193, R46. -/
def execDot2B16 (d a b : BitVec 7) (s : State) : Out :=
  .next (s.dotF d a b Num.b16)

end Sys2Proof.Machine
end

