-- ==== Sys2Proof/Machine/Window.lean ====
section
/-!
DEFINITION. Reduction windows (R359 to R364): contributions merged in the switches and the end of a generation.
-/

namespace Sys2Proof.Machine

/-! ### Elements by a format code (R28, R58): floating-point, or integers of a width -/

/-- Bits of an element format: the codes of R28, and 14 for I4, 15 for N4 (R58). -/
def elemWidth (code : Nat) : Nat :=
  match fmtOf code with
  | some t => t.width
  | none => if code = 14 ∨ code = 15 then 4 else (intRange code).2.2

/-- Whether an integer element format is signed. -/
def elemSigned (code : Nat) : Bool := code == 3 || code == 7 || code == 9 || code == 11 || code == 14

/-- The integer that `w` bits hold. -/
def bitsInt (signed : Bool) (w x : Nat) : Int := if signed ∧ 2 ^ (w - 1) ≤ x then (x : Int) - 2 ^ w else x

/-- The value of an element. -/
def elemVal (code x : Nat) : Num.Val :=
  match fmtOf code with
  | some t => Num.decode t x
  | none => Num.ofInt (bitsInt (elemSigned code) (elemWidth code) x)

/-- Element `n` of a format in a number of many bytes (R39). -/
def elemAt (code x n : Nat) : Nat := x / 2 ^ (elemWidth code * n) % 2 ^ elemWidth code

/-! ### Windows -/

/-- KIND, FMT and RANKS of a window's WCFG. -/
def Window.kind (w : Window) : Nat := w.cfg % 4
def Window.fmt (w : Window) : Nat := w.cfg / 2 ^ 4 % 16
def Window.ranks (w : Window) : Nat := w.cfg / 2 ^ 16 % 2 ^ 10
/-- Whether a window takes contributions: enabled, and registered with the switches (R359). -/
def Window.on (w : Window) : Bool := Nat.testBit w.cfg 31 && !w.pending

/-- The enabled window that a physical address lies in. -/
def State.windowAt (s : State) (pa : Nat) : Option (Nat × Window) :=
  List.find? (fun x => x.2.on && decide (x.2.base ≤ pa) && decide (pa < x.2.base + x.2.len)) s.ctl.windows

/-- Sets a window. -/
def State.setWindow (s : State) (w : Nat) (x : Window) : State := { s with ctl := { s.ctl with windows := s.ctl.windows.insert w x } }

/-- Bytes of a location: a word, or a 64-byte block. -/
def Window.step (w : Window) : Nat := if w.kind = 2 then 64 else 4
/-- Locations of a window. -/
def Window.locations (w : Window) : Nat := w.len / w.step

/-- The F32 sum of words in arrival order (R361). -/
def sumWords : List (List Byte) → Word
  | [] => 0
  | b :: bs => bs.foldl (fun a x => Num.addRne a (BitVec.ofNat 32 (leNat x))) (BitVec.ofNat 32 (leNat b))

/-- `emaxT − W − 5` for a block-scaled format (R362). -/
def blockShift (code : Nat) : Int :=
  match code with
  | 5 => 8 - 8 - 5
  | 6 => 15 - 8 - 5
  | 8 => 2 - 4 - 5
  | 9 => 6 - 7 - 5
  | _ => 2 - 3 - 5

/-- The scale byte of a block. -/
def blockScale (code : Nat) (b : List Byte) : Nat := leNat b / 2 ^ (32 * elemWidth code) % 256

/-- Whether a rank's block holds a NaN or an infinity, or the scale 0xFF. -/
def blockBad (code : Nat) (b : List Byte) : Bool :=
  blockScale code b == 0xFF || (List.range 32).any fun n =>
    match elemVal code (elemAt code (leNat b) n) with
    | .fin _ _ _ => false
    | _ => true

/-- The scale of phase 1. -/
def blocksScale (code : Nat) (bs : List (List Byte)) : Nat :=
  if bs.any (blockBad code) then 0xFF else bs.foldl (fun a b => Nat.max a (blockScale code b)) 0

/-- A rank's q of element `n` (R362). -/
def blockQ (code e n : Nat) (b : List Byte) : Int :=
  if e = 0xFF then 0
  else
    match elemVal code (elemAt code (leNat b) n) with
    | .fin s m x => (Num.roundInt 0 0 s m (x + (blockScale code b : Int) - e - blockShift code)).1
    | _ => 0

/-- Writes what the switches deliver for a location that has its contributions. -/
def State.windowWrite (s : State) (w : Window) (loc : Nat) (bs : List (List Byte)) : State :=
  if w.kind = 2 then
    let e := blocksScale w.fmt bs
    let sums := (List.range 32).flatMap fun n => leBytes 4 (intBits 32 (bs.foldl (fun a b => a + blockQ w.fmt e n b) 0))
    let s := (s.agentWrite 0 (w.res + 256 * loc) sums).2
    s.agentPut 0 (w.res + 256 * loc + 128) 1 e
  else s.agentPut 0 (w.base + 4 * loc) 4 (sumWords bs).toNat

/-- Merges a location once it has RANKS contributions, unless it has had its sum in this generation (R363). -/
def State.windowMerge (s : State) (n loc : Nat) : State :=
  let w := s.ctl.windows.getD n {}
  let bs := w.parts.getD loc []
  if w.full.contains loc ∨ bs.length < w.ranks then s
  else
    (s.windowWrite w loc (bs.take w.ranks)).setWindow n
      { w with parts := w.parts.put loc [] (bs.drop w.ranks), full := w.full ++ [loc] }

/-- One contribution to a location (R361 to R363). -/
def State.contribute (s : State) (n loc : Nat) (b : List Byte) : State :=
  let w := s.ctl.windows.getD n {}
  (s.setWindow n { w with parts := w.parts.put loc [] (w.parts.getD loc [] ++ [b]) }).windowMerge n loc

/-- The end of a generation: DONE is written with the count of generations, and the counts restart; contributions that came in
surplus count for the next one. -/
def State.endGeneration (s : State) (n : Nat) : State :=
  let w := s.ctl.windows.getD n {}
  if w.on && w.kind != 0 && w.full.length == w.locations && w.locations != 0 then
    let g := (w.gen + 1) % 2 ^ 32
    let s := (s.agentPut s.top w.done 4 g).setWindow n { w with gen := g, full := [] }
    w.parts.foldl (fun s x => s.windowMerge n x.1) s
  else s

/-! ### The events -/

/-- The functions of an atomic, by the code that a request from another module names them by. -/
def atomFns : List AtomFn := [.add, .min, .max, .and, .or, .xor, .xchg, .incw, .cas, .fadd]

/-- The atomic that a request from another module carries: the code of its function, its bytes, whether it compares unsigned numbers,
then its operand's bytes, and a compare-and-swap's new value. -/
def atomOf (bytes : List Nat) : Option AtomOp :=
  let at_ (o n : Nat) : Nat := leNat (((bytes.drop o).take n).map (BitVec.ofNat 8))
  match bytes with
  | f :: n :: u :: _ =>
    if n = 4 ∨ n = 8 ∨ n = 16 then
      (atomFns[f]?).map fun fn => { fn := fn, n := n, unsigned := u % 2 == 1, x := at_ 3 n, new := at_ (3 + n) n }
    else none
  | _ => none

/-- R360 to R362: a request from a module of the partition reaches the switches. To a word window it is an atomic, which performs at home
on the value it finds there; to a window that takes sums it is a contribution; to a disabled window its bytes perform at home as an
ordinary write (R364). DEDUCED: notes/assumptions/79.md. -/
def execWindowContribution (win loc : Nat) (bytes : List Nat) (s : State) : Out :=
  let w := s.ctl.windows.getD win {}
  let b := (bytes ++ List.replicate w.step 0).take w.step |>.map (BitVec.ofNat 8)
  let pa := w.base + w.step * loc
  .next (if loc < w.locations then
      if !w.on then (s.agentWrite 0 pa b).2
      else if w.kind ≠ 0 then s.contribute win loc b
      else
        match atomOf bytes with
        | some op => if pa % op.n = 0 then (s.agentUpdate 0 pa op).2.2 else s
        | none => s
    else s)

/-- R363. -/
def execWindowGenerationEnd (win : Nat) (s : State) : Out :=
  .next (s.endGeneration win)

end Sys2Proof.Machine
end

