-- ==== Sys2Proof/Machine/Clip.lean ====
section
/-!
DEFINITION. Registered sweeps and the clipper (R57 to R62, R67): what a sweep makes of a 64-byte segment.
-/

namespace Sys2Proof.Machine
open Sys2Proof.Machine.Num (Fmt Val)

/-! ### Registered sweeps -/

/-- The sweep's region holds a physical address. -/
def Sweep.holds (w : Sweep) (pa : Nat) : Bool := w.pieces.any fun p => decide (p.1 ≤ pa) && decide (pa < p.1 + p.2)

/-- A deltas sweep (R59). -/
def Sweep.deltas (w : Sweep) : Bool := w.func == 7

/-- Segments of a sweep's region: memory that the region maps twice counts once. -/
def Sweep.segments (w : Sweep) : Nat := (disjointSpans w.pieces).foldl (fun n p => n + p.2) 0 / 64

/-- Every segment has been transformed; a deltas sweep never completes (R64, R65). -/
def Sweep.complete (w : Sweep) : Bool := !w.deltas && decide (w.segments ≤ w.done.length)

/-- A segment has been transformed. -/
def Sweep.isDone (w : Sweep) (seg : Nat) : Bool := (w.done.find? (seg / 64)).isSome

/-- The registered sweep whose region holds a physical address. -/
def State.sweepAt (s : State) (pa : Nat) : Option Sweep := s.dram.sweeps.find? fun w => w.holds pa

/-- The restrictions of R62 hold at a physical address. -/
def State.restricted (s : State) (pa : Nat) : Bool := s.dram.sweeps.any fun w => w.holds pa && !w.complete

/-- Queued updates of a sweep, in queue order, in every stack. -/
def State.updatesOf (s : State) (w : Sweep) : List Delta :=
  s.dram.deltas.flatMap fun x => x.2.filter fun d => d.slot == w.slot && d.gen == w.gen

/-- The physical addresses of the 32 segments of a row, in ascending order (R54). -/
def State.rowSegments (s : State) (channel bank row : Nat) : List Nat :=
  let code := s.ctl.owner.getD channel 0
  let chs := s.ctl.channels code
  let m := Nat.log2 chs.length
  let i := chs.findIdx (· == channel)
  (List.range 8).flatMap fun colg => (List.range 4).map fun k =>
    setBase code + row * 2 ^ (16 + m) + colg * 2 ^ (13 + m) + bank * 2 ^ (8 + m) + i * 2 ^ 8 + 64 * k

/-! ### The clipper (R59, R60) -/

/-- The range of an integer element format. -/
def elemRange (code : Nat) : Int × Int :=
  match code with
  | 14 => (-8, 7)
  | 15 => (0, 15)
  | c => ((intRange c).1, (intRange c).2.1)

/-- An integer sum, wrapped or saturated. -/
def elemAdd (code : Nat) (sat : Bool) (x y : Int) : Nat :=
  intBits (elemWidth code) (if sat then Num.clamp (elemRange code).1 (elemRange code).2 (x + y) else x + y)

/-- A constant cut to the width of an integer element, as the element's type. -/
def elemConst (code : Nat) (c : Word) : Int := bitsInt (elemSigned code) (elemWidth code) (intBits (elemWidth code) c.toInt)

/-- An exact value rounded into a floating-point element. -/
def elemRound (t : Fmt) (sat : Bool) (x : Val) : Nat := (Num.roundCore t 0 0 sat x).1

/-- Floating-point clamp (R59): NaN bounds are ignored, a NaN element gives NaN. -/
def clampF (t : Fmt) (x : Nat) (c0 c1 : Word) : Nat :=
  if Num.isNan (Num.decode t x) then t.nan
  else
    let y := Num.fmin Num.f32 (Num.fmax Num.f32 (widenF t x).toNat c0.toNat) c1.toNat
    elemRound t false (Num.decode Num.f32 y)

/-- A sweep's constants. DEDUCED: notes/assumptions/33.md. -/
def Sweep.const (w : Sweep) (i : Nat) : Word := (w.c[i]?).getD 0

/-- What the clipper makes of one element, for the functions that act element by element. -/
def Sweep.clipElem (w : Sweep) (x : Nat) : Nat :=
  match w.func, fmtOf w.fmt with
  | 0, some t => elemRound t w.sat (Num.mul (Num.ofF32 (w.const 0)) (Num.decode t x))
  | 1, some t => elemRound t w.sat (Num.add 0 (Num.mul (Num.ofF32 (w.const 0)) (Num.decode t x)) (Num.ofF32 (w.const 1)))
  | 2, some t => clampF t x (w.const 0) (w.const 1)
  | 2, none =>
    let v := bitsInt (elemSigned w.fmt) (elemWidth w.fmt) x
    let lo := Max.max v (elemConst w.fmt (w.const 0))
    intBits (elemWidth w.fmt) (Min.min lo (elemConst w.fmt (w.const 1)))
  | 3, _ => 0
  | 5, _ => w.map / 2 ^ (4 * x) % 16
  | 6, _ => elemAdd w.fmt w.sat (bitsInt (elemSigned w.fmt) (elemWidth w.fmt) x) (w.const 0).toInt
  | _, _ => x

/-- A number of 512 bits put together from elements. -/
def joinElems (width : Nat) (xs : List Nat) : Nat := xs.foldr (fun x a => x + 2 ^ width * a) 0

/-- Elements of a format in 64 bytes. -/
def elemCount (code : Nat) : Nat := 512 / elemWidth code

/-- One queued update added to a segment (R59, R67). -/
def Sweep.addDelta (w : Sweep) (x d : Nat) : Nat :=
  joinElems (elemWidth w.fmt) <| (List.range (elemCount w.fmt)).map fun n =>
    match fmtOf w.fmt with
    | some t => elemRound t w.sat (Num.add 0 (Num.decode t (elemAt w.fmt x n)) (Num.decode t (elemAt w.fmt d n)))
    | none => elemAdd w.fmt w.sat (bitsInt (elemSigned w.fmt) (elemWidth w.fmt) (elemAt w.fmt x n))
        (bitsInt (elemSigned w.fmt) (elemWidth w.fmt) (elemAt w.fmt d n))

/-- The exponent of the largest finite value of a target format (R60). -/
def emaxT (code : Nat) : Int :=
  match code with
  | 5 => 8
  | 6 => 15
  | 8 => 2
  | 9 => 6
  | _ => 2

/-- floor(log2) of a finite value that is not zero. -/
def logOf : Val → Option Int
  | .fin _ n e => if n = 0 then none else some (e + Nat.log2 n)
  | _ => none

/-- The scale byte of a block of values (R60). -/
def requantScale (tfmt : Nat) (xs : List Val) : Nat :=
  let bad := xs.any fun x => match x with
    | .fin .. => false
    | _ => true
  if bad then 0xFF
  else
    match xs.filterMap logOf with
    | [] => 127
    | l :: ls => (Num.clamp 0 254 (ls.foldl Max.max l - emaxT tfmt + 127)).toNat

/-- An element divided by its scale, rounded and saturated into the target format. -/
def requantElem (tfmt e : Nat) (x : Val) : Nat :=
  if e = 0xFF then 0
  else
    match x with
    | .fin s n f =>
      let y : Val := .fin s n (f - ((e : Int) - 127))
      (match fmtOf tfmt with
       | some t => elemRound t true y
       | none =>
         let r := (Num.roundInt 0 0 s n (f - ((e : Int) - 127))).1
         intBits (elemWidth tfmt) (Num.clamp (elemRange tfmt).1 (elemRange tfmt).2 r))
    | _ => 0

/-- Requant (R60): blocks of 32 or 16 elements, then their scales. -/
def Sweep.requant (w : Sweep) (x : Nat) : Nat :=
  let vals := (List.range 32).map fun n => elemVal w.fmt (elemAt w.fmt x n)
  let blocks := if w.bl16 then [vals.take 16, vals.drop 16] else [vals]
  let scales := blocks.map (requantScale w.tfmt)
  let elems := (blocks.zip scales).flatMap fun b => b.1.map (requantElem w.tfmt b.2)
  joinElems (elemWidth w.tfmt) elems + 2 ^ (32 * elemWidth w.tfmt) * joinElems 8 scales

/-- What the clipper makes of a segment's 512 bits; `ds` are the updates queued for it, in queue order. -/
def Sweep.clip (w : Sweep) (x : Nat) (ds : List Nat) : Nat :=
  if w.func = 4 then w.requant x
  else if w.deltas then ds.foldl w.addDelta x
  else joinElems (elemWidth w.fmt) ((List.range (elemCount w.fmt)).map fun n => w.clipElem (elemAt w.fmt x n))

/-- The updates of a segment that have been queued by a logical time (R67). -/
def State.updatesBy (s : State) (w : Sweep) (seg t : Nat) : List Delta :=
  (s.updatesOf w).filter fun d => d.seg == seg && decide (d.time ≤ t)

/-- What a segment will read as once its sweep has reached it, with the updates queued by a logical time (R74). -/
def State.clipped (s : State) (w : Sweep) (seg x t : Nat) : Nat :=
  if w.isDone seg then x else w.clip x ((s.updatesBy w seg t).map fun d => leNat d.bytes)

end Sys2Proof.Machine
end

