-- ==== Sys2Proof/Machine/Engine.lean ====
section
/-!
DEFINITION. What the engines share: the scratchpad's bytes, presence bits and poison (R131 to R133, R317), range locks (R137 to
R139), operations in flight, handles and their status (R141, R143), engine results (R15), engine accesses to memory (R124,
R143) and how an operation ends.
-/

namespace Sys2Proof.Machine

/-! ### Scratchpad bytes -/

/-- Bytes of a clump's scratchpad. -/
def Clump.spadBytes (c : Clump) (o n : Nat) : List Byte := (List.range n).map fun i => c.spad.getD (o + i) 0

/-- The number in `n` scratchpad bytes. -/
def Clump.spadNat (c : Clump) (o n : Nat) : Nat := leNat (c.spadBytes o n)

/-- Writes scratchpad bytes. -/
def writeSpadFrom (m : SMap Byte) : Nat → List Byte → SMap Byte
  | _, [] => m
  | o, b :: bs => writeSpadFrom (m.put o 0 b) (o + 1) bs

/-- The scratchpad lines of a span. -/
def spadLinesOf (o n : Nat) : List Nat := if n = 0 then [] else (List.range ((o + n - 1) / 128 + 1 - o / 128)).map (· + o / 128)

/-- A span lies within the allocation. -/
def Clump.inSpad (c : Clump) (o n : Nat) : Bool := decide (o + n ≤ c.kernel.spad)

/-- Whether a line of a span is poisoned. -/
def Clump.spadBad (c : Clump) (o n : Nat) : Bool := (spadLinesOf o n).any c.spadPoison.contains

/-- An engine reads scratchpad bytes. -/
def Clump.engBytes (c : Clump) (o n : Nat) : Data :=
  (c.spadBytes o n, if c.spadPoison = [] then [] else (List.range n).map fun i => c.spadPoison.contains ((o + i) / 128))

/-- An engine writes scratchpad bytes. -/
def Clump.engSpad (c : Clump) (o : Nat) (d : Data) : Clump :=
  { c with spad := writeSpadFrom c.spad o d.1, spadPoison := poisonAfter 128 c.spadPoison o d.1.length d }

/-- A line of a span is absent (R133). -/
def Clump.absentIn (c : Clump) (o n : Nat) : Bool := (spadLinesOf o n).any fun l => c.absent.any fun x => x.1 == l

/-! ### Range locks -/

/-- Two half-open ranges share a byte. -/
def overlaps (a b c d : Nat) : Bool := decide (a < d) && decide (c < b)

/-- The entry that a thread access of `n` bytes conflicts with (R138): `spad` names the clump of a scratchpad store. -/
def State.lockedFor (s : State) (core ctx : Nat) (spad : Option Nat) (lo n : Nat) (store : Bool) : Option RangeLock :=
  ((s.locks.filter fun x => x.1 == core).map (·.2)).find? fun l =>
    l.ctx == ctx && l.spad == spad && overlaps l.lo l.hi lo (lo + n) && (store || l.write)

/-- The segments of a row in the layers of a mask (R77). -/
def State.layerSegments (s : State) (stack bank row mask : Nat) : List Nat :=
  ((List.range 16).filter fun l => Nat.testBit mask l).flatMap fun l => s.rowSegments (16 * l + stack) bank row

/-- The `bank.lut` operations of a core and context that have activations to come: each with its group, row and mask (R84). -/
def State.lutsOn (s : State) (core ctx : Nat) : List (Op × Nat × Nat × Nat × Nat) :=
  s.ops.filterMap fun o => match o.kind with
    | .bank 1 stack bank row mask _ _ _ _ =>
      if o.ctx = ctx ∧ coreNo o.die o.core = core then some (o, stack, bank, row, mask) else none
    | _ => none

/-- The `bank.lut` whose row holds a physical address. -/
def State.lutAt (s : State) (core ctx pa : Nat) : Option Op :=
  match s.ctl.coord pa with
  | none => none
  | some x => ((s.lutsOn core ctx).find? fun y =>
      x.channel % 16 == y.2.1 && x.bank == y.2.2.1 && x.row == y.2.2.2.1 && Nat.testBit y.2.2.2.2 (x.channel / 16)).map (·.1)

/-- Whether a virtual range of a context, as it is mapped, holds a byte of these 64-byte segments: page by page, `fuel` pages long. -/
def State.rangeHolds (s : State) (ctx hi : Nat) (segs : List Nat) : Nat → Nat → Bool
  | 0, _ => false
  | fuel + 1, va =>
    if hi ≤ va then false
    else
      match s.leafFor ctx va with
      | .leaf base size e =>
        let pa := ptePa e + (va - base)
        let n := Nat.min hi (base + size) - va
        (segs.any fun p => overlaps pa (pa + n) p (p + 64)) || s.rangeHolds ctx hi segs fuel (base + size)
      | .absent _ _ base size => s.rangeHolds ctx hi segs fuel (base + size)
      | _ => s.rangeHolds ctx hi segs fuel ((va / 65536 + 1) * 65536)

/-- A virtual range meets a row of a group in the layers of a mask: the row's lock is keyed by channel, bank and row (R84). -/
def State.rangeMeetsRow (s : State) (ctx lo hi stack bank row mask : Nat) : Bool :=
  s.rangeHolds ctx hi (s.layerSegments stack bank row mask) (2 ^ 40) lo

/-- A virtual range that an engine writes meets the row of a `bank.lut`. -/
def State.lutMeets (s : State) (core ctx lo hi : Nat) : Bool :=
  (s.lutsOn core ctx).any fun y => s.rangeMeetsRow ctx lo hi y.2.1 y.2.2.1 y.2.2.2.1 y.2.2.2.2

/-- A range that an engine operation of the core and context holds locked for writing meets a row (R139). -/
def State.rowLocked (s : State) (core ctx stack bank row mask : Nat) : Bool :=
  s.locks.any fun x => x.1 == core && x.2.ctx == ctx && x.2.spad.isNone && x.2.write &&
    s.rangeMeetsRow ctx x.2.lo x.2.hi stack bank row mask

/-- Whether an engine instruction waits at issue for these ranges: a conflicting entry, or too few free entries (R139). -/
def State.lockWait (s : State) (core ctx : Nat) (rs : List RangeReq) : Bool :=
  let mine := (s.locks.filter fun x => x.1 == core).map (·.2)
  decide (Config.lockEntries < mine.length + rs.length) ||
    rs.any fun r => (mine.any fun l => l.ctx == ctx && l.spad == r.spad && overlaps l.lo l.hi r.lo r.hi && (r.write || l.write)) ||
      (r.write && r.spad.isNone && s.lutMeets core ctx r.lo r.hi)

/-- What a range conflict reports of a lock's operation (R385). -/
def lockDetail (b : Band) (handle : Option Nat) : Nat :=
  (match handle with
   | some h => h % 2 ^ 16
   | none => 2 ^ 31) + b.slot % 256 * 2 ^ 16 + b.quad % 4 * 2 ^ 24

/-- Registers ranges for an operation. -/
def State.lockRanges (s : State) (core ctx op detail : Nat) (rs : List RangeReq) : State :=
  { s with locks := s.locks ++ rs.map fun r => (core, ⟨ctx, r.spad, r.lo, r.hi, r.write, op, detail⟩) }

/-- Releases an operation's entries. -/
def State.unlock (s : State) (op : Nat) : State := { s with locks := s.locks.filter fun x => x.2.op != op }

/-! ### Engine words -/

/-- Runs an engine word for its band, whose lowest lane gives the operands; a guard that is false in every live strand has no
effect (R23). -/
def State.engine (s : State) (f : Lane → State → State) : State :=
  match s.active with
  | [] => s
  | _ => let t := f (lowest s.active) s; t.endRegion

/-- A trap for the band (R314). -/
def State.bandTrap (s : State) (c : Cause) (addr : Nat := 0) (detail : Nat := 0) : State :=
  s.trapAll { cause := c, addr := addr, detail := detail }

/-- Results of an engine word, which hold back words that name their registers until they land (R15). -/
def Band.engResult (b : Band) (ws : List EngWrite) : Band :=
  let v := ws.filterMap fun w => match w with
    | .lane _ (.v r _) => some r
    | _ => none
  let p := ws.filterMap fun w => match w with
    | .lane _ (.p r _) => some r
    | _ => none
  let k := ws.filterMap fun w => match w with
    | .k r _ => some r
    | _ => none
  if ws = [] then b
  else { b with engOut := b.engOut ++ [{ vregs := v.dedup, pregs := p.dedup, kregs := k.dedup, writes := ws, time := b.etime }] }

/-- Results of an engine word for the band of a lane of the sheaf. -/
def State.engResult (s : State) (m : Lane) (ws : List EngWrite) : State :=
  s.updBand s.sh.clump m.band fun b => b.engResult ws

/-- A result that an operation will give to a uniform register later (R15). -/
def Band.promise (b : Band) (op k : Nat) : Band := { b with engOut := b.engOut ++ [{ op := some op, kregs := [k] }] }

/-- Vector results of an operation that will land later, from register `r` on. -/
def Band.promiseV (b : Band) (op r n : Nat) : Band :=
  { b with engOut := b.engOut ++ [{ op := some op, vregs := (List.range n).map (r + ·) }] }

/-- The promised vector results are known. -/
def Band.giveV (b : Band) (op : Nat) (ws : List EngWrite) : Band :=
  { b with engOut := b.engOut.map fun e => if e.op == some op then { e with op := none, writes := ws, time := b.etime } else e }

/-- The promised result is known. -/
def Band.give (b : Band) (op k : Nat) (x : Word) : Band :=
  b.giveV op [.k k x]

/-! ### Handles (R141, R143) -/

/-- The next handle of a band, which the device tracks with a status. DESIGN CHOICE: notes/assumptions/9.md. -/
def Band.newHandle (b : Band) (st : Nat) : Nat × Band :=
  let h := b.issued % 2 ^ 16
  let hs := b.handles.filter (fun x => x.1 != h) ++ [(h, st)]
  (h, { b with issued := b.issued + 1, handles := hs.drop (hs.length - Config.trackedHandles) })

/-- Sets the status of a handle that is still tracked. -/
def Band.setHandle (b : Band) (h st : Nat) : Band :=
  { b with handles := b.handles.map fun x => if x.1 == h then (h, st) else x }

/-- The status of a handle. -/
def Band.handleStatus (b : Band) (h : Nat) : Nat :=
  if 2 ^ 16 ≤ h then 4
  else
    match (b.handles.find? fun x => x.1 == h).map (·.2) with
    | some st => st
    | none => if h < b.issued then 0 else 4

/-! ### Operations in flight -/

/-- An operation by its name. -/
def State.op (s : State) (i : Nat) : Option Op := s.ops.find? fun o => o.id == i

/-- Changes an operation. -/
def State.updOp (s : State) (i : Nat) (f : Op → Op) : State := { s with ops := s.ops.map fun o => if o.id == i then f o else o }

/-- The events of the matrix engine, and those of the tape engine, follow one another in a band (R253). -/
def OpKind.inTurn : OpKind → Bool
  | .copy _ _ => false
  | .queue _ _ => false
  | .pend _ => false
  | .bank _ _ _ _ _ _ _ _ _ => false
  | _ => true

/-- A time that an operation's events come after (R124): past the thread accesses of its core so far, and past the events of an
operation that wrote what it names; for the matrix and tape engines, of every earlier operation of its band. DEDUCED: notes/assumptions/31.md. -/
def State.floorOf (s : State) (o : Op) (rs : List RangeReq) : Nat :=
  let c := s.clump o.clump
  let lines := rs.flatMap fun r => if r.spad.isSome then spadLinesOf r.lo (r.hi - r.lo) else []
  lines.foldl (fun a l => Nat.max a (c.etimes.getD l 0 + 1))
    (Nat.max (s.cts (coreNo o.die o.core) + 1) (if o.kind.inTurn then (c.band o.band).etime + 1 else 0))

/-- An operation's ranges are locked and the lines that it writes become absent (R133, R137). -/
def State.startOp (s : State) (o : Op) (rs : List RangeReq) : State :=
  let s := s.lockRanges (coreNo o.die o.core) o.ctx o.id (lockDetail (s.band o.clump o.band) o.handle) rs
  s.updClump o.clump fun c => { c with absent := c.absent ++ o.lines.map fun l => (l, o.id) }

/-- Accepts an operation, which starts: its events come after those that what it names comes from. -/
def State.accept (s : State) (o : Op) (rs : List RangeReq) : State :=
  let f := Nat.max o.floor (s.floorOf o rs)
  let t := s.startOp o rs
  { t with ops := t.ops ++ [{ o with floor := f, time := f }] }

/-- A time past the engine events that gave the registers which the word at hand names for a band (R124). -/
def State.namesTime (s : State) (m : Lane) : Nat :=
  s.sh.names.foldl (fun a k => Nat.max a (((s.bnd m).rtimes.find? k).elim 0 (· + 1))) 0

/-- The operation of a lane of the sheaf. -/
def State.opFor (s : State) (m : Lane) (id : Nat) (k : OpKind) (handle : Option Nat := none) (lines : List Nat := []) : Op :=
  { id := id, ctx := s.clp.ctx, clump := s.sh.clump, band := m.band, die := s.sh.die, core := s.sh.core, kind := k,
    scope := s.sh.ext.scope, handle := handle, lines := lines, floor := s.namesTime m }

/-- Wakes the strands of a band that are parked for a reason. -/
def State.wakeBand (s : State) (c b : Nat) (p : ParkOn → Bool) : State :=
  (s.band c b).strands.foldl (fun s x => match x.2.park with
    | some k => if p k.on then s.unpark c ⟨b, x.1⟩ else s
    | none => s) s

/-- The clock of a clump's core passes every event of a band's engine operations: what returns from a wait for them, or releases
them, follows them (R123, R125, R126). -/
def State.passEngine (s : State) (c b : Nat) : State :=
  let t := (s.band c b).etime
  if t = 0 then s else s.raise (s.clump c).coreNo (t + 1)

/-- Returns `cp.wait` for a handle: its status goes to each waiting word's register, unless a later slot of the word's chain has written
it (R15), and the band goes on (R143). -/
def State.wakeCopy (s : State) (c b h st : Nat) : State :=
  let ds := (s.band c b).strands.filterMap fun x => match x.2.park with
    | some ⟨.copyWait h' d, _, _⟩ => if h' = h then some (d, x.2.overruled) else none
    | _ => none
  if ds = [] then s
  else
    let s := ds.foldl (fun s x => if x.2 then s else s.updBand c b fun y => y.applyEng (.k x.1 (BitVec.ofNat 32 st))) (s.passEngine c b)
    s.wakeBand c b fun k => match k with
      | .copyWait h' _ => h' == h
      | _ => false

/-- Returns the `mwait`s of a band whose operations have all completed (R219). -/
def State.wakeMat (s : State) (c b : Nat) : State :=
  let left := s.ops.map (·.id)
  let ends (k : ParkOn) : Bool := match k with
    | .matWait ops => !ops.any left.contains
    | _ => false
  if (s.band c b).strands.any fun x => (x.2.park.map fun p => ends p.on).getD false then
    (s.passEngine c b).wakeBand c b ends
  else s

/-- A refusal without replay, or an abort, meets tape traffic of a band, or what a save or its end writes of its tape: the tape is closed,
and "engine fault" waits for the band's next issue (R254). -/
def State.failTape (s : State) (c b va : Nat) : State :=
  let mine (o : Op) : Bool := o.clump == c && o.band == b && (match o.kind with
    | .tape _ _ => true
    | .close => true
    | _ => false)
  let ids := (s.ops.filter mine).map (·.id)
  let s := { s with ops := s.ops.filter fun o => !mine o, locks := s.locks.filter fun l => !ids.contains l.2.op
                    coh := { s.coh with waiting := s.coh.waiting.filter fun r => !r.op.any ids.contains } }
  let s := s.updBand c b fun x => { x with begun := false, tape := { x.tape with mode := 0, spill := [] } }
  (s.bandFault c b { cause := .engineFault, addr := va % 2 ^ 56, detail := va }).wakeBand c b fun k => match k with
    | .tapeRead _ => true
    | .tapeSpill => true
    | _ => false

/-- An operation's lines are present again; each keeps a time past the operation's events. -/
def State.present (s : State) (o : Op) (ls : List Nat) : State :=
  let t := ((s.op o.id).map (·.time)).getD 0
  s.updClump o.clump fun c =>
    { c with absent := c.absent.filter fun x => !(x.2 == o.id && ls.contains x.1)
             etimes := ls.foldl (fun m l => m.put l 0 (Nat.max t (m.getD l 0))) c.etimes }

/-- The words of a clump that an operation's end lets issue: those that draw on generator 0, once a load of a generator has ended (R15,
R42). -/
def State.wakeDraws (s : State) (o : Op) : State :=
  match o.kind with
  | .gset _ _ => (List.range (s.clump o.clump).bands.length).foldl (fun s b => s.wakeBand o.clump b (· == .interlock)) s
  | _ => s

/-- What an operation still waits for at slice ports is asked no longer. -/
def State.dropReqs (s : State) (id : Nat) : State :=
  { s with coh := { s.coh with waiting := s.coh.waiting.filter fun r => r.op != some id } }

/-- The end of an operation: its entries are released, its lines are present, its handle has its status, and `cp.wait` and
`mwait` return. -/
def State.endOp (s : State) (o : Op) (st : Nat) : State :=
  let s := ((s.present o o.lines).unlock o.id).dropReqs o.id
  let s := (({ s with ops := s.ops.filter fun x => x.id != o.id } : State).wakeMat o.clump o.band).wakeDraws o
  match o.handle with
  | some h => (s.updBand o.clump o.band fun b => b.setHandle h st).wakeCopy o.clump o.band h st
  | none => s

/-! ### Sums of the matrix engine that a failing operation leaves (R49, R50) -/

/-- A rounded result, a zero of which is +0. -/
def plusZero (x : Word) : Word := if x = 0x80000000 then 0 else x

/-- An accumulator of a clump; at grant it is +0 throughout. -/
def Clump.acc (c : Clump) (a : Nat) : Acc := c.accs.getD a {}

/-- Sets an accumulator. -/
def Clump.setAcc (c : Clump) (a : Nat) (x : Acc) : Clump := { c with accs := c.accs.put a {} x }

/-- Adds a step's tree results into an accumulator: R49's last line, and its flags (R212, R215). -/
def Acc.take (x : Acc) (p : StepOut) : Acc :=
  { x with vals := p.vals.foldl (fun m y => m.put y.1 0 (plusZero (Num.addRne (m.getD y.1 0) y.2))) x.vals
           rowFlags := x.rowFlags ||| p.rowFlags, colFlags := x.colFlags ||| p.colFlags, poison := x.poison || p.poison }

/-- Adds results into the accumulators of a clump. -/
def State.addOuts (s : State) (c : Nat) (outs : List (Nat × StepOut)) : State :=
  s.updClump c fun x => outs.foldl (fun x y => x.setAcc y.1 ((x.acc y.1).take y.2)) x

/-- Adds results into an accumulator in an order of the engine's choosing: a free value names the next of those left (R50).
DESIGN CHOICE: notes/assumptions/2.md. DEDUCED: notes/assumptions/53.md. -/
def State.addHeld (s : State) (c acc : Nat) : Nat → List StepOut → State
  | 0, _ => s
  | n + 1, xs =>
    let i := Config.freeNat s.free % xs.length
    match xs[i]? with
    | some x => (({ s with free := s.free + 1 } : State).addOuts c [(acc, x)]).addHeld c acc n (xs.eraseIdx i)
    | none => s

/-- Word `i` of an `mgemm` descriptor. -/
def Mgemm.word (p : Mgemm) (i : Nat) : Nat := ((p.desc[i]?).getD 0).toNat

/-- The fields of an `mgemm` descriptor (R230). -/
def Mgemm.rows (p : Mgemm) : Nat := p.word 4 % 2 ^ 16
def Mgemm.kt (p : Mgemm) : Nat := p.word 4 / 2 ^ 16 % 2 ^ 8
def Mgemm.acc (p : Mgemm) : Nat := p.word 4 / 2 ^ 24 % 4
def Mgemm.ta (p : Mgemm) : Nat := p.word 4 / 2 ^ 28 % 8
def Mgemm.tb (p : Mgemm) : Nat := p.word 5 % 8

/-- The steps of a sequencer's tile that have run reach its accumulator. -/
def State.addRun (s : State) (o : Op) : State :=
  match ((s.op o.id).getD o).kind with
  | .mgemm p => s.addHeld o.clump p.acc p.held.length p.held
  | _ => s

/-- An operation ends in a fault: the band takes "engine fault" at its next issue (R143, R314, R385). Steps that have retired stay added
(R233). -/
def State.failOp (s : State) (o : Op) (addr va : Nat) : State :=
  ((s.addRun o).endOp o 3).bandFault o.clump o.band { cause := .engineFault, addr := addr, detail := va }

/-! ### Engine accesses to memory (R124, R143, R331) -/

/-- What an engine access meets. -/
inductive EngX where
  | ok
  | pause (va level pte base size : Nat)
  | pull (va : Nat)
  | fault (va : Nat) (c : Cause)
  deriving DecidableEq, Repr

/-- Pieces of a virtual span that lie in one 4 KiB chunk each; addresses wrap at 2^64. -/
def vaPieces : Nat → Nat → Nat → List (Nat × Nat)
  | 0, _, _ => []
  | fuel + 1, va, n =>
    if n = 0 then []
    else
      let k := Nat.min n (4096 - va % 4096)
      (va, k) :: vaPieces fuel ((va + k) % 2 ^ 64) (n - k)

/-- The pieces of a span. -/
def spanPieces (va n : Nat) : List (Nat × Nat) := vaPieces (n / 4096 + 2) va n

/-- What a piece meets. -/
def State.engCheck1 (s : State) (ctx : Nat) (k : Kind) (x : Nat × Nat) : EngX :=
  match s.translate ctx x.1 x.2 k false with
  | .ok _ _ _ _ _ => .ok
  | .absent level pte base size => .pause x.1 level pte base size
  | .migrating => .pull x.1
  | .bad c => .fault x.1 c

/-- The first replayable fault, or page still being pulled, among spans. -/
def State.engPause (s : State) (ctx : Nat) (spans : List (Kind × Nat × Nat)) : Option EngX :=
  (spans.flatMap fun x => (spanPieces x.2.1 x.2.2).map fun p => s.engCheck1 ctx x.1 p).find? fun r =>
    match r with
    | .pause .. => true
    | .pull _ => true
    | _ => false

/-- Pauses an operation: the fault is posted, and the operation waits for the host, or for the chunk (R68, R143). -/
def State.pauseOp (s : State) (o : Op) : EngX → Bool → State
  | .pause va level pte base size, wr =>
    let b := s.band o.clump o.band
    let k := if wr then Kind.engWrite.code else Kind.engRead.code
    (s.noteFault o.ctx o.die va level pte base size k b.slot b.quad o.core).updOp o.id fun x => { x with paused := some va }
  | .pull va, _ => s.updOp o.id fun x => { x with pulling := some va }
  | _, _ => s

/-- Notes a logical time at which a band's engine has read or written. -/
def State.noteEng (s : State) (c b t : Nat) : State := s.updBand c b fun x => { x with etime := Nat.max x.etime t }

/-- Notes the time of an operation's event. -/
def State.noteOp (s : State) (o : Op) (t : Nat) : State :=
  (s.noteEng o.clump o.band t).updOp o.id fun x => { x with time := Nat.max x.time t }

/-- A page on the CXL.io path: accesses to it are not in logical time (R128). -/
def State.isIo (s : State) (pa home : Nat) : Bool := home == 3 && s.ctl.place pa == .host

/-- What an engine's transfer leaves at the slices: its tokens, and its context's tag on the lines (R100, R102). A page pinned in a
core's SRAM has no slice (R86). -/
def State.engLines (s : State) (ctx pa n home : Nat) : State :=
  if home = 1 then s
  else (pieces (n + 1) pa n).foldl (fun s x => s.tagHome ctx (lineOf x.1)) (s.charge ctx pa n)

/-- Reads bytes for an operation: an error is the virtual address of a refusal. -/
def State.engRead (s : State) (o : Op) (va n : Nat) : Except Nat Data × State :=
  (spanPieces va n).foldl (fun r x =>
    match r.1 with
    | .error e => (.error e, r.2)
    | .ok d =>
      match r.2.translate o.ctx x.1 x.2 .engRead false with
      | .ok pa e base size pin =>
        let bad := r.2.poisonMask pa x.2
        let io := r.2.isIo pa (pteHome e)
        let y := (r.2.useLeaf o.ctx base size e pin).agentTouch (if io then 0 else o.floor) pa x.2
        let s := (if io then y.2 else y.2.noteOp o y.1).engLines o.ctx pa x.2 (pteHome e)
        -- bytes read before are all known to be whole when their list is empty
        let old := if bad = [] then d.2 else d.2 ++ List.replicate (d.1.length - d.2.length) false
        (.ok (d.1 ++ s.mem.readBytes pa x.2, old ++ bad), s)
      | _ => (.error x.1, r.2)) (.ok ([], []), s)

/-- A write of an engine performs; the first result is its logical time (R124). -/
def State.engPut (s : State) (ctx floor pa home : Nat) (d : Data) : Nat × State :=
  let io := s.isIo pa home
  let r := s.agentWrite (if io then 0 else floor) pa d.1
  (if io then 0 else r.1, (r.2.carryPoison pa d).engLines ctx pa d.1.length home)

/-- The narrowest scope within which a physical address is homed, seen from a die (R124): 3 die, 4 device, 5 partition, 6 system. -/
def State.scopeOf (s : State) (die pa : Nat) : Nat :=
  match s.ctl.place pa with
  | .host => 6
  | .remote _ => 5
  | _ => if s.homeDie pa = die then 3 else 4

/-- Writes bytes of one line: inside the operation's scope now, at home; outside it at a later time that no completion bounds (R124). -/
def State.storePiece (s : State) (o : Op) (pa home : Nat) (d : Data) : State :=
  let need := s.scopeOf o.die pa
  if o.scope < need then
    let i := s.fresh
    { i.2 with late := i.2.late ++ [{ id := i.1, ctx := o.ctx, clump := o.clump, band := o.band, need := need, floor := o.floor, pa := pa,
                                      home := home, bytes := d.1, bad := d.2, op := o.id }] }
  else
    let r := s.engPut o.ctx o.floor pa home d
    r.2.noteOp o r.1

/-- Writes a piece, line by line, since each line has its own home; or as contributions, where a copy's destination lies in a reduction
window (R361, R362). -/
def State.engStore (s : State) (o : Op) (pa home : Nat) (d : Data) (copy : Bool) : Option State :=
  let plain (s : State) : State :=
    (pieces (d.1.length + 1) pa d.1.length).foldl (fun s x => s.storePiece o x.1 home (Data.part d (x.1 - pa) x.2)) s
  match s.windowAt pa with
  | some (n, w) =>
    if !copy || w.kind == 0 then some (plain s)
    else if pa % w.step ≠ 0 ∨ d.1.length % w.step ≠ 0 then none
    else some ((List.range (d.1.length / w.step)).foldl (fun s i =>
      s.contribute n ((pa - w.base) / w.step + i) ((d.1.drop (w.step * i)).take w.step)) s)
  | none => some (plain s)

/-- Writes bytes for an operation; an error is the virtual address of a refusal. -/
def State.engWrite (s : State) (o : Op) (va : Nat) (d : Data) (copy : Bool) : Except Nat Unit × State :=
  (spanPieces va d.1.length).foldl (fun r x =>
    match r.1 with
    | .error e => (.error e, r.2)
    | .ok _ =>
      match r.2.translate o.ctx x.1 x.2 .engWrite false with
      | .ok pa e base size pin =>
        match (r.2.useLeaf o.ctx base size e pin).engStore o pa (pteHome e) (Data.part d ((x.1 + 2 ^ 64 - va) % 2 ^ 64) x.2) copy with
        | some s => (.ok (), s)
        | none => (.error x.1, r.2)
      | _ => (.error x.1, r.2)) (.ok (), s)

/-! ### Tokens of an operation's transfers (R100, R101) -/

/-- What a run spends of a context's tokens: for each bucket, how many. -/
def State.owed (s t : State) (ctx : Nat) : List (Nat × Nat) :=
  (t.coh.spent.filter fun x => x.1 % 16 == ctx && decide (s.coh.spent.getD x.1 0 < x.2)).map fun x => (x.1, x.2 - s.coh.spent.getD x.1 0)

/-- Tokens that a bucket holds. -/
def State.tokens (s : State) (k ctx : Nat) : Nat := s.depth ctx - s.coh.spent.getD k 0

/-- Gives an operation, or a late write, tokens of a bucket. -/
def State.addPaid (s : State) (id k n : Nat) : State :=
  { s with ops := s.ops.map fun o => if o.id == id then { o with paid := o.paid.put k 0 (o.paid.getD k 0 + n) } else o
           late := s.late.map fun w => if w.id == id then { w with paid := w.paid.put k 0 (w.paid.getD k 0 + n) } else w }

/-- A transfer that finds its bucket empty waits at the port: it takes what tokens there are, and asks for the next. -/
def State.payPart (s : State) (id ctx clump k n paid : Nat) : State :=
  let x := Nat.min (s.tokens k ctx) (n - paid)
  let s := ({ s with coh := { s.coh with spent := s.coh.spent.put k 0 (s.coh.spent.getD k 0 + x) } } : State).addPaid id k x
  if n ≤ paid + x ∨ s.coh.waiting.any (fun r => r.op == some id && r.slice == k / 16) then s
  else
    let r : PortReq := { slice := k / 16, ctx := ctx, prio := (s.plantingOf clump).prio, clump := clump, lane := ⟨0, 0⟩, op := some id }
    { s with coh := { s.coh with waiting := s.coh.waiting ++ [r], idle := s.coh.idle.filter (· != k) } }

/-- An event of an operation, from `s` to `t`, whose transfers need tokens of the operation's context beyond those already given to it: it
happens once every bucket has them; until then its transfers wait at the ports. DEDUCED: notes/assumptions/24.md. -/
def State.paying (s : State) (id ctx clump : Nat) (paid : SMap Nat) (t : State) : State :=
  let xs := s.owed t ctx
  if xs.any fun x => decide (s.tokens x.1 ctx + paid.getD x.1 0 < x.2) then
    xs.foldl (fun s x => s.payPart id ctx clump x.1 x.2 (paid.getD x.1 0)) s
  else
    let spent := xs.foldl (fun m x => m.put x.1 0 (m.getD x.1 0 - Nat.min (paid.getD x.1 0) x.2)) t.coh.spent
    ({ t with coh := { t.coh with spent := spent }
              ops := t.ops.map fun o => if o.id == id then { o with paid := [] } else o } : State).dropReqs id

/-- An event of an operation that moves lines. -/
def State.opMoves (s : State) (o : Op) (f : State → State) : State := s.paying o.id o.ctx o.clump o.paid (f s)

/-- A late write at its home, off the list of those that wait. -/
def State.putLate (s : State) (w : LateWrite) : State :=
  let r := ({ s with late := s.late.filter fun x => x.id != w.id } : State).engPut w.ctx w.floor w.pa w.home (w.bytes, w.bad)
  r.2.noteEng w.clump w.band r.1

/-- A write outside its operation's scope performs (R124), once what the operation wrote before to a byte of it has (R142). -/
def State.performLate (s : State) (w : LateWrite) : State :=
  if s.late.any fun x => x.op == w.op && decide (x.id < w.id) && overlaps x.pa (x.pa + x.bytes.length) w.pa (w.pa + w.bytes.length) then s
  else s.paying w.id w.ctx w.clump w.paid (s.putLate w)

/-! ### The events -/

/-- Applies an engine write, and keeps a time past the events that gave it (R124). -/
def Band.landEng (time : Nat) (b : Band) (w : EngWrite) : Band :=
  { b.applyEng w with rtimes := b.rtimes.put w.place.2 0 (Nat.max time (b.rtimes.getD w.place.2 0)) }

/-- R15: an engine result lands, and words that waited for its registers may issue. -/
def execEngineResultLand (clump band idx : Nat) (s : State) : Out :=
  let b := s.band clump band
  .next (match b.engOut[idx]? with
    | some e =>
      if e.op.isSome then s else
      let s := s.updBand clump band fun x => { e.final.foldl (Band.landEng e.time) x with engOut := x.engOut.eraseIdx idx }
      s.wakeBand clump band fun k => k == .interlock
    | none => s)

end Sys2Proof.Machine
end

