-- ==== Sys2Proof/Machine/Queue.lean ====
section
/-!
DEFINITION. The stacks' queues of deferred updates (R67): ids of registrations (R70), and how the updates of a `swp.queue` enter.
-/

namespace Sys2Proof.Machine

/-- The id of a registration (R70). -/
def Sweep.id (w : Sweep) : Nat := w.gen * 2 ^ 16 + w.slot

/-- The registration that an id names. -/
def State.sweepOf (s : State) (id : Nat) : Option Sweep := s.dram.sweeps.find? fun w => w.id == id

/-- Room in a stack's queue (R67). -/
def State.deltaRoom (s : State) (stack : Nat) : Nat := 2048 - (s.dram.deltas.getD stack []).length

/-- The stack of a physical address. -/
def State.stackAt (s : State) (pa : Nat) : Nat := ((s.ctl.coord pa).map fun x => x.channel % 16).getD 0

/-- The key of a row of a bank, and of the row that holds a physical address. -/
def rowKey (bank row : Nat) : Nat := 2 ^ 16 * bank + row
def State.rowAt (s : State) (pa : Nat) : Nat := ((s.ctl.coord pa).map fun x => rowKey x.bankNo x.row).getD 0

/-- A time past every read of a segment so far, and past the last restore of its row: an update that is queued now is met by the restore
to come, and by no read before it (R67, R74). -/
def State.queueFloor (s : State) (pa : Nat) : Nat :=
  let h := s.homeLine (lineOf pa)
  (wordsOf pa 64).foldl (fun a w => Nat.max a (h.rtsOf w + 1)) ((s.dram.restored.find? (s.rowAt pa)).elim 0 (· + 1))

/-- Queues one update of an operation at its queue point: the clock of the band's core, which passes the queue points before it, the reads
of the segment and the restores of its row. DEDUCED: notes/assumptions/107.md. -/
def State.enqueue (s : State) (o : Op) (w : Sweep) (pa off : Nat) : State :=
  let stack := s.stackAt pa
  let q := s.dram.deltas.getD stack []
  let core := coreNo o.die o.core
  let t := Nat.max (s.cts core) (Nat.max ((q.getLast?.map (·.time)).getD 0) (s.queueFloor pa))
  let r := (s.raise core t).fresh
  let c := s.clump o.clump
  let d : Delta :=
    { id := r.1, slot := w.slot, gen := w.gen, seg := pa, bytes := c.spadBytes off 64, ctx := o.ctx, clump := o.clump, band := o.band
      time := t, bad := c.spadBad off 64 }
  { r.2 with dram := { r.2.dram with deltas := r.2.dram.deltas.insert stack (q ++ [d]) } }

/-- The updates of a `swp.queue` enter their queues in ascending home lane, each releasing its range, as far as there is room
(R67, R71). Once the sweep is unregistered nothing more is queued (DESIGN CHOICE, notes/assumptions/93.md). -/
def State.runQueue (s : State) (o : Op) (sweep : Nat) : List (Nat × Nat) → State
  | [] => (s.endOp o 0).wakeBand o.clump o.band fun k => k == .queueWait o.id
  | (pa, off) :: rest =>
    match s.sweepOf sweep with
    | none => (s.endOp o 0).wakeBand o.clump o.band fun k => k == .queueWait o.id
    | some w =>
      if s.deltaRoom (s.stackAt pa) = 0 then s.updOp o.id fun x => { x with kind := .queue sweep ((pa, off) :: rest) }
      else
        let s := s.enqueue o w pa off
        let i := s.locks.findIdx fun x => x.2.op == o.id && x.2.lo == off
        ({ s with locks := s.locks.eraseIdx i } : State).runQueue o sweep rest

/-- Every `swp.queue` that waits for room goes on as far as it can. -/
def State.runQueues (s : State) : State :=
  s.ops.foldl (fun s o => match o.kind with
    | .queue w left => s.runQueue o w left
    | _ => s) s

end Sys2Proof.Machine
end

