-- ==== Sys2Proof/Machine/Control.lean ====
section
/-!
DEFINITION. Control space (R352 to R356, R359, R369, R371): its registers as they read, what a write does and when it is refused;
the host's resolve and invalidate commands (R332, R333), requests to a context (R353), channel ownership (R356), and the events
of the table that are such writes.
-/

namespace Sys2Proof.Machine

/-! ### Contexts -/

/-- The clumps of a context, by name. -/
def State.clumpsOf (s : State) (ctx : Nat) : List Nat := (s.clumps.filter fun x => x.2.ctx == ctx).map (·.1)

/-- A context is idle: no resident clump and no engine operation (R353). -/
def State.ctxIdle (s : State) (ctx : Nat) : Bool :=
  !(s.clumps.any fun x => x.2.ctx == ctx && x.2.place == .resident) && !(s.ops.any fun o => o.ctx == ctx)

/-- Every strand of a context's clumps, with its state. -/
def State.strandsOf (s : State) (ctx : Nat) : List (Nat × Lane × Strand) :=
  (s.clumps.filter fun x => x.2.ctx == ctx).flatMap fun x =>
    ((List.range x.2.bands.length).flatMap fun b => ((x.2.band b).strands.map fun y => (x.1, ⟨b, y.1⟩, y.2)))

/-- A parked access whose virtual address lies in a range waits for the host (R331). -/
def parkedAt (t : Strand) (base len : Nat) : Option (Nat × Nat) :=
  match t.park with
  | some ⟨.xlate va k, _, _⟩ => if base ≤ va ∧ va < base + len then some (va, k) else none
  | _ => none

/-- What an engine fault reports of an operation (R313). -/
def Op.faultAddr (o : Op) (va : Nat) : Nat :=
  match o.kind with
  | .drain acc _ _ _ => acc
  | .gset _ _ => va % 2 ^ 56
  | _ => o.handle.getD 0

/-- The host aborts the translation that an operation is paused on (R332). -/
def State.abortOp (s : State) (o : Op) : State :=
  let va := o.paused.getD 0
  match o.kind with
  | .tape _ _ => s.failTape o.clump o.band va
  | .close => s.failTape o.clump o.band va
  | _ => s.failOp o (o.faultAddr va) va

/-- The host's answer to faults in a range of bytes (R332). -/
def State.resolve (s : State) (ctx base len : Nat) (abort : Bool) : State :=
  let here (va : Nat) : Bool := decide (base ≤ va) && decide (va < base + len)
  let s := { s with coh := { s.coh with faults := s.coh.faults.filter fun f =>
    !(f.ctx == ctx && overlaps f.base (f.base + f.size) base (base + len)) } }
  let s := (s.strandsOf ctx).foldl (fun s x =>
    match parkedAt x.2.2 base len with
    | none => s
    | some (va, k) =>
      if !abort then s.unpark x.1 x.2.1
      else if 8 ≤ k then (s.updStrand x.1 x.2.1 fun t => { t with aborted := addOnce t.aborted va }).unpark x.1 x.2.1
      else s.updStrand x.1 x.2.1 fun t =>
        { t with park := none, trap := some { cause := .translationAbort, addr := va % 2 ^ 56 } }) s
  let s := (s.ops.filter fun o => o.ctx == ctx && (o.paused.map here).getD false).foldl (fun s o =>
    if abort then s.abortOp o
    else s.updOp o.id fun o => { o with paused := none }) s
  let qs := s.ctl.queues.map fun x =>
    if x.2.cfg / 2 ^ 8 % 16 == ctx && (x.2.fault.map here).getD false then (x.1, { x.2 with fault := none, aborted := abort }) else x
  { s with ctl := { s.ctl with queues := qs } }

/-- An invalidation of a range begins (R333). -/
def State.invalidateRange (s : State) (ctx base len : Nat) : State :=
  { s with coh := { s.coh with invals := s.coh.invals ++ [(ctx, base, len)] } }

/-- The host, a budget or a higher priority asks for a pre-emption (R318); one that comes while a mode-switch command of the
context runs is taken once that command completes (R322). Reasons: 0 pre-emption, 1 budget, 2 context fault, 3 host request. -/
def State.requestPreempt (s : State) (ctx reason : Nat) : State :=
  let switching := s.ctl.queues.any fun x =>
    x.2.cfg / 2 ^ 8 % 16 == ctx && (match x.2.cmd with
      | some (_, w :: _, _) => w.toNat % 256 == 3
      | _ => false)
  if (s.ctx ctx).away then s
  else if switching then s.updCtx ctx fun x => { x with modeSwitch := some (x.modeSwitch.getD reason) }
  else s.updCtx ctx fun x => { x with stopping := some (x.stopping.getD reason) }

/-- The host resumes a context (R327): its saved clumps wait to be placed again, ahead of clumps that have not started. A
context that its budget stopped waits for a budget (R301), and a module that is too hot starts nothing (R372). -/
def State.resume (s : State) (ctx : Nat) : State :=
  if !(s.ctx ctx).away ∨ (s.ctx ctx).broke ∨ s.fw.hot then s
  else
    -- a thicket comes back with its leader, if that has not ended
    let led (k : Clump) : Bool := k.thicket == 2 && k.peer.any fun p => (s.clumps.find? p).isSome
    let back := (s.clumps.filter fun x => x.2.ctx == ctx && x.2.place == .saved && !led x.2).map fun x =>
      ({ planting := x.2.planting, no := x.2.no, prio := (s.plantings.getD x.2.planting {}).prio, saved := some x.1 } : Waiting)
    { s.updCtx ctx fun x => { x with away := false, stopping := none, faulted := none, record := none } with
      waiting := back ++ s.waiting }

/-- Drops every L1 line of a context, writing back what it owns (R102). DEDUCED: notes/assumptions/68.md. -/
def State.dropLines (s : State) (ctx : Nat) (keep : L1Line → Bool) : State :=
  (s.coh.l1.filter fun x => x.2.ctx == ctx && !keep x.2).foldl (fun s x => s.dropCopy (x.1 / 2 ^ 45) (x.1 % 2 ^ 45)) s

/-- Discards a context (R353): its work ends, its lines are written back and invalidated (R102), the pages it pinned are
unpinned (R89), the updates it queued are dropped, so that others may enter (R67), and the graph command of each of its queues completes
as refused (DEDUCED, notes/assumptions/12.md). In a module that is too hot the context stays stopped (R372). -/
def State.discard (s : State) (ctx : Nat) : State :=
  let s := s.dropLines ctx fun _ => false
  let s : State := { s with coh := { s.coh with pins := s.coh.pins.filter fun p => p.ctx != ctx } }
  let s := ((s.coh.home.filter fun x => x.2.ctx == some ctx).map (·.1)).foldl State.evictHome s
  let gone := (s.plantings.filter fun x => x.2.ctx == ctx).map (·.1)
  let mine := s.clumpsOf ctx
  let qs := s.ctl.queues.map fun x =>
    if x.2.cfg / 2 ^ 8 % 16 == ctx then
      (x.1, { x.2 with fault := none,
                       cmd := x.2.cmd.map fun c => (c.1, c.2.1, if s.graphs.any (fun g => g.2.queue == x.1) then 3 else c.2.2) })
    else x
  let hot := s.fw.hot
  let t : State := { s.updCtx ctx fun x =>
      { x with stopping := none, away := hot, faulted := if hot then x.faulted else none, record := none, modeSwitch := none } with
    ctl := { s.ctl with queues := qs }
    clumps := s.clumps.filter fun x => x.2.ctx != ctx
    plantings := s.plantings.filter fun x => x.2.ctx != ctx
    graphs := s.graphs.filter fun x => x.2.ctx != ctx
    waiting := s.waiting.filter fun w => !gone.contains w.planting
    aggs := s.aggs.filter fun a => s.graphs.any fun g => g.1 == a.graph && g.2.ctx != ctx
    bins := s.bins.filter fun b => b.ctx != ctx
    ops := s.ops.filter fun o => o.ctx != ctx
    late := s.late.filter fun w => w.ctx != ctx
    locks := s.locks.filter fun l => l.2.ctx != ctx
    sheaf := s.sheaf.bind fun h => if mine.contains h.clump then none else some h
    dram := { s.dram with sweeps := s.dram.sweeps.filter fun w => w.ctx != ctx
                          deltas := (s.dram.deltas.map fun x => (x.1, x.2.filter fun d => d.ctx != ctx)).filter fun x => x.2 != [] }
    coh := { s.coh with monitors := s.coh.monitors.filter fun m => m.2.ctx != ctx
                        waiting := s.coh.waiting.filter fun w => w.ctx != ctx
                        faults := s.coh.faults.filter fun f => f.ctx != ctx } }
  t.runQueues

/-! ### Channel ownership (R356) -/

/-- A size is a power of two. -/
def isPow2 (n : Nat) : Bool := n != 0 && n == 2 ^ Nat.log2 n

/-- The sizes of the 17 sets that a table makes are zero or powers of two. -/
def chownOk (t : SMap Nat) : Bool :=
  (List.range 17).all fun code =>
    let n := ((List.range 256).filter fun g => t.getD g 0 == code).length
    n == 0 || isPow2 n

/-- The sets whose membership a table changes. -/
def State.changedSets (s : State) (t : SMap Nat) : List Nat :=
  (List.range 17).filter fun code => (List.range 256).any fun g => (s.ctl.owner.getD g 0 == code) != (t.getD g 0 == code)

/-- Whether a change of some sets concerns a context: the shared pool is a set of every context that maps it (R356).
DEDUCED: notes/assumptions/13.md. -/
def State.concerns (s : State) (sets : List Nat) (ctx : Nat) : Bool := sets.contains (ctx + 1) || (sets.contains 0 && s.mapsPool ctx)

/-- Every context that a change concerns is idle. -/
def State.changeIdle (s : State) (t : SMap Nat) : Bool :=
  (List.range 16).all fun c => s.ctxIdle c || !s.concerns (s.changedSets t) c

/-- A control-space write was refused whole (R355): HSTAT [31:16] counts it, saturating. -/
def State.countRefused (s : State) : State :=
  let h := s.ctl.hstat
  let n := Nat.min (h / 2 ^ 16 + 1) 0xFFFF
  { s with ctl := { s.ctl with hstat := n * 2 ^ 16 + h % 2 ^ 16 } }

/-- A host access decoded to no channel (R350, R352). -/
def State.countNoChannel (s : State) : State :=
  let h := s.ctl.hstat
  { s with ctl := { s.ctl with hstat := h / 2 ^ 16 * 2 ^ 16 + Nat.min (h % 2 ^ 16 + 1) 0xFFFF } }

/-- A write of 1 to CHCMD that is not refused (R356). -/
def State.chcmd (s : State) : State :=
  let t := s.ctl.chown
  let set (n : Nat) (c : Option (SMap Nat × Nat)) : State := { s with ctl := { s.ctl with chst := n, change := c } }
  if !chownOk t then set 2 none
  else if s.changeIdle t then set 1 (some (t, 3))
  else set 3 (some (t, 2))

/-- The physical ranges of sets under an ownership. -/
def Ctl.setRanges (c : Ctl) (codes : List Nat) : List (Nat × Nat) := codes.map fun k => (setBase k, setBase k + c.setBytes k)

/-- Applies a change (R356 steps 3 to 5): memory of the sets is zeroed, and with it whatever caches and banks held of it, the
tables and accumulators of the channels (R76), and the cached translations of the contexts concerned. -/
def State.applyChange (s : State) (t : SMap Nat) : State :=
  let sets := s.changedSets t
  let ctl := { s.ctl with owner := t, chst := 0, change := none }
  let rs := s.ctl.setRanges sets ++ ctl.setRanges sets
  let hit (pa : Nat) : Bool := rs.any fun r => decide (r.1 ≤ pa) && decide (pa < r.2)
  let moved (g : Nat) : Bool := sets.contains (s.ctl.owner.getD g 0) || sets.contains (t.getD g 0)
  let concerned := (List.range 16).filter (s.concerns sets)
  { s with
    ctl := ctl
    mem := s.mem.filter fun x => !hit x.1
    poison := s.poison.filter fun g => !hit (64 * g)
    coh := { s.coh with
      home := s.coh.home.filter fun x => !hit (128 * x.1)
      l1 := s.coh.l1.filter fun x => !hit (128 * (x.1 % 2 ^ 45))
      tlb := s.coh.tlb.filter fun e => !concerned.contains e.ctx }
    dram := { s.dram with
      latch := s.dram.latch.filter fun x => !moved (x.1 / 128 / 32)
      acc := s.dram.acc.filter fun x => !moved (x.1 / 1024 / 32)
      accPoison := s.dram.accPoison.filter fun b => !moved (b / 32) } }

/-! ### Reading -/

/-- A queue's entries (R281, R353). -/
def SubQueue.entries (q : SubQueue) : Nat := 2 ^ (q.cfg % 32)
/-- A queue's context and priority. -/
def SubQueue.ctx (q : SubQueue) : Nat := q.cfg / 2 ^ 8 % 16
def SubQueue.prio (q : SubQueue) : Nat := q.cfg / 2 ^ 16 % 64

/-- Half of a 64-bit register. -/
def halfOf (x i : Nat) : Nat := x / 2 ^ (32 * i) % 2 ^ 32

/-- CSTAT (R353); zero in every context until bring-up has finished (R366). -/
def State.cstat (s : State) (c : Nat) : Nat :=
  if s.fw.bringUp then
    (if s.clumps.any fun x => x.2.ctx == c && x.2.place == .resident then 1 else 0) +
      (if s.ctxIdle c then 2 else 0) + (if s.coh.invals.any fun x => x.1 == c then 4 else 0) +
      (if (s.ctx c).faulted.isSome then 8 else 0)
  else 0

/-- The 32 bytes of a journal entry as a number (R369). -/
def JEntry.bits (j : JEntry) : Nat :=
  j.seq + j.queue * 2 ^ 32 + j.state * 2 ^ 40 + j.idx * 2 ^ 48 + j.tacc * 2 ^ 64 + j.tdone * 2 ^ 128 + j.ctx * 2 ^ 192

/-- The key slot of a GiB of the second tier, as the region map names it (R367). -/
def regionSlot (g : Nat) : Nat := if 17 ≤ Config.regionName g ∧ Config.regionName g < 512 then Config.regionName g else 0

/-- Where the region map and the limit registers lie in control space, and the limits (R371, R372): watts, inlet and junction
degrees, and the clock's range. DESIGN CHOICE: notes/assumptions/8.md. -/
def regionMapAt : Nat := 0x2000
def limitsAt : Nat := 0x4000
def limitRegs : List Nat := [3400, 45, 105, 400, 940]

/-- GiB of the second tier, the last in part. -/
def secondGiB : Nat := 1431

/-- The capability list (R371), 16 bytes an entry: ID, version 1, the next entry, and a body (DESIGN CHOICE, notes/assumptions/8.md). -/
def capWord (base o : Nat) : Nat :=
  let i := o / 16
  let next := if i = 5 then 0 else base + 16 * (i + 1)
  let body := match i with
    | 0 => 0x0800
    | 1 => 64
    | 2 => 1
    | 3 => 512
    | 4 => 7
    | _ => limitsAt
  match o % 16 / 4 with
  | 0 => i + 1 + 2 ^ 16
  | 1 => next
  | 2 => body
  | _ => if i = 3 then regionMapAt else 0

/-- A 4-byte word of control space at a multiple of 4 (R352, R353, R359, R369). Reserved and write-only offsets read zero. -/
def State.ctlWord (s : State) (off : Nat) : Nat :=
  let c := s.ctl
  if off = 0x0000 then 0x00090001
  else if off = 0x0008 then c.chip
  else if off = 0x000C then c.psize
  else if off = 0x0010 then c.capptr
  else if 0x100 ≤ off ∧ off < 0x200 then leNat ((List.range 4).map fun i => BitVec.ofNat 8 (c.chown.getD (off - 0x100 + i) 0))
  else if off = 0x0204 then c.chst
  else if 0x300 ≤ off ∧ off < 0x480 then (if off % 16 = 0 then c.pstat.getD ((off - 0x300) / 16) 0 else 0)
  else if off = 0x0700 then c.hstat
  else if off = 0x0800 then halfOf s.jcount 0
  else if off = 0x0804 then halfOf s.jcount 1
  else if off = 0x0808 then 65536
  else if c.capptr ≤ off ∧ off < c.capptr + 96 then capWord c.capptr (off - c.capptr)
  else if regionMapAt ≤ off ∧ off < regionMapAt + 4 * secondGiB then regionSlot ((off - regionMapAt) / 4)
  else if limitsAt ≤ off ∧ off < limitsAt + 20 then (limitRegs[(off - limitsAt) / 4]?).getD 0
  else if 0x10000 ≤ off ∧ off < 0x12000 then
    let q := c.queues.getD ((off - 0x10000) / 32) {}
    match off % 32 with
    | 0x00 => halfOf q.base 0
    | 0x04 => halfOf q.base 1
    | 0x08 => q.cfg
    | 0x0C => q.tail
    | 0x10 => q.head
    | 0x14 => q.ref
    | _ => 0
  else if 0x100000 ≤ off ∧ off < 0x110000 then
    let n := (off - 0x100000) / 0x1000
    let x := s.ctx n
    match off % 0x1000 with
    | 0x000 => halfOf x.params 0
    | 0x004 => halfOf x.params 1
    | 0x008 => halfOf x.root 0
    | 0x00C => halfOf x.root 1
    | 0x010 => halfOf x.save 0
    | 0x014 => halfOf x.save 1
    | 0x018 => halfOf x.snap 0
    | 0x01C => halfOf x.snap 1
    | 0x020 => halfOf x.fqbase 0
    | 0x024 => halfOf x.fqbase 1
    | 0x028 => x.fqcfg
    | 0x02C => x.fqtail
    | 0x030 => x.fqhead
    | 0x060 => s.cstat n
    | _ => 0
  else if 0x200000 ≤ off ∧ off < 0x201000 then
    let w := c.windows.getD ((off - 0x200000) / 64) {}
    match off % 64 with
    | 0x00 => halfOf w.base 0
    | 0x04 => halfOf w.base 1
    | 0x08 => w.len
    | 0x0C => if w.pending then w.cfg % 2 ^ 31 else w.cfg
    | 0x10 => halfOf w.res 0
    | 0x14 => halfOf w.res 1
    | 0x18 => halfOf w.done 0
    | 0x1C => halfOf w.done 1
    | 0x20 => w.gen
    | _ => 0
  else if 0x400000 ≤ off ∧ off < 0x600000 then
    (s.journal.getD ((off - 0x400000) / 32) {}).bits / 2 ^ (8 * (off % 32)) % 2 ^ 32
  else 0

/-- `n` bytes of control space as a number. In recovery only the first 256 bytes answer (R365); a read that nothing answers gives all
ones. DEDUCED: notes/assumptions/70.md. -/
def State.ctlRead (s : State) (off n : Nat) : Nat :=
  if s.fw.recovery ∧ 0x100 < off + n then 2 ^ (8 * n) - 1
  else leNat ((List.range n).map fun i => BitVec.ofNat 8 (s.ctlWord ((off + i) / 4 * 4) / 2 ^ (8 * ((off + i) % 4))))

/-! ### Writing -/

/-- Half of a 64-bit register replaced. -/
def setHalf (x i w : Nat) : Nat := if i = 0 then x / 2 ^ 32 * 2 ^ 32 + w else w * 2 ^ 32 + x % 2 ^ 32

/-- Changes a queue. -/
def State.updQueue (s : State) (q : Nat) (f : SubQueue → SubQueue) : State :=
  { s with ctl := { s.ctl with queues := s.ctl.queues.put q {} (f (s.ctl.queues.getD q {})) } }

/-- Changes a window. -/
def State.updWindow (s : State) (w : Nat) (f : Window → Window) : State := s.setWindow w (f (s.ctl.windows.getD w {}))

/-- The fields of WCFG (R359). -/
def wcfgBits : Nat := 0x83FF00F3

/-- Stores a 4-byte word in a register that software writes; other offsets keep what they hold, and the reserved bits of ROOT and WCFG
stay zero (R4). -/
def State.ctlStore (s : State) (off w : Nat) : State :=
  if 0x100 ≤ off ∧ off < 0x200 then
    { s with ctl := { s.ctl with chown := (List.range 4).foldl (fun m i => m.put (off - 0x100 + i) 0 (w / 2 ^ (8 * i) % 256)) s.ctl.chown } }
  else if 0x10000 ≤ off ∧ off < 0x12000 then
    s.updQueue ((off - 0x10000) / 32) fun q =>
      match off % 32 with
      | 0x00 => { q with base := setHalf q.base 0 w }
      | 0x04 => { q with base := setHalf q.base 1 w }
      | 0x08 => { q with cfg := w }
      | 0x0C => { q with tail := w % 2 ^ 16 }
      | _ => q
  else if 0x100000 ≤ off ∧ off < 0x110000 then
    s.updCtx ((off - 0x100000) / 0x1000) fun x =>
      match off % 0x1000 with
      | 0x000 => { x with params := setHalf x.params 0 w }
      | 0x004 => { x with params := setHalf x.params 1 w }
      | 0x008 => { x with root := setHalf x.root 0 (w &&& 0xFFFFF001) }
      | 0x00C => { x with root := setHalf x.root 1 (w % 2 ^ 20) }
      | 0x010 => { x with save := setHalf x.save 0 w }
      | 0x014 => { x with save := setHalf x.save 1 w }
      | 0x018 => { x with snap := setHalf x.snap 0 w }
      | 0x01C => { x with snap := setHalf x.snap 1 w }
      | 0x020 => { x with fqbase := setHalf x.fqbase 0 w }
      | 0x024 => { x with fqbase := setHalf x.fqbase 1 w }
      | 0x028 => { x with fqcfg := w % 32 }
      | 0x030 => { x with fqhead := w % 2 ^ 16 }
      | _ => x
  else if 0x200000 ≤ off ∧ off < 0x201000 then
    s.updWindow ((off - 0x200000) / 64) fun x =>
      match off % 64 with
      | 0x00 => { x with base := setHalf x.base 0 w }
      | 0x04 => { x with base := setHalf x.base 1 w }
      | 0x08 => { x with len := w }
      | 0x0C =>
        let w := w &&& wcfgBits
        if Nat.testBit w 31 then { x with cfg := w, pending := x.pending || !Nat.testBit x.cfg 31 }
        else { x with cfg := w, pending := false, parts := [], full := [] }
      | 0x10 => { x with res := setHalf x.res 0 w }
      | 0x14 => { x with res := setHalf x.res 1 w }
      | 0x18 => { x with done := setHalf x.done 0 w }
      | 0x1C => { x with done := setHalf x.done 1 w }
      | _ => x
  else s

/-- A context parameter word is in range (R100). -/
def paramsOk (p : Nat) : Bool :=
  let lease := p / 2 ^ 32 % 2 ^ 10
  !(decide (1 ≤ lease) && decide (lease ≤ 15)) && decide (p / 2 ^ 16 % 2 ^ 12 ≠ 0) && decide (p % 2 ^ 12 ≤ 2048) &&
    decide (p / 2 ^ 42 = 0) && decide (p / 2 ^ 28 % 8 = 0) && decide (p / 2 ^ 12 % 16 = 0)

/-- A queue's SQCFG is in range (R353, R355). -/
def sqcfgOk (c : Nat) : Bool :=
  decide (6 ≤ c % 32) && decide (c % 32 ≤ 16) && decide (c / 2 ^ 5 % 8 = 0) && decide (c / 2 ^ 12 % 16 = 0) &&
    decide (c / 2 ^ 22 % 2 ^ 9 = 0)

/-- A window's WCFG is in range (R355, R359). -/
def wcfgOk (c : Nat) : Bool :=
  let kind := c % 4
  let ranks := c / 2 ^ 16 % 2 ^ 10
  let fmt := c / 2 ^ 4 % 16
  !Nat.testBit c 31 || (kind != 3 && decide (2 ≤ ranks) && decide (ranks ≤ 576) && (kind != 2 || [5, 6, 8, 9, 14].contains fmt))

/-- A RESOLVE or INVAL value is in range (R355): a length that is not 0, a range that does not pass 2^56. -/
def rangeOk (x : Nat) : Bool :=
  let base := x / 2 ^ 16 % 2 ^ 40 * 2 ^ 16
  let len := x / 2 ^ 64 % 2 ^ 32 * 2 ^ 16
  decide (len ≠ 0) && decide (base + len ≤ 2 ^ 56)

/-- The register at a word holds a value in range, in the state that a write would leave (R355).
DEDUCED: notes/assumptions/22.md. -/
def State.ctlOk (s : State) (off : Nat) : Bool :=
  if 0x10000 ≤ off ∧ off < 0x12000 then
    let q := s.ctl.queues.getD ((off - 0x10000) / 32) {}
    match off % 32 with
    | 0x08 => sqcfgOk q.cfg
    | 0x0C => decide (q.tail < q.entries)
    | _ => true
  else if 0x100000 ≤ off ∧ off < 0x110000 then
    let x := s.ctx ((off - 0x100000) / 0x1000)
    match off % 0x1000 with
    | 0x000 => paramsOk x.params
    | 0x004 => paramsOk x.params
    | 0x028 => decide (4 ≤ x.fqcfg) && decide (x.fqcfg ≤ 16)
    | 0x030 => decide (x.fqhead < 2 ^ x.fqcfg)
    | _ => true
  else if 0x200000 ≤ off ∧ off < 0x201000 then
    (if off % 64 = 0x0C then wcfgOk (s.ctl.windows.getD ((off - 0x200000) / 64) {}).cfg else true)
  else true

/-- Clears the fields of HSTAT in which a bit is written 1 (R352). -/
def hstatClear (h w : Nat) : Nat :=
  (if w / 2 ^ 16 % 2 ^ 16 ≠ 0 then 0 else h / 2 ^ 16 * 2 ^ 16) + (if w % 2 ^ 16 ≠ 0 then 0 else h % 2 ^ 16)

/-- A RESOLVE or INVAL value is answered, or refused (R353, R355). DEDUCED: notes/assumptions/22.md. -/
def State.rangeCommand (s : State) (ctx x : Nat) (inval : Bool) : State :=
  let base := x / 2 ^ 16 % 2 ^ 40 * 2 ^ 16
  let len := x / 2 ^ 64 % 2 ^ 32 * 2 ^ 16
  if !rangeOk x then s.countRefused
  else if inval then s.invalidateRange ctx base len
  else s.resolve ctx base len (Nat.testBit x 96)

/-- A write to CCTL (R353). -/
def State.cctl (s : State) (ctx w : Nat) : State :=
  let s := if Nat.testBit w 3 then s.updCtx ctx fun x => { x with debug := true } else s
  let s := if Nat.testBit w 4 then s.updCtx ctx fun x => { x with debug := false } else s
  let s := if Nat.testBit w 0 then s.requestPreempt ctx 3 else s
  let s := if Nat.testBit w 1 then s.resume ctx else s
  if Nat.testBit w 2 then s.discard ctx else s

/-- What a written word does beyond being stored: commands, and fields cleared by writing 1. -/
def State.ctlAct (s : State) (off w : Nat) : State :=
  if off = 0x0200 then (if w % 2 = 1 then s.chcmd else s)
  else if off = 0x0700 then { s with ctl := { s.ctl with hstat := hstatClear s.ctl.hstat w } }
  else if 0x10000 ≤ off ∧ off < 0x12000 ∧ off % 32 = 0x14 then
    s.updQueue ((off - 0x10000) / 32) fun q => { q with ref := Nat.land q.ref (0xFFFF - w % 2 ^ 16) }
  else if 0x100000 ≤ off ∧ off < 0x110000 ∧ off % 0x1000 = 0x064 then s.cctl ((off - 0x100000) / 0x1000) w
  else s

/-- The words that a write of bytes covers, each with the value that the register then gets: bytes not written keep what the
register reads, or zero where a command or a write-one-to-clear register reads as written. -/
def State.ctlWords (s : State) (off : Nat) (bs : List Byte) : List (Nat × Nat) :=
  (List.range ((off + bs.length + 3) / 4 - off / 4)).map fun j =>
    let a := (off / 4 + j) * 4
    let clears := a == 0x0700 || (decide (0x10000 ≤ a) && decide (a < 0x12000) && a % 32 == 0x14)
    (a, leNat ((List.range 4).map fun i =>
      if off ≤ a + i ∧ a + i < off + bs.length then (bs[a + i - off]?).getD 0
      else if clears then 0 else BitVec.ofNat 8 (s.ctlWord a / 2 ^ (8 * i))))

/-- Words that give CHCMD 1, from `s` with the registers stored to `t`, are refused (R355), and leave CHST so: while CHST reads 1, or while
a CHOWN byte would hold 17 or more. -/
def State.chcmdRefused (s t : State) (ws : List (Nat × Nat)) : Option Nat :=
  if !ws.any fun x => x.1 == 0x0200 && x.2 % 2 == 1 then none
  else if s.ctl.chst = 1 then some 1
  else if t.ctl.chown.any fun x => 17 ≤ x.2 then some 2
  else none

/-- A write of bytes to control space (R355): refused whole if any register it covers would leave its range. RESOLVE and INVAL
act on a write of their 16 bytes (R354). In recovery nothing here answers (R365). -/
def State.ctlWrite (s : State) (off : Nat) (bs : List Byte) : State :=
  if s.fw.recovery then s
  else if bs.length = 16 ∧ 0x100000 ≤ off ∧ off < 0x110000 ∧ (off % 0x1000 = 0x040 ∨ off % 0x1000 = 0x050) then
    s.rangeCommand ((off - 0x100000) / 0x1000) (leNat bs) (off % 0x1000 == 0x050)
  else
    let ws := s.ctlWords off bs
    let t := ws.foldl (fun s x => s.ctlStore x.1 x.2) s
    match s.chcmdRefused t ws with
    | some n => ({ s with ctl := { s.ctl with chst := n, change := if n = 1 then s.ctl.change else none } } : State).countRefused
    | none => if ws.all fun x => t.ctlOk x.1 then ws.foldl (fun s x => s.ctlAct x.1 x.2) t else s.countRefused

/-- A write of a number in `n` bytes. -/
def State.ctlPut (s : State) (off n x : Nat) : State := s.ctlWrite off (leBytes n x)

/-! ### The events that are control-space writes -/

/-- R281, R353: the doorbell of a queue. -/
def execSqtailDoorbell (queue value : Nat) (s : State) : Out := .next (s.ctlPut (0x10000 + 32 * (queue % 256) + 0x0C) 4 (value % 2 ^ 32))

/-- R356. -/
def execChcmdApply (value : Nat) (s : State) : Out := .next (s.ctlPut 0x0200 4 (value % 2 ^ 32))

/-- R356, step 2: a waiting change goes on once the contexts it concerns are idle. -/
def execChannelChangeProceed (s : State) : Out :=
  .next (match s.ctl.change with
    | some (t, 2) => if s.changeIdle t then { s with ctl := { s.ctl with chst := 1, change := some (t, 3) } } else s
    | _ => s)

/-- R356, steps 3 to 5. DESIGN CHOICE: notes/assumptions/64.md. -/
def execChannelZeroingComplete (s : State) : Out :=
  .next (match s.ctl.change with
    | some (t, 3) => s.applyChange t
    | _ => s)

/-- R352. -/
def execHstatClear (value : Nat) (s : State) : Out := .next (s.ctlPut 0x0700 4 (value % 2 ^ 32))

/-- R353. DEDUCED: notes/assumptions/14.md. -/
def execSqrefClear (queue value : Nat) (s : State) : Out := .next (s.ctlPut (0x10000 + 32 * (queue % 256) + 0x14) 4 (value % 2 ^ 32))

/-- The 16 bytes of a RESOLVE or INVAL write, for a base and a length in 64 KiB units. -/
def rangeValue (base len : Nat) (abort : Bool) : Nat :=
  base % 2 ^ 40 * 2 ^ 16 + len % 2 ^ 32 * 2 ^ 64 + (if abort then 2 ^ 96 else 0)

/-- The control block of a context. -/
def ctxBlock (ctx : Nat) : Nat := 0x100000 + 0x1000 * (ctx % 16)

/-- R332. -/
def execResolveRetry (ctx base len : Nat) (s : State) : Out := .next (s.ctlPut (ctxBlock ctx + 0x040) 16 (rangeValue base len false))

/-- R332. -/
def execResolveAbort (ctx base len : Nat) (s : State) : Out := .next (s.ctlPut (ctxBlock ctx + 0x040) 16 (rangeValue base len true))

/-- R333. -/
def execInvalRequest (ctx base len : Nat) (s : State) : Out := .next (s.ctlPut (ctxBlock ctx + 0x050) 16 (rangeValue base len false))

/-- R318. -/
def execCctlPreempt (ctx : Nat) (s : State) : Out := .next (s.ctlPut (ctxBlock ctx + 0x064) 4 1)

/-- R327. -/
def execCctlResume (ctx : Nat) (s : State) : Out := .next (s.ctlPut (ctxBlock ctx + 0x064) 4 2)

/-- R353. -/
def execCctlDiscard (ctx : Nat) (s : State) : Out := .next (s.ctlPut (ctxBlock ctx + 0x064) 4 4)

/-- R316, R353. -/
def execCctlDebugEnable (ctx : Nat) (s : State) : Out := .next (s.ctlPut (ctxBlock ctx + 0x064) 4 8)

/-- R353. -/
def execCctlDebugDisable (ctx : Nat) (s : State) : Out := .next (s.ctlPut (ctxBlock ctx + 0x064) 4 16)

/-- The value that enabling or disabling gives WCFG. -/
def wcfgValue (value : Nat) (on : Bool) : Nat := value % 2 ^ 31 + (if on then 2 ^ 31 else 0)

/-- R359: a write of WCFG with enable set. -/
def execWindowEnable (win value : Nat) (s : State) : Out := .next (s.ctlPut (0x200000 + 64 * (win % 64) + 0x0C) 4 (wcfgValue value true))

/-- R364: a write of WCFG with enable clear discards partial sums. -/
def execWindowDisable (win value : Nat) (s : State) : Out := .next (s.ctlPut (0x200000 + 64 * (win % 64) + 0x0C) 4 (wcfgValue value false))

/-- R359. -/
def execWindowRegistrationComplete (win : Nat) (s : State) : Out :=
  .next (if (s.ctl.windows.getD win {}).pending then s.updWindow win fun w => { w with pending := false } else s)

/-- R355: any other write of `size` bytes. -/
def execControlSpaceWrite (offset size value : Nat) (s : State) : Out := .next (s.ctlPut (offset % 2 ^ 32) size value)

/-- Whether a page with an entry's attributes lies in a range (R89). -/
def unpins (ts : List Tlb) (p : Pin) : Bool :=
  ts.any fun t => ptePa t.leaf.toNat == p.base && t.size == p.size && pteHome t.leaf.toNat == p.home

/-- A context has accesses under way by a translation already made: those of bank operations and of `swp.queue`, requests on the CXL.io
path, and engine writes that have still to perform (R333). -/
def State.usesOld (s : State) (ctx : Nat) : Bool :=
  (s.ops.any fun o => o.ctx == ctx && (match o.kind with
    | .bank _ _ _ _ _ _ _ _ _ => true
    | .queue _ _ => true
    | _ => false)) ||
    s.late.any (fun w => w.ctx == ctx) || (s.strandsOf ctx).any fun x => x.2.2.host != []

/-- R333: once the accesses that used them have performed, the translations of the ranges under invalidation are dropped on every die,
and the pages they pinned unpinned (R89). -/
def execInvalidationComplete (ctx : Nat) (s : State) : Out :=
  if s.usesOld ctx then .next s else
  let rs := s.coh.invals.filter fun x => x.1 == ctx
  let hit (t : Tlb) : Bool := t.ctx == ctx && rs.any fun r => overlaps t.va (t.va + t.size) r.2.1 (r.2.1 + r.2.2)
  let gone := s.coh.tlb.filter hit
  .next { s with coh := { s.coh with
    invals := s.coh.invals.filter fun x => x.1 != ctx
    tlb := s.coh.tlb.filter fun t => !hit t
    pins := s.coh.pins.filter fun p => !unpins gone p } }

/-- R351. -/
def execAtomicopRoutingEnable (enable : Bool) (s : State) : Out := .next { s with ctl := { s.ctl with atomicRouting := enable } }

end Sys2Proof.Machine
end

