-- ==== Sys2Proof/Machine/Mem.lean ====
section
/-!
DEFINITION. Thread accesses to memory, OP 0x1A to 0x1F (R103 to R111), and fences and cache control, OP 0x21 (R112 to R114).
-/

namespace Sys2Proof.Machine

/-! ### Reaching memory (R104, R105, R138, R244, R331) -/

/-- Runs a per-strand effect for each active strand, in ascending home lane. -/
def State.eachLane (s : State) (f : Lane → State → State) : State := s.active.foldl (fun t m => f m t) s

/-- The context and core of the sheaf. -/
def State.ctxNo (s : State) : Nat := s.clp.ctx
def State.coreOf (s : State) : Nat := s.clp.coreNo

/-- The address ranges that an open tape protects: its region, and its spill area if it has one (R243, R244). -/
def Tape.ranges (t : Tape) : List (Nat × Nat) :=
  let w (i : Nat) : Nat := ((t.desc[i]?).getD 0).toNat
  let base := w 0 + w 1 * 2 ^ 32
  let spill := w 4 + w 5 * 2 ^ 32
  if t.mode = 0 then []
  else [(base, base + (w 2 + w 3 * 2 ^ 32)), (spill, spill + w 6 * 2 ^ 16)].filter fun r => decide (r.1 < r.2)

/-- The bands of a context on a core. -/
def State.bandsOn (s : State) (core ctx : Nat) : List Band :=
  (s.clumps.filter fun x => x.2.place == .resident && x.2.ctx == ctx && x.2.coreNo == core).flatMap fun x => x.2.bands

/-- What a thread access of `n` bytes conflicts with: a range-lock entry, or for a write an open tape; the trap detail. -/
def State.conflict (s : State) (core ctx va n : Nat) (write : Bool) : Option Nat :=
  match s.lockedFor core ctx none va n write with
  | some l => some l.detail
  | none =>
    if write then
      ((s.bandsOn core ctx).find? fun b => b.tape.ranges.any fun r => overlaps r.1 r.2 va (va + n)).map fun b => lockDetail b none
    else none

/-- Where a thread access lands: memory, with the page's HOME, or control space. -/
inductive Reach where
  | mem (pa home : Nat)
  | control (off : Nat)
  deriving DecidableEq, Repr

/-- A trap that reports a virtual address. -/
def vaTrap (c : Cause) (va : Nat) (detail : Nat := 0) : Trap := { cause := c, addr := va % 2 ^ 56, detail := detail }

/-- A strand's access parks on a replayable fault, which is noted for the context's fault queue (R331). -/
def State.parkFault (s : State) (m : Lane) (va level pte base size code : Nat) (park : Nat) : State :=
  let c := s.clp
  let b := s.bnd m
  (s.noteFault c.ctx c.die va level pte base size code b.slot b.quad c.core).hold m (.xlate va park)

/-- Aligns and translates an access of `n` bytes and checks it against the range locks: a conflicting access traps, and never waits
(R138). An error is the state in which the strand has trapped or parked. -/
def State.reach (s : State) (m : Lane) (va n : Nat) (k : Kind) : Except State (Reach × State) :=
  let locked := s.conflict s.coreOf s.ctxNo va n k.writes
  let clash (d : Nat) : State := s.trap m (vaTrap .rangeConflict va d)
  if va % n ≠ 0 then .error (s.trap m (vaTrap .misaligned va))
  else
    match s.translate s.ctxNo va n k, locked with
    | .bad c, _ => .error (s.trap m (vaTrap c va))
    | .absent level pte base size, none => .error (s.parkFault m va level pte base size k.code k.code)
    | .migrating, none => .error (s.hold m (.migrating va))
    | .ok pa e base size pin, none =>
      match if k.writes then s.lutAt s.coreOf s.ctxNo pa else none with
      | some o => .error (clash (lockDetail (s.band o.clump o.band) none))
      | none =>
        let s := s.useLeaf s.ctxNo base size e pin
        if s.ctl.place pa = .control then .ok (.control (pa - controlBase), s) else .ok (.mem pa (pteHome e), s)
    | _, some d => .error (clash d)

/-! ### Slice ports (R100, R101) -/

/-- The priority of the sheaf's planting. -/
def State.prioOf (s : State) (c : Nat) : Nat := (s.plantingOf c).prio

/-- A request that moves a line pays a token at its slice's port, once; it waits there while its bucket is empty, with any other strand of
its clump that needs the line, for the one transfer. A token that it was given and turns out not to need is lost (R101).
DEDUCED: notes/assumptions/24.md. -/
def State.port (s : State) (m : Lane) (pa : Nat) (moves : Bool) : Except State State :=
  let slice := s.ctl.homeSlice pa
  let c := s.sh.clump
  let mine (r : PortReq) : Bool := r.granted && r.slice == slice && r.clump == c && r.lane == m
  if s.coh.waiting.any mine then .ok { s with coh := { s.coh with waiting := s.coh.waiting.filter fun r => !mine r } }
  else if !moves then .ok s
  else if s.noToken slice s.ctxNo then
    let r : PortReq := { slice := slice, ctx := s.ctxNo, prio := s.prioOf c, clump := c, lane := m, line := lineOf pa }
    let asked := s.coh.waiting.any fun x => !x.granted && x.op.isNone && x.slice == slice && x.line == r.line && x.clump == c
    let t := if asked then s
      else { s with coh := { s.coh with waiting := s.coh.waiting ++ [r], idle := s.coh.idle.filter (· != bucketKey slice s.ctxNo) } }
    .error (t.hold m (.port slice))
  else .ok (s.spendToken slice s.ctxNo)

/-! ### The CXL.io path (R87, R110, R128, R351) -/

/-- The registers that a loaded value is written to: one, extended, or consecutive words with the lowest bytes first. -/
def loadWrites (t n : Nat) (signed : Bool) (x : Nat) : List RegWrite :=
  if n ≤ 4 then [.v t (if signed then (BitVec.ofNat (8 * n) x).signExtend 32 else BitVec.ofNat 32 x)]
  else writeWords t ((List.range (n / 4)).map fun i => BitVec.ofNat 32 (x / 2 ^ (32 * i)))

/-- The parts in which an access of `n` bytes travels: 8 bytes at most (R87). -/
def hostParts (n : Nat) : List (Nat × Nat) := if n ≤ 8 then [(0, n)] else [(0, 8), (8, n - 8)]

/-- A strand sends requests. Those of an acquire hold the strand's later words until they are complete (R108). -/
def State.hostSend (s : State) (m : Lane) (ws : List RegWrite) (qs : List HostReq) : State :=
  let acq := s.sh.ext.order % 2 == 1
  s.updStr m fun t =>
    let t := if ws = [] then t else t.supersede ws
    { t with host := t.host ++ qs.map fun q => { q with acq := acq }, marker := t.marker || acq }

/-- A load. -/
def State.hostLoad (s : State) (m : Lane) (pa t n : Nat) (signed : Bool) : State :=
  s.hostSend m (loadWrites t n signed 0) ((hostParts n).map fun p => { pa := pa + p.1, act := .read (t + p.1 / 4) p.2 signed })

/-- The writes of bytes. -/
def hostWrites (pa : Nat) (bs : List Byte) : List HostReq :=
  (hostParts bs.length).map fun p => { pa := pa + p.1, act := .write ((bs.drop p.1).take p.2) }

/-- Atomics that an AtomicOp request carries (R351): FetchAdd, Swap and CAS. -/
def AtomFn.routable : AtomFn → Bool
  | .add => true
  | .xchg => true
  | .cas => true
  | _ => false

/-- An atomic: a single request, or a read and the writes that follow it (R110). `tag` names the instruction whose strands perform in lane
order at one address (R107). -/
def State.hostUpdate (s : State) (m : Lane) (pa : Nat) (op : AtomOp) (d : Option Nat) (tag : Nat) : State :=
  let ws := (d.map fun r => loadWrites r op.n false 0).getD []
  let act : HostAct := if s.ctl.atomicRouting && op.fn.routable then .update op d else .fetch op d []
  ({ s with uid := Nat.max s.uid (tag + 1) } : State).hostSend m ws [{ pa := pa, act := act, group := some (tag, pa) }]

/-- A request of a strand waits: a lower lane of its sheaf has still to update the same bytes (R107, R109). -/
def State.hostBehind (s : State) (c : Nat) (m : Lane) (q : HostReq) : Bool :=
  q.group.isSome && (s.clump c).bands.any fun b => b.strands.any fun x => decide (x.1 < m.lane) && x.2.host.any fun y => y.group == q.group

/-- The registers that a request's results go to, less those that a later word has written since (R15). -/
def HostReq.regs (q : HostReq) : List Nat :=
  let span (r n : Nat) : List Nat := (List.range ((n + 3) / 4)).map (r + ·)
  (match q.act with
   | .read t n _ => span t n
   | .write _ => []
   | .update op d => (d.map fun r => span r op.n).getD []
   | .fetch op d _ => (d.map fun r => span r op.n).getD []).filter fun r => !q.dead.contains r

/-- Results of a request return: registers that a later word has written since keep their values (R15). A register of the slot map that no
word of the region has written was still to be written when the region began: its value at the head is what comes now (R159). -/
def Strand.hostReturn (t : Strand) (q : HostReq) (ws : List RegWrite) : Strand :=
  let ws := ws.filter fun w => !q.dead.contains w.key
  let u := t.applyAll ws
  { u with out := (dropKeys ws t.out).filter (· != [])
           fast := (t.fast.zip t.super).map fun x => if !x.2 && ws.any (·.key == x.1.1) then (x.1.1, u.reg x.1.1) else x.1 }

/-- Requests of a strand are still to write live-in registers of its region (R159). -/
def Strand.hostLiveIn (t : Strand) : Bool := t.host.any fun q => q.regs.any fun r => t.fast.any fun x => x.1 == r

/-- A request of a strand performs at the host and completes; the read of an update that no AtomicOp request carries leaves its writes
to follow. Accesses on this path are in no order with any other (R128). -/
def State.hostPerform (s : State) (c : Nat) (m : Lane) (i : Nat) : State :=
  match (s.strand c m).host[i]? with
  | none => s
  | some q =>
    if s.hostBehind c m q then s else
    let put (s : State) (new : List HostReq) (ws : List RegWrite) : State :=
      s.updStrand c m fun t => ({ t with host := t.host.take i ++ new ++ t.host.drop (i + 1) } : Strand).hostReturn q ws
    let old (d : Option Nat) (op : AtomOp) (x : Nat) : List RegWrite := (d.map fun r => loadWrites r op.n false x).getD []
    match q.act with
    | .read t n signed =>
      let r := s.agentRead 0 q.pa n
      put r.2 [] (loadWrites t n signed (leNat r.1))
    | .write bs => put (s.agentWrite 0 q.pa bs).2 [] []
    | .update op d =>
      let r := s.agentUpdate 0 q.pa op
      put r.2.2 [] (old d op r.2.1)
    | .fetch op d got =>
      let r := s.agentRead 0 (q.pa + got.length) (Nat.min 8 (op.n - got.length))
      let bs := got ++ r.1
      if bs.length < op.n then put r.2 [{ q with act := .fetch op d bs }] []
      else put r.2 ((hostWrites q.pa (leBytes op.n (op.apply (leNat bs)))).map fun w =>
        { w with acq := q.acq, group := q.group }) (old d op (leNat bs))

/-! ### Loads and stores (R104, R106) -/

/-- Whether a policy is own or wi. -/
def ownOrWi (pol : Nat) : Bool := pol == 0 || pol == 3

/-- An access under a policy takes "policy fault" (R62): own or wi, where a page's policies count, in a sweep's region. -/
def State.polFault (s : State) (pa home pol : Nat) : Bool := ownOrWi pol && (home == 0 || home == 2) && s.restricted pa

/-- The value that a strand stores: `n` bytes from register `t` on. -/
def State.storeValue (s : State) (m : Lane) (t n : Nat) : Nat :=
  ((List.range ((n + 3) / 4)).foldl (fun a i => a + ((s.str m).reg (t + i)).toNat * 2 ^ (32 * i)) 0) % 2 ^ (8 * n)

/-- A strand's load from `va`, with its result a short-latency one. -/
def State.loadLane (s : State) (m : Lane) (va t n pol : Nat) (signed : Bool) : State :=
  match s.reach m va n .read with
  | .error s => s
  | .ok (.control off, s) => s.updStr m fun x => x.push (loadWrites t n signed (s.ctlRead off n))
  | .ok (.mem pa home, s) =>
    if s.polFault pa home pol then s.trap m (vaTrap .policy va)
    else
      match s.port m pa (s.needsLine s.coreOf s.ctxNo pa n pol home s.sh.ext.cache false) with
      | .error s => s
      | .ok s =>
        if s.poisoned pa n then s.trap m (vaTrap .poison va)
        else if s.isIo pa home then s.hostLoad m pa t n signed
        else
          let r := s.loadAt s.coreOf s.ctxNo pa n pol home s.sh.ext.cache
          r.2.updStr m fun x => x.push (loadWrites t n signed r.1)

/-- The engine operations of a band that are accepted and not complete. -/
def State.opsOf (s : State) (c b : Nat) : List Nat :=
  (s.ops.filter fun o => o.clump == c && o.band == b && o.kind != .close).map (·.id)

/-- Engine writes of a band that lie within a scope and have not performed (R124). -/
def State.lateIn (s : State) (c b scope : Nat) : Bool := s.late.any fun w => w.clump == c && w.band == b && decide (w.need ≤ scope)

/-- Whether engine operations of a band, or their writes within a scope, are still to come (R113). -/
def State.enginesLeft (s : State) (c b scope : Nat) (ops : List Nat) : Bool :=
  (ops.any fun i => s.ops.any fun o => o.id == i) || s.lateIn c b scope

/-- Whether a release of a strand at a scope waits: for its band's engine operations, their writes within the scope, and at system
scope, for its own requests on the CXL.io path (R108, R113, R126). -/
def State.unreleased (s : State) (c : Nat) (m : Lane) (scope : Nat) (ops : List Nat) : Bool :=
  s.enginesLeft c m.band scope ops || (scope == 6 && (s.strand c m).host != [])

/-- A release performs after its band's earlier engine operations have completed, and past their events (R108): until then the strand
is parked, and goes on at this word. System scope counts for host-attached memory (R105). -/
def State.release (s : State) (m : Lane) (host : Bool) : Except State State :=
  let scope := if host then s.sh.ext.scope else Nat.min s.sh.ext.scope 5
  let ops := s.opsOf s.sh.clump m.band
  if s.sh.ext.order < 2 then .ok s
  else if s.unreleased s.sh.clump m scope ops then .error (s.hold m (.fence 4 scope ops))
  else .ok (s.passEngine s.sh.clump m.band)

/-- What lies at the place of an access is host-attached memory. -/
def State.onHost (s : State) : Reach → Bool
  | .mem pa _ => s.ctl.place pa == .host
  | .control _ => false

/-- A reduction window that takes sums lies at an address (R364). -/
def State.sumWindow (s : State) (pa : Nat) : Option (Nat × Window) :=
  match s.windowAt pa with
  | some (n, w) => if w.kind = 0 then none else some (n, w)
  | none => none

/-- A strand's store to `va`. -/
def State.storeLane (s : State) (m : Lane) (va t n pol : Nat) : State :=
  let x := s.storeValue m t n
  match s.reach m va n .write with
  | .error s => s
  | .ok (where_, s) =>
    match s.release m (s.onHost where_) with
    | .error s => s
    | .ok s =>
      match where_ with
      | .control off => s.ctlPut off n x
      | .mem pa home =>
        if s.polFault pa home pol || (s.sumWindow pa).isSome then s.trap m (vaTrap .policy va)
        else
          match s.port m pa (s.needsLine s.coreOf s.ctxNo pa n pol home s.sh.ext.cache true) with
          | .error s => s
          | .ok s =>
            if s.isIo pa home then s.hostSend m [] (hostWrites pa (leBytes n x))
            else s.storeAt s.coreOf s.ctxNo pa (leBytes n x) pol home s.sh.ext.cache

/-- A load of `n` bytes by each active strand. -/
def State.load (s : State) (t base : BitVec 7) (off : BitVec 6) (pol : BitVec 2) (n : Nat) (signed : Bool) : State :=
  s.eachLane fun m u => u.loadLane m (s.addrM m base off n).toNat t.toNat n pol.toNat signed

/-- A store of `n` bytes by each active strand; a release ends the region (R156). DEDUCED: notes/assumptions/19.md. -/
def State.store (s : State) (t base : BitVec 7) (off : BitVec 6) (pol : BitVec 2) (n : Nat) : State :=
  let u := s.eachLane fun m u => u.storeLane m (s.addrM m base off n).toNat t.toNat n pol.toNat
  if 2 ≤ s.sh.ext.order then u.endRegion else u

/-! ### Atomics (R107, R109) -/

/-- The strands of a sheaf grouped by the address they name, in ascending home lane within a group. Whether the address that R107 groups by
is the virtual or the physical one the spec does not say, where two virtual addresses name one word: the model takes the virtual one
(DESIGN CHOICE, notes/assumptions/99.md). -/
def groupByAddr (xs : List (Lane × Nat)) : List (Lane × Nat) :=
  ((xs.map (·.2)).dedup).flatMap fun a => xs.filter fun x => x.2 == a

/-- A disabled F32-sum window lies at an address: a contribution to it performs at home as an ordinary write (R364). -/
def State.idleSum (s : State) (pa : Nat) : Bool :=
  s.ctl.windows.any fun x => !x.2.on && x.2.kind == 1 && decide (x.2.base ≤ pa) && decide (pa < x.2.base + x.2.len)

/-- An ordinary write of a strand that performs at home. -/
def State.putHome (s : State) (m : Lane) (pa home : Nat) (bs : List Byte) : State :=
  if s.isIo pa home then s.hostSend m [] (hostWrites pa bs)
  else
    let r := s.writeHome (s.cts s.coreOf) pa bs
    (r.2.raise s.coreOf r.1).tagHome s.ctxNo (lineOf pa)

/-- A strand's update of the bytes at `va`, with the old value going to the registers from `d` on, if to any. In a window that takes F32
sums a `red.fadd` is a contribution (R361, R364). DEDUCED: notes/assumptions/29.md. -/
def State.updateLane (s : State) (m : Lane) (va : Nat) (op : AtomOp) (d : Option Nat) (tag : Nat) : State :=
  let ws (old : Nat) : List RegWrite := (d.map fun r => loadWrites r op.n false old).getD []
  match s.reach m va op.n .atomic with
  | .error s => s
  | .ok (where_, s) =>
    match s.release m (s.onHost where_) with
    | .error s => s
    | .ok s =>
      match where_ with
      | .control off =>
        let old := s.ctlRead off op.n
        (s.ctlPut off op.n (op.apply old)).updStr m fun x => x.push (ws old)
      | .mem pa home =>
        match s.sumWindow pa with
        | some (k, w) =>
          if w.kind = 1 ∧ op.fn = .fadd ∧ d = none then s.contribute k ((pa - w.base) / 4) (leBytes 4 op.x)
          else s.trap m (vaTrap .policy va)
        | none =>
          if d.isSome ∧ s.poisoned pa op.n then s.trap m (vaTrap .poison va)
          else if op.fn = .fadd ∧ d = none ∧ s.idleSum pa then s.putHome m pa home (leBytes 4 op.x)
          else if s.isIo pa home then s.hostUpdate m pa op d tag
          else
            let r := s.updateAt s.coreOf s.ctxNo pa op
            r.2.updStr m fun x => x.push (ws r.1)

/-- An update by each active strand at the address in A, each with its own operands. -/
def State.atomic (s : State) (a : BitVec 7) (op : Lane → AtomOp) (d : Option Nat) : State :=
  let xs := groupByAddr (s.active.map fun m => (m, (s.opA64 m a).toNat))
  (xs.foldl (fun u x => u.updateLane x.1 x.2 (op x.1) d s.uid) s).endRegion

/-- The width of an atomic: 8 bytes under W64. -/
def Ext.atomBytes (x : Ext) : Nat := if x.mode.getLsbD 1 then 8 else 4

/-- The operand in field B, of `n` bytes. -/
def State.operand (s : State) (m : Lane) (b : BitVec 7) (n : Nat) : Nat :=
  (List.range (n / 4)).foldl (fun a i => a + (s.opBword m b i).toNat * 2 ^ (32 * i)) 0

/-- The operand in field E. -/
def State.operandE (s : State) (m : Lane) (n : Nat) : Nat :=
  (List.range (n / 4)).foldl (fun a i => a + ((s.str m).reg (s.sh.ext.e.toNat + i)).toNat * 2 ^ (32 * i)) 0

/-- The U bit of MODE8: unsigned compares. -/
def State.isU (s : State) : Bool := s.sh.ext.mode.getLsbD 0

/-- The operands of a strand's atomic of `n` bytes: B, and E for a compare-and-swap. -/
def State.atomOp (s : State) (b : BitVec 7) (fn : AtomFn) (n : Nat) (m : Lane) : AtomOp :=
  { fn := fn, n := n, unsigned := s.isU, x := s.operand m b n, new := if fn = .cas then s.operandE m n else 0 }

/-- An atomic: the old value goes to D. -/
def State.atom (s : State) (d a b : BitVec 7) (fn : AtomFn) (n : Nat) : State := s.atomic a (s.atomOp b fn n) (some d.toNat)

/-- A reduction: nothing is returned. DEDUCED: notes/assumptions/28.md. -/
def State.reduce (s : State) (a b : BitVec 7) (fn : AtomFn) (n : Nat) : State := s.atomic a (s.atomOp b fn n) none

/-- The width that MODE8 gives. -/
def State.atomN (s : State) : Nat := s.sh.ext.atomBytes

/-! ### Fences (R113) -/

/-- The sweeps that a `fence.sw` waits for: non-deltas sweeps of the context that are running, by slot and generation. -/
def State.runningSweeps (s : State) (ctx : Nat) : List Nat :=
  (s.dram.sweeps.filter fun w => w.ctx == ctx && !w.deltas && !w.complete).map fun w => w.gen * 32 + w.slot

/-- Updates that a band has queued and that are not applied. -/
def State.bandUpdates (s : State) (c b : Nat) : Bool := s.dram.deltas.any fun x => x.2.any fun d => d.clump == c && d.band == b

/-- Whether a fence of a strand still waits: for the sweeps it names and the band's updates; for the strand's requests on the CXL.io
path; or as a release. A fence that only acquires waits for nothing. -/
def State.fenceWaits (s : State) (c : Nat) (m : Lane) (fn scope : Nat) (ops : List Nat) : Bool :=
  match fn with
  | 3 => ops.any ((s.runningSweeps (s.clump c).ctx).contains ·) || s.bandUpdates c m.band
  | 5 => false
  | 6 => (s.strand c m).host != []
  | 7 => (s.strand c m).hostLiveIn
  | 1 => s.enginesLeft c m.band scope ops
  | 2 => s.unreleased c m 6 ops
  | _ => s.unreleased c m scope ops

/-- What a fence makes of its core's clock: `fence.sw` acquires every restore it waited for (R127), and a release passes the band's
engine events (R126). -/
def State.fenced (s : State) (c b fn : Nat) : State :=
  match fn with
  | 3 => s.raise (s.clump c).coreNo s.horizon
  | 4 => s
  | 5 => s
  | 6 => s
  | 7 => s
  | _ => s.passEngine c b

/-- A fence: it completes at once, or parks the strand. In a chain of several words the whole chain waits for the strand, since all its
words issue together (R11); the fence has then been waited for when the chain issues again. DEDUCED: notes/assumptions/32.md. -/
def State.fence (s : State) (fn : Nat) (ops : Lane → List Nat) : State :=
  (s.eachLane fun m u =>
    if u.fenceWaits s.sh.clump m fn s.sh.ext.scope (ops m) && !(s.str m).fenced then
      let on : ParkOn := .fence fn s.sh.ext.scope (ops m)
      if s.sh.solo then u.parkAt m on else u.hold m on
    else u.fenced s.sh.clump m.band fn).endRegion

/-- R113: a parked fence completes, and its strand goes on. DEDUCED: notes/assumptions/32.md. -/
def execFenceComplete (clump band lane : Nat) (s : State) : Out :=
  let m : Lane := ⟨band, lane⟩
  .next (match (s.strand clump m).park with
    | some ⟨.fence fn scope ops, _, next⟩ =>
      if s.fenceWaits clump m fn scope ops then s
      else
        let s := (s.fenced clump band fn).unpark clump m
        if next.isNone && fn < 4 then s.updStrand clump m fun t => { t with fenced := true } else s
    | _ => s)

/-! ### Cache control (R113, R114) -/

/-- The line that a strand names, with its page's HOME, where its translation succeeds and its page may be cached in this L1. A prefetch
or `lease.renew` through a leaf that pins its page neither pins the page nor keeps the translation: the spec does not say whether it is
the first access that pins (DESIGN CHOICE, notes/assumptions/91.md). Nor does it say which word's version sets the time of an act on a
line: the model takes the line's first word (DESIGN CHOICE, notes/assumptions/97.md). -/
def State.lineFor (s : State) (m : Lane) (a : BitVec 7) : Option (Nat × Nat) :=
  match s.translate s.ctxNo (s.opA64 m a).toNat 1 .read with
  | .ok pa e _ _ _ => if pteHome e = 1 ∨ pteHome e = 3 then none else some (pa / 128 * 128, pteHome e)
  | _ => none

/-- Whether an address cannot be translated now. -/
def State.unreachable (s : State) (m : Lane) (a : BitVec 7) : Bool :=
  match s.translate s.ctxNo (s.opA64 m a).toNat 1 .read with
  | .ok _ _ _ _ _ => false
  | _ => true

/-- An action on the lines that the strands name, once for each line, for its lowest strand: its answer goes to every strand that names
the line. Where that strand waits at a port, the line's other strands wait with it. DEDUCED: notes/assumptions/27.md. -/
def State.onLines (s : State) (a : BitVec 7) (f : Lane → Nat → Nat → State → Except State (Bool × State))
    (give : Lane → Bool → State → State := fun _ _ u => u) : State :=
  let xs := s.active.filterMap fun m => (s.lineFor m a).map fun l => (m, l)
  ((xs.map (·.2)).dedup).foldl (fun u l =>
    match (xs.filter fun x => x.2 == l).map (·.1) with
    | [] => u
    | m :: ms =>
      match f m l.1 l.2 u with
      | .ok (b, u) => (m :: ms).foldl (fun u x => give x b u) u
      | .error u => ms.foldl (fun u x => u.hold x (.port (s.ctl.homeSlice l.1))) u) s

/-- The L1 copy of this core under the context's own tag. -/
def State.myCopy (s : State) (pa : Nat) : Option L1Line := (s.l1 s.coreOf (lineOf pa)).filter fun l => l.ctx == s.ctxNo

/-- Renews a lease now (R95): whether no data moved, and the state. It performs as a load of the line's first word
(DESIGN CHOICE, notes/assumptions/97.md). -/
def State.renew (s : State) (pa : Nat) : Bool × State :=
  let line := lineOf pa
  match s.myCopy pa with
  | some l =>
    if l.st ≠ .lease then (true, s)
    else
      let h := (s.recall line).homeLine line
      let same := (List.range 32).all fun w => h.wtsOf w == l.wts.getD w l.base
      (same, ((s.recall line).loadLease s.coreOf s.ctxNo pa 4).2)
  | none => (false, (((s.dropForeign s.coreOf s.ctxNo line).loadLease s.coreOf s.ctxNo pa 4).2).tagHome s.ctxNo line)

/-! ### The instructions -/

/-- R104. -/
def execLdB (t base : BitVec 7) (off : BitVec 6) (pol : BitVec 2) (s : State) : Out := .next (s.load t base off pol 1 false)
/-- R104. -/
def execLdH (t base : BitVec 7) (off : BitVec 6) (pol : BitVec 2) (s : State) : Out := .next (s.load t base off pol 2 false)
/-- R104. -/
def execLdW (t base : BitVec 7) (off : BitVec 6) (pol : BitVec 2) (s : State) : Out := .next (s.load t base off pol 4 false)
/-- R104. -/
def execLdD (t base : BitVec 7) (off : BitVec 6) (pol : BitVec 2) (s : State) : Out := .next (s.load t base off pol 8 false)
/-- R106. -/
def execLdQ (t base : BitVec 7) (off : BitVec 6) (pol : BitVec 2) (s : State) : Out := .next (s.load t base off pol 16 false)
/-- R104. -/
def execLdsB (t base : BitVec 7) (off : BitVec 6) (pol : BitVec 2) (s : State) : Out := .next (s.load t base off pol 1 true)
/-- R104. -/
def execLdsH (t base : BitVec 7) (off : BitVec 6) (pol : BitVec 2) (s : State) : Out := .next (s.load t base off pol 2 true)
/-- R104. -/
def execStB (t base : BitVec 7) (off : BitVec 6) (pol : BitVec 2) (s : State) : Out := .next (s.store t base off pol 1)
/-- R104. -/
def execStH (t base : BitVec 7) (off : BitVec 6) (pol : BitVec 2) (s : State) : Out := .next (s.store t base off pol 2)
/-- R104. -/
def execStW (t base : BitVec 7) (off : BitVec 6) (pol : BitVec 2) (s : State) : Out := .next (s.store t base off pol 4)
/-- R104. -/
def execStD (t base : BitVec 7) (off : BitVec 6) (pol : BitVec 2) (s : State) : Out := .next (s.store t base off pol 8)
/-- R106. -/
def execStQ (t base : BitVec 7) (off : BitVec 6) (pol : BitVec 2) (s : State) : Out := .next (s.store t base off pol 16)

/-- R107. -/
def execAtomAdd (d a b : BitVec 7) (s : State) : Out := .next (s.atom d a b .add s.atomN)
/-- R107. -/
def execAtomMin (d a b : BitVec 7) (s : State) : Out := .next (s.atom d a b .min s.atomN)
/-- R107. -/
def execAtomMax (d a b : BitVec 7) (s : State) : Out := .next (s.atom d a b .max s.atomN)
/-- R107. -/
def execAtomAnd (d a b : BitVec 7) (s : State) : Out := .next (s.atom d a b .and s.atomN)
/-- R107. -/
def execAtomOr (d a b : BitVec 7) (s : State) : Out := .next (s.atom d a b .or s.atomN)
/-- R107. -/
def execAtomXor (d a b : BitVec 7) (s : State) : Out := .next (s.atom d a b .xor s.atomN)
/-- R107. -/
def execAtomXchg (d a b : BitVec 7) (s : State) : Out := .next (s.atom d a b .xchg s.atomN)
/-- R107. -/
def execAtomIncw (d a b : BitVec 7) (s : State) : Out := .next (s.atom d a b .incw 4)

/-- R109. -/
def execCas (d a b : BitVec 7) (s : State) : Out := .next (s.atom d a b .cas 4)
/-- R109. -/
def execCasD (d a b : BitVec 7) (s : State) : Out := .next (s.atom d a b .cas 8)
/-- R109. -/
def execCasQ (d a b : BitVec 7) (s : State) : Out := .next (s.atom d a b .cas 16)
/-- R109. -/
def execRedAdd (a b : BitVec 7) (s : State) : Out := .next (s.reduce a b .add s.atomN)
/-- R109, R361: in an F32-sum window each word is one contribution. -/
def execRedFadd (a b : BitVec 7) (s : State) : Out := .next (s.reduce a b .fadd 4)
/-- R109. -/
def execAtomFadd (d a b : BitVec 7) (s : State) : Out := .next (s.atom d a b .fadd 4)
/-- R109. -/
def execRedMin (a b : BitVec 7) (s : State) : Out := .next (s.reduce a b .min s.atomN)
/-- R109. -/
def execRedMax (a b : BitVec 7) (s : State) : Out := .next (s.reduce a b .max s.atomN)

/-- R113: an acquire alone waits for nothing, since later accesses perform when they issue. -/
def execFence (s : State) : Out :=
  .next (s.fence (if s.sh.ext.order = 1 then 5 else 0) fun m => s.opsOf s.sh.clump m.band)
/-- R113. -/
def execFenceE (s : State) : Out := .next (s.fence 1 fun m => s.opsOf s.sh.clump m.band)
/-- R113: the strand's accesses on the CXL.io path complete at the host; then a fence at system scope. -/
def execFenceH (s : State) : Out := .next (s.fence 2 fun m => s.opsOf s.sh.clump m.band)
/-- R113. -/
def execFenceSw (s : State) : Out := .next (s.fence 3 fun _ => s.runningSweeps s.ctxNo)

/-- R113: an owned line of this core is written back and dropped. DEDUCED: notes/assumptions/27.md. -/
def execCinv (a : BitVec 7) (s : State) : Out :=
  .next (s.onLines a fun _ pa home u => .ok (true, match u.myCopy pa with
    | some l => if l.st = .own ∧ home = 0 then u.dropCopy u.coreOf (lineOf pa) else u
    | none => u))

/-- R113: writes back the dirty words of an owned line, which stays owned. DEDUCED: notes/assumptions/27.md. -/
def execCwb (a : BitVec 7) (s : State) : Out :=
  .next (s.onLines a fun _ pa home u => .ok (true, match u.myCopy pa with
    | some l =>
      if l.st = .own ∧ home = 0 then (u.writeBack (lineOf pa) l).setL1 u.coreOf (lineOf pa) { l with dirty := [] } else u
    | none => u))

/-- R113, R114: fills the line under a policy; own and wi have no effect in a sweep's region. It performs as a load of the line's first word
(DESIGN CHOICE, notes/assumptions/97.md). -/
def execPrefetch (pol : BitVec 2) (a : BitVec 7) (s : State) : Out :=
  .next (s.onLines a fun m pa home u =>
    if u.polFault pa home pol.toNat then .ok (true, u)
    else
      match u.port m pa (u.needsLine u.coreOf u.ctxNo pa 4 pol.toNat home u.sh.ext.cache false) with
      | .error u => .error u
      | .ok u => .ok (true, (u.loadAt u.coreOf u.ctxNo pa 4 pol.toNat home u.sh.ext.cache).2))

/-- R113, R114: renews the lease on the line now; D says whether no data moved. -/
def execLeaseRenew (d a : BitVec 7) (s : State) : Out :=
  let give (m : Lane) (x : Bool) (u : State) : State := u.updStr m fun t => t.push [.v d.toNat (if x then 1 else 0)]
  let u := s.onLines a (fun m pa _ u =>
    match u.port m pa (u.renewMoves u.coreOf u.ctxNo pa) with
    | .error u => .error u
    | .ok u => .ok (u.renew pa)) give
  .next ((s.active.filter fun m => (s.lineFor m a).isNone).foldl (fun u m => give m (!s.unreachable m a) u) u)

/-! ### Events of the memory system -/

/-- Wakes every strand that is parked for a reason. -/
def State.wakeWhere (s : State) (p : ParkOn → Bool) : State :=
  s.clumps.foldl (fun s x => (List.range x.2.bands.length).foldl (fun s b => s.wakeBand x.1 b p) s) s

/-- R14: the short-latency result at a position of a strand lands, or, for lane 32, a uniform result of the band, or, for lane 64 on, the
request at a position of the CXL.io path of the strand 64 lower completes (R128); a switch marker may then be cleared.
DEDUCED: notes/assumptions/36.md. -/
def execShortLatencyResultReturn (clump band lane idx : Nat) (s : State) : Out :=
  .next (if lane < 32 then
      (s.updStrand clump ⟨band, lane⟩ fun t => t.land idx).clearMarker clump ⟨band, lane⟩
    else if lane < 64 then
      (List.range 32).foldl (fun s l => if (s.strand clump ⟨band, l⟩).marker then s.clearMarker clump ⟨band, l⟩ else s)
        (s.updBand clump band fun b => b.landK idx)
    else (s.hostPerform clump ⟨band, lane - 64⟩ idx).clearMarker clump ⟨band, lane - 64⟩)

/-- R315: a trap under delivery reaches its strand, once its results on the CXL.io path have returned. For a user trap or breakpoint
%epc is the first word after the chain (R311). -/
def execTrapDelivery (clump band lane : Nat) (s : State) : Out :=
  let t := s.strand clump ⟨band, lane⟩
  .next (match t.trap, t.park with
    | some x, none =>
      if t.hostResults then s
      else
        s.deliverNow clump ⟨band, lane⟩ x t.pc (match x.cause with
          | .userTrap => t.redo
          | .breakpoint => t.redo
          | _ => t.pc)
    | _, _ => s)

/-- R92: a home slice evicts a line; a line of a pinned page stays (R88). DEDUCED: notes/assumptions/78.md. -/
def execL2Eviction (line : Nat) (s : State) : Out :=
  .next (if s.stays line ∨ (s.coh.home.find? line).isNone then s else s.evictHome line)

/-- Invalidates the wi sharers of a line that satisfy a test (R97). -/
def State.dropSharers (s : State) (line : Nat) (p : Nat → Bool) : State :=
  ((s.homeLine line).sharers.filter p).foldl (fun s c => match s.l1 c line with
    | some l => if l.st = .shared then s.dropCopy c line else s
    | none => s) s

/-- R97: an entry that tracks wi sharers is evicted, and every sharer it covers is invalidated first. Entry 0 is the region entry of a
line's four-line region, `1 + c` the line's entry in the filter of cluster c (of the module's 112), `113 + d` its proxy at die d.
DEDUCED: notes/assumptions/78.md. -/
def execSharerFilterEviction (line entry : Nat) (s : State) : Out :=
  .next (if entry = 0 then (List.range 4).foldl (fun s i => s.dropSharers (line / 4 * 4 + i) fun _ => true) s
    else if entry ≤ 112 then s.dropSharers line fun c => c / 8 + 1 == entry
    else s.dropSharers line fun c => c / Config.coresPerDie + 113 == entry)

/-- R100: a bucket gains its rate. -/
def execTokenBucketRefill (slice ctx : Nat) (s : State) : Out :=
  let k := bucketKey slice ctx
  .next { s with coh := { s.coh with spent := s.coh.spent.put k 0 (s.coh.spent.getD k 0 - s.rate ctx) } }

/-- R101: a context without a waiting request becomes idle at a port. -/
def execPortIdleDetect (slice ctx : Nat) (s : State) : Out :=
  let k := bucketKey slice ctx
  .next (if (s.coh.waiting.any fun r => r.slice == slice && r.ctx == ctx && !r.granted) || s.coh.idle.contains k then s
    else { s with coh := { s.coh with idle := s.coh.idle ++ [k] } })

/-- The lowest idle context at a port with a token to lend (R101). -/
def State.lender (s : State) (slice : Nat) : Option Nat :=
  (List.range 16).find? fun c => s.coh.idle.contains (bucketKey slice c) && !s.noToken slice c

/-- The request that comes first: the highest priority, and of equals the oldest. -/
def firstRequest : List PortReq → Option PortReq
  | [] => none
  | r :: rs => some (rs.foldl (fun a x => if a.prio < x.prio then x else a) r)

/-- The strands that a served request lets go on: its own, and those of its clump that wait at the port without a request. -/
def State.portWake (s : State) (r : PortReq) : State :=
  let own (m : Lane) : Bool := s.coh.waiting.any fun x => x.op.isNone && x.clump == r.clump && x.lane == m
  (List.range (s.clump r.clump).bands.length).foldl (fun s b => (s.band r.clump b).strands.foldl (fun s x => match x.2.park with
    | some ⟨.port k, _, _⟩ => if k = r.slice ∧ (⟨b, x.1⟩ = r.lane ∨ !own ⟨b, x.1⟩) then s.unpark r.clump ⟨b, x.1⟩ else s
    | _ => s) s) s

/-- R101: a waiting request is served with its own context's token, or with one that an idle context loses for good. An engine operation
keeps the token for its transfer of the line. -/
def execPortRequestServe (slice : Nat) (s : State) : Out :=
  let ready := s.coh.waiting.filter fun r => r.slice == slice && !r.granted && (!s.noToken slice r.ctx || (s.lender slice).isSome)
  .next (match firstRequest ready with
    | none => s
    | some r =>
      let payer := if s.noToken slice r.ctx then (s.lender slice).getD r.ctx else r.ctx
      let s := s.spendToken slice payer
      match r.op with
      | some i =>
        ({ s with coh := { s.coh with waiting := s.coh.waiting.filter (· != r) } } : State).addPaid i (bucketKey slice r.ctx) 1
      | none =>
        ({ s with coh := { s.coh with waiting := s.coh.waiting.map fun x => if x = r then { r with granted := true } else x } } :
          State).portWake r)

/-- The physical address that a host access decodes to (R350). -/
def State.hostDecode (s : State) (decoder offset n : Nat) : Option Nat :=
  let code := decoder - 1
  if decoder = 1 then (if offset + n ≤ secondEnd - secondBase then some (secondBase + offset) else none)
  else if decoder = 0 then (if offset + n ≤ s.ctl.setBytes 0 then some offset else none)
  else if code ≤ 16 ∧ offset + n ≤ s.ctl.setBytes code then some (setBase code + offset) else none

/-- R128, R350: a host read of the 64 bytes at an offset (no bytes given), or a write, performs at the home slice; one that
decodes to no channel is counted. In recovery the module does not answer (R365). DEDUCED: notes/assumptions/73.md.
DEDUCED: notes/assumptions/79.md. -/
def execHostCxlMemAccess (decoder offset : Nat) (bytes : List Nat) (s : State) : Out :=
  let bs : List Byte := bytes.map (BitVec.ofNat 8)
  let n := if bytes = [] then 64 else bytes.length
  .next (if s.fw.recovery then s else match s.hostDecode decoder offset n with
    | none => s.countNoChannel
    | some pa => if bytes = [] then (s.agentRead s.horizon pa n).2 else (s.agentWrite s.horizon pa bs).2)

/-- A snoop takes a line from the module's caches: the owner is recalled and wi sharers are invalidated, and what the device writes later
performs past their acknowledgments (R96, R119). -/
def State.snoop (s : State) (line : Nat) : State :=
  let r := (s.recall line).invalidate line
  if r.1 = 0 then r.2 else r.2.setHome line ((List.range 32).foldl (fun h w => h.readTo r.1 w) (r.2.homeLine line))

/-- R350: a host snoop of a host-attached line; then the host may write the line (bytes from its start).
DEDUCED: notes/assumptions/73.md. DEDUCED: notes/assumptions/79.md. -/
def execHostSnoop (line : Nat) (bytes : List Nat) (s : State) : Out :=
  .next (if s.ctl.place (128 * line) = .host ∧ !s.fw.recovery then
      if bytes = [] then s.snoop line
      else (s.agentWrite s.horizon (128 * line) ((bytes.take 128).map (BitVec.ofNat 8))).2
    else s)

/-- R317: an uncorrectable soft error poisons a memory granule (kind 0: its number), a scratchpad line (1: clump, line), a
register granule (2: clump, 16 × band + granule), an accumulator (3: clump, number) or a bank's accumulators (4: the bank). -/
def execSoftError (kind place idx : Nat) (s : State) : Out :=
  .next (match kind with
    | 0 => { s with poison := addOnce s.poison place }
    | 1 => s.updClump place fun c => { c with spadPoison := addOnce c.spadPoison idx }
    | 2 => s.updBand place (idx / 16) fun b => { b with regPoison := addOnce b.regPoison (idx % 16) }
    | 3 => s.updClump place fun c => { c with accs := c.accs.put idx {} { (c.accs.getD idx {}) with poison := true } }
    | 4 => { s with dram := { s.dram with accPoison := addOnce s.dram.accPoison place } }
    | _ => s)

/-- Entries of a context's fault queue, and whether it is full (R331). -/
def Ctx.fqEntries (c : Ctx) : Nat := 2 ^ c.fqcfg
def Ctx.fqFull (c : Ctx) : Bool := (c.fqtail + 1) % c.fqEntries == c.fqhead

/-- R331: the oldest fault not yet posted goes to the context's fault queue when the ring has room, with its interrupt.
DEDUCED: notes/assumptions/46.md. -/
def execFaultQueuePost (ctx : Nat) (s : State) : Out :=
  let c := s.ctx ctx
  .next (match s.coh.faults.find? fun f => f.ctx == ctx && !f.posted with
    | none => s
    | some f =>
      if c.fqFull then s
      else
        let bs := leBytes 8 f.va ++ leBytes 8 f.info ++ leBytes 8 f.time ++ leBytes 8 0
        let s := (s.agentWrite s.horizon (c.fqbase + 32 * c.fqtail) bs).2
        let s := s.updCtx ctx fun c => { c with fqtail := (c.fqtail + 1) % c.fqEntries }
        { s with coh := { s.coh with faults := s.coh.faults.map fun x => if x = f then { f with posted := true } else x } }.irq
          (ctxVector ctx 0))

/-- R66, R68: a post-copy migration of the page at a virtual address, which its leaf marks as migrating (R330), begins, its data still at
`src`; while the page holds part of a registered region, the request waits. DEDUCED: notes/assumptions/35.md. -/
def execMigrationRequest (ctx va src : Nat) (s : State) : Out :=
  .next (match s.leafFor ctx va with
    | .leaf base size e =>
      let new := ptePa e
      let swept := s.dram.sweeps.any fun w => w.pieces.any fun p =>
        overlaps p.1 (p.1 + p.2) src (src + size) || overlaps p.1 (p.1 + p.2) new (new + size)
      if !pteBit e 9 then s
      else if swept then { s with agenda := s.agenda ++ [.migrationRequest ctx va src] }
      else
        let m : Migration := { new := new, old := src, size := size, left := List.range (size / 4096), ctx := ctx, va := base }
        { s with dram := { s.dram with migrations := s.dram.migrations ++ [m] } }
    | _ => s)

/-- An access of a context waits for a chunk of a migration. -/
def State.waitsFor (s : State) (mig : Migration) (chunk ctx va : Nat) : Bool :=
  match s.leafFor ctx va with
  | .leaf base _ e =>
    let pa := ptePa e + (va - base)
    decide (mig.new ≤ pa) && (pa - mig.new) / 4096 == chunk
  | _ => false

/-- A chunk may be pulled now: it is accessed, or it is the lowest still to pull (R68). -/
def State.pullable (s : State) (mig : Migration) (chunk : Nat) : Bool :=
  mig.left.head? == some chunk ||
    (s.ops.any fun o => (o.pulling.map fun va => s.waitsFor mig chunk o.ctx va).getD false) ||
    s.clumps.any fun x => x.2.bands.any fun b => b.strands.any fun y => match y.2.park with
      | some ⟨.migrating va, _, _⟩ => s.waitsFor mig chunk x.2.ctx va
      | _ => false

/-- R68, R69: a 4 KiB chunk lands at the page's new home, and what waited for it goes on; a chunk that cannot be pulled, as none can be
from a module that has failed (R358), makes the page lost. -/
def execChunkPullLand (mig chunk : Nat) (ok : Bool) (s : State) : Out :=
  .next (match s.dram.migrations[mig]? with
    | none => s
    | some m =>
      if !m.left.contains chunk || !s.pullable m chunk then s
      else
        let wake (s : State) : State :=
          let s : State := { s with ops := s.ops.map fun (o : Op) => { o with pulling := none } }
          s.wakeWhere fun k => match k with
            | .migrating _ => true
            | _ => false
        let rest := s.dram.migrations.eraseIdx mig
        let o := 4096 * chunk
        if !ok || s.isLost (m.old + o) then
          wake { s with dram := { s.dram with migrations := rest, lost := s.dram.lost ++ [(m.new, m.size)] } }
        else
          let bad := s.poisonMask (m.old + o) 4096
          let r := s.agentRead s.horizon (m.old + o) 4096
          let s := ((r.2.agentWrite r.2.horizon (m.new + o) r.1).2).carryPoison (m.new + o) (r.1, bad)
          let m' := { m with left := m.left.filter (· != chunk) }
          wake { s with dram := { s.dram with migrations := if m'.left = [] then rest else s.dram.migrations.set mig m' } })

end Sys2Proof.Machine
end

