-- ==== Sys2Proof/Machine/Sweep.lean ====
section
/-!
DEFINITION. Sweeps: registering, observing and feeding them, OP 0x24 (R58 to R72); the swept-view loads (R73 to R75); refresh
and the restores it carries (R56, R57, R63, R64).
-/

namespace Sys2Proof.Machine

/-! ### Registration (R58, R61, R71) -/

/-- What the descriptor's 64 bytes hold. -/
structure SweepDesc where
  base : Nat
  len : Nat
  func : Nat
  fmt : Nat
  flags : Nat
  tfmt : Nat
  resv : Nat
  c : List Word
  map : Nat
  tail : Nat
  deriving DecidableEq, Repr

/-- Reads the fields of a descriptor (R58). -/
def sweepDesc (bs : List Byte) : SweepDesc :=
  let f (o n : Nat) : Nat := leNat ((bs.drop o).take n)
  { base := f 0 8, len := f 8 8, func := f 0x10 1, fmt := f 0x11 1, flags := f 0x12 1, tfmt := f 0x13 1, resv := f 0x14 4,
    c := (List.range 4).map fun i => BitVec.ofNat 32 (f (0x18 + 4 * i) 4), map := f 0x28 8, tail := f 0x30 16 }

/-- The element formats that a function accepts (R59). -/
def sweepFmts (func : Nat) : List Nat :=
  match func with
  | 0 => [0, 1, 2, 5, 6, 8]
  | 1 => [0, 1, 2, 5, 6, 8]
  | 2 => List.range 16
  | 3 => List.range 16
  | 4 => [1, 2]
  | 5 => [14, 15]
  | 6 => [9, 10, 11, 12, 3, 4, 14, 15]
  | 7 => [0, 1, 2, 9, 10, 11, 12, 3, 4]
  | _ => []

/-- Check 3 of a registration: reserved fields, FUNC, and FMT, TFMT and FLAGS for FUNC. -/
def SweepDesc.bad (d : SweepDesc) : Bool :=
  decide (d.resv ≠ 0) || decide (d.tail ≠ 0) || decide (4 ≤ d.flags) || !(sweepFmts d.func).contains d.fmt ||
    (if d.func = 4 then !([5, 6, 8, 9, 14] : List Nat).contains d.tfmt else decide (d.tfmt ≠ 0)) ||
    (Nat.testBit d.flags 0 && !([0, 1, 6, 7] : List Nat).contains d.func) || (Nat.testBit d.flags 1 && d.func != 4)

/-- What translating a region page by page gives: its physical pieces; check 4 has failed; or the band parks. -/
inductive RegionX where
  | pieces (ps : List (Nat × Nat))
  | fails
  | park (va level pte base size : Nat)
  | pull (va : Nat)
  deriving DecidableEq, Repr

/-- Translates a region, `fuel` pages long. DEDUCED: notes/assumptions/37.md. Whether its pages need the W permission, since the sweep
agent will write them, the spec does not say: the model translates them as reads, and takes pages that may only be read (DESIGN CHOICE,
notes/assumptions/94.md). -/
def State.regionOf (s : State) (ctx : Nat) : Nat → Nat → Nat → List (Nat × Nat) → RegionX
  | 0, _, _, _ => .fails
  | fuel + 1, va, n, acc =>
    if n = 0 then .pieces acc
    else
      match s.translate ctx va 1 .read false with
      | .absent level pte base size => .park va level pte base size
      | .migrating => .pull va
      | .bad _ => .fails
      | .ok pa e base size _ =>
        let k := Nat.min n (base + size - va)
        -- a page that holds part of a region is never migrated (R66): the rest of it arrives first
        if s.dram.migrations.any fun m => overlaps m.new (m.new + m.size) pa (pa + k) then .pull va
        else
        match s.ctl.place pa with
        | .stacked _ _ =>
          if pteHome e = 1 ∨ pteHome e = 2 ∨ s.coh.pins.any (fun p => overlaps p.base (p.base + p.size) pa (pa + k)) then .fails
          else s.regionOf ctx fuel (va + k) (n - k) (acc ++ [(pa, k)])
        | _ => .fails

/-- The stacks that physical pieces touch (R53: channel 16 layer + stack): those of 256-byte granules. -/
def State.stacksOf (s : State) (ps : List (Nat × Nat)) : List Nat :=
  (List.range 16).filter fun k => ps.any fun p =>
    -- a set's granules go round its channels, so 256 granules visit every one
    (List.range (Nat.min ((p.2 + p.1 % 256 + 255) / 256) 256)).any fun i =>
      match s.ctl.coord (p.1 / 256 * 256 + 256 * i) with
      | some x => x.channel % 16 == k
      | none => false

/-- The lowest slot index that is free in every one of these (R65). -/
def State.freeSlot (s : State) (sks : List Nat) : Option Nat :=
  (List.range 32).find? fun i => !(s.dram.sweeps.any fun w => w.slot == i && w.inStacks.any sks.contains)

/-- Recalls every cached line of a region: owned lines are written back, shared lines dropped (R61). -/
def State.recallRegion (s : State) (ps : List (Nat × Nat)) : State :=
  let hit (line : Nat) : Bool := ps.any fun p => overlaps p.1 (p.1 + p.2) (128 * line) (128 * line + 128)
  (s.coh.l1.filter fun x => hit (x.1 % 2 ^ 45)).foldl (fun s x => s.dropCopy (x.1 / 2 ^ 45) (x.1 % 2 ^ 45)) s

/-- Registers a sweep on pieces, under a slot; the result is its id. The registration point is past every access so far, and before
every restore (R61). A slot's generation is counted once for its index in the module, not once for each stack, which the spec leaves
open (DESIGN CHOICE, notes/assumptions/85.md). -/
def State.registerSweep (s : State) (d : SweepDesc) (ps : List (Nat × Nat)) (sks : List Nat) (slot : Nat) : Nat × State :=
  let gen := (s.dram.gens.getD slot 0 + 1) % 2 ^ 15
  let w : Sweep :=
    { slot := slot, gen := gen, ctx := s.ctxNo, base := d.base, len := d.len, func := d.func, fmt := d.fmt,
      sat := Nat.testBit d.flags 0, bl16 := Nat.testBit d.flags 1, tfmt := d.tfmt, c := d.c, map := d.map, pieces := ps,
      inStacks := sks }
  let s := s.recallRegion ps
  let s := s.raise s.coreOf s.horizon
  let w := { w with floor := s.cts s.coreOf }
  (w.id, { s with dram := { s.dram with sweeps := s.dram.sweeps ++ [w], gens := s.dram.gens.put slot 0 gen } })

/-- The band parks on a fault of an engine word that it issues again; a `code` above 7 has an abort answered by the word. -/
def State.parkEngine (s : State) (m : Lane) (va level pte base size kind code : Nat) : State :=
  let c := s.clp
  let b := s.bnd m
  (s.noteFault c.ctx c.die va level pte base size kind b.slot b.quad c.core).holdAll (.xlate va code)

/-- A fault that ends an engine operation at issue: pending for the band (R143, R314). -/
def State.pendEngine (s : State) (m : Lane) (va : Nat) (detail : Nat := 0) : State :=
  s.bandFault s.sh.clump m.band { cause := .engineFault, addr := va % 2 ^ 56, detail := detail }

/-- Clears the mark of an aborted translation. -/
def State.clearAborted (s : State) : State := s.sh.lanes.foldl (fun s m => s.updStr m fun t => { t with aborted := [] }) s

/-- The host has aborted a translation of a span that a strand's word waits for (R332). -/
def Strand.abortedIn (t : Strand) (base size : Nat) : Bool := t.aborted.any fun g => decide (base ≤ g) && decide (g < base + size)

/-- R71: reads the descriptor, makes the checks in their order, and registers. Once the host has aborted a translation that the word
waits for, check 4 fails (R332). DEDUCED: notes/assumptions/37.md. -/
def State.sweepReg (s : State) (d : BitVec 7) (m : Lane) (a : Nat) : State :=
  let fail (s : State) (code : Nat) : State := s.clearAborted.engResult m [.k d.toNat (BitVec.ofNat 32 (2 ^ 31 + code))]
  if a % 64 ≠ 0 then s.bandTrap .misaligned (a % 2 ^ 56)
  else
    match s.translate s.ctxNo a 64 .engRead false with
    | .absent level pte base size =>
      if (s.str m).abortedIn base size then fail s 4
      else s.parkEngine m a level pte base size Kind.engRead.code (Kind.engRead.code + 8)
    | .migrating => s.holdAll (.migrating a)
    | .bad _ => s.pendEngine m a
    | .ok pa e base size pin =>
      let s := s.useLeaf s.ctxNo base size e pin
      let r := s.agentTouch (s.cts s.coreOf + 1) pa 64
      let s := r.2.noteEng s.sh.clump m.band r.1
      let x := sweepDesc (s.mem.readBytes pa 64)
      if x.base % 64 ≠ 0 ∨ x.len % 64 ≠ 0 ∨ x.len = 0 then fail s 5
      else if x.bad then fail s 3
      else
        match if (s.str m).aborted != [] then .fails else s.regionOf s.ctxNo (x.len / 65536 + 3) x.base x.len [] with
        | .fails => fail s 4
        | .park va level pte base size => s.parkEngine m va level pte base size Kind.engRead.code (Kind.engRead.code + 8)
        | .pull va => s.holdAll (.migrating va)
        | .pieces ps =>
          if s.dram.sweeps.any fun w => w.pieces.any fun p => ps.any fun q => overlaps p.1 (p.1 + p.2) q.1 (q.1 + q.2) then fail s 2
          else
            let sks := s.stacksOf ps
            match s.freeSlot sks with
            | none => fail s 1
            | some i =>
              let r := s.registerSweep x ps sks i
              r.2.clearAborted.engResult m [.k d.toNat (BitVec.ofNat 32 r.1)]

/-- Keeps the queued updates that pass a test. -/
def State.keepDeltas (s : State) (p : Delta → Bool) : State :=
  let q : SMap (List Delta) := s.dram.deltas.map fun x => (x.1, x.2.filter p)
  { s with dram := { s.dram with deltas := q.filter fun x => x.2 != [] } }

/-! ### Waiting for sweeps -/

/-- Returns `swp.wait` to the bands of a core parked on a registration, with a status, as an acquire (R71, R127). -/
def State.wakeSweep (s : State) (slot gen status : Nat) (ready : Nat → Bool) : State :=
  s.clumps.foldl (fun s x => (List.range x.2.bands.length).foldl (fun s b =>
    (x.2.band b).strands.foldl (fun s y => match y.2.park with
      | some ⟨.sweepWait last sl g d, _, _⟩ =>
        if sl = slot ∧ g = gen ∧ ready last then
          -- a later slot of the word's chain may have written the register (R15)
          ((s.raise x.2.coreNo s.horizon).updBand x.1 b fun k =>
            if y.2.overruled then k else k.applyEng (.k d (BitVec.ofNat 32 status))).unpark x.1 ⟨b, y.1⟩
        else s
      | _ => s) s) s) s

/-- Every update of a sweep named below `last` has been applied. -/
def State.updatesBefore (s : State) (w : Sweep) (last : Nat) : Bool := (s.updatesOf w).all fun d => decide (last ≤ d.id)

/-- What a change to a sweep's progress wakes: waits on it, and words that wait for room in a queue. -/
def State.sweepMoved (s : State) (w : Sweep) : State :=
  if w.deltas then (s.wakeSweep w.slot w.gen 0 fun last => s.updatesBefore w last).runQueues
  else if w.complete then s.wakeSweep w.slot w.gen 0 fun _ => true
  else s

/-- Unregisters a sweep at one logical time; its queued updates are discarded (R65). A wait on a deltas sweep returns 1 then, as one
on any other sweep does: the spec gives status 1 only for those (DESIGN CHOICE, notes/assumptions/86.md). -/
def State.unregister (s : State) (w : Sweep) : State :=
  let s := s.keepDeltas fun d => !(d.slot == w.slot && d.gen == w.gen)
  let s := { s with dram := { s.dram with sweeps := s.dram.sweeps.filter fun x => x.id != w.id } }
  (s.wakeSweep w.slot w.gen 1 fun _ => true).runQueues

/-- Restores still to come of a sweep perform past a time (R71). -/
def State.sweepFloor (s : State) (id t : Nat) : State :=
  { s with dram := { s.dram with sweeps := s.dram.sweeps.map fun w => if w.id == id then { w with floor := Nat.max w.floor t } else w } }

/-! ### Positions (R71, R72) -/

/-- The report of `swp.pos` for a physical address of stacked memory. -/
def State.position (s : State) (pa id : Nat) : Nat :=
  match s.ctl.coord pa with
  | none => 0
  | some x =>
    let w := (s.sweepOf id).filter fun w => w.holds pa
    let swept := match w with
      | some w => 4 + (if w.isDone (pa / 64 * 64) then 2 else 0)
      | none => 0
    s.dram.pass.getD x.bankNo 0 % 2 ^ 24 * 2 ^ 8 + swept + (if x.row < s.dram.row.getD x.bankNo 0 then 1 else 0)

/-- What `swp.pos` finds at an address: a report, or the band parks. -/
inductive PosX where
  | report (x : Nat)
  | park (va level pte base size : Nat)
  | pull (va : Nat)
  deriving DecidableEq, Repr

/-- `swp.pos` for one strand. -/
def State.posOf (s : State) (m : Lane) (a id : Nat) : PosX :=
  match s.translate s.ctxNo a 1 .read with
  | .absent level pte base size =>
    if (s.str m).abortedIn base size then .report 0 else .park a level pte base size
  | .migrating => .pull a
  | .bad _ => .report 0
  | .ok pa _ base size _ => .report (if (s.str m).abortedIn base size then 0 else s.position pa id)

/-! ### The instructions -/

/-- R71. -/
def execSwpReg (d a : BitVec 7) (s : State) : Out := .next (s.engine fun m s => s.sweepReg d m (s.opA64 m a).toNat)

/-- R71. -/
def execSwpUnreg (a : BitVec 7) (s : State) : Out :=
  .next (s.engine fun m s => match s.sweepOf ((s.bnd m).ureg a.toNat).toNat with
    | some w => (s.raise s.coreOf s.horizon).unregister w
    | none => s)

/-- R71, R72: per strand; the report is a read at one logical time, past every restore it counts and before every later one (R127). -/
def execSwpPos (d a b : BitVec 7) (s : State) : Out :=
  .next (s.engine fun m s =>
    let id := ((s.bnd m).ureg b.toNat).toNat
    let xs := s.active.map fun x => (x, s.posOf x (s.opA64 x a).toNat id)
    let stop := xs.find? fun x => match x.2 with
      | .report _ => false
      | _ => true
    match stop with
    | some (_, .park va level pte base size) => s.parkEngine m va level pte base size Kind.read.code (Kind.read.code + 8)
    | some (_, .pull va) => s.holdAll (.migrating va)
    | _ =>
      let ws := xs.map fun x => EngWrite.lane x.1.lane (.v d.toNat (match x.2 with
        | .report r => BitVec.ofNat 32 r
        | _ => 0))
      let s := s.raise s.coreOf s.horizon
      ((s.sweepFloor id (s.cts s.coreOf)).clearAborted).engResult m ws)

/-- R71: a wait that need not wait returns at once, as an acquire. -/
def execSwpWait (d a : BitVec 7) (s : State) : Out :=
  .next (s.engine fun m s =>
    let give (s : State) (x : Word) : State := s.engResult m [.k d.toNat x]
    match s.sweepOf ((s.bnd m).ureg a.toNat).toNat with
    | none => give s 2
    | some w =>
      if w.complete ∨ (w.deltas ∧ s.updatesOf w = []) then give (s.raise s.coreOf s.horizon) 0
      else s.sh.lanes.foldl (fun s x => s.parkAt x (.sweepWait s.uid w.slot w.gen d.toNat)) s)

/-- What is wrong with a strand's update (R72), or the physical address of its segment. -/
inductive QueueX where
  | ok (pa : Nat)
  | trap (t : Trap)
  | park (va level pte base size : Nat)
  | pull (va : Nat)
  deriving DecidableEq, Repr

/-- Checks a strand's update for a sweep. The spec does not say which cause stands where more than one thing is wrong: the id and the
target's alignment come first, then the offset, then the target's region (DESIGN CHOICE, notes/assumptions/87.md). Nor does it say what a
target meets whose translation is refused without replay: it counts as one outside the region (DESIGN CHOICE, notes/assumptions/88.md); nor
whether the target's page needs the W permission: the model translates it as a read (DESIGN CHOICE, notes/assumptions/94.md). -/
def State.queueOf (s : State) (w : Option Sweep) (va o : Nat) : QueueX :=
  match w with
  | none => .trap (vaTrap .sweepMisuse va)
  | some w =>
    if !w.deltas || va % 64 ≠ 0 then .trap (vaTrap .sweepMisuse va)
    else if o % 64 ≠ 0 ∨ !s.clp.inSpad o 64 then .trap { cause := .spadBounds, addr := o }
    else
      match s.translate s.ctxNo va 64 .engRead false with
      | .absent level pte base size => .park va level pte base size
      | .migrating => .pull va
      | .bad _ => .trap (vaTrap .sweepMisuse va)
      | .ok pa _ _ _ _ => if w.holds pa then .ok pa else .trap (vaTrap .sweepMisuse va)

/-- R67, R71, R72: an operation with its ranges locked, whose updates enter their queues in ascending home lane; the band parks while a
queue is full. The word waits at issue for a delta's range or line (R139). -/
def execSwpQueue (d a b : BitVec 7) (s : State) : Out :=
  .next (s.engine fun m s =>
    let w := s.sweepOf ((s.bnd m).ureg d.toNat).toNat
    let xs := s.active.map fun x => (x, (s.opB x b).toNat, s.queueOf w (s.opA64 x a).toNat (s.opB x b).toNat)
    let stop := xs.find? fun x => match x.2.2 with
      | .park .. => true
      | .pull _ => true
      | _ => false
    match stop with
    | some (_, _, .park va level pte base size) => s.parkEngine m va level pte base size Kind.engRead.code Kind.engRead.code
    | some (_, _, .pull va) => s.holdAll (.migrating va)
    | _ =>
      let good := xs.filterMap fun x => match x.2.2 with
        | .ok pa => some (pa, x.2.1)
        | _ => none
      let rs := good.map fun x => (⟨some s.sh.clump, x.2, x.2 + 64, false⟩ : RangeReq)
      if s.lockWait s.coreOf s.ctxNo rs || good.any fun x => s.clp.absentIn x.2 64 then s.holdAll .engineIssue
      else
        let s := xs.foldl (fun s x => match x.2.2 with
          | .trap t => s.trap x.1 t
          | _ => s) s
        if good = [] then s
        else
          let id := ((s.bnd m).ureg d.toNat).toNat
          let i := s.fresh
          let o := i.2.opFor m i.1 (.queue id good)
          let s := (i.2.accept o rs).runQueue o id good
          if (s.op i.1).isNone then s else s.sh.lanes.foldl (fun s x => if s.sh.isStopped x then s else s.parkAt x (.queueWait i.1)) s)

/-- R71: state and count. -/
def execSwpStat (d a : BitVec 7) (s : State) : Out :=
  .next (s.engine fun m s =>
    let x := match s.sweepOf ((s.bnd m).ureg a.toNat).toNat with
      | none => 0
      | some w =>
        if w.deltas then 3 * 2 ^ 30 + (s.updatesOf w).length % 2 ^ 30
        else if w.complete then 2 * 2 ^ 30 else 2 ^ 30 + (w.segments - w.done.length) % 2 ^ 30
    s.engResult m [.k d.toNat (BitVec.ofNat 32 x)])

/-! ### Swept-view loads (R74, R75) -/

/-- A strand's swept-view load: the stored content at its time, as every registered sweep will leave it. A load of a segment in a region
reads the whole segment, at a time past what stands in it. -/
def State.svLane (s : State) (m : Lane) (va t n : Nat) : State :=
  match s.reach m va n .read with
  | .error s => s
  | .ok (.control off, s) => s.updStr m fun x => x.push (loadWrites t n false (s.ctlRead off n))
  | .ok (.mem pa home, s) =>
    let seg := pa / 64 * 64
    if s.isIo pa home then (if s.poisoned pa n then s.trap m (vaTrap .poison va) else s.hostLoad m pa t n false)
    else
      let r := match s.sweepAt pa with
        | some _ => s.readHome (s.cts s.coreOf) seg 64 0
        | none => s.readHome (s.cts s.coreOf) pa n 0
      let late := ((s.sweepAt pa).map fun w => s.updatesBy w seg r.1).getD []
      if s.poisoned seg 64 || late.any (·.bad) then s.trap m (vaTrap .poison va)
      else
        let s := r.2.raise s.coreOf r.1
        let g := s.mem.readNat seg 64
        let g := match s.sweepAt pa with
          | some w => s.clipped w seg g r.1
          | none => g
        s.updStr m fun x => x.push (loadWrites t n false (g / 2 ^ (8 * (pa - seg)) % 2 ^ (8 * n)))

/-- R74. -/
def execLdSvW (t base : BitVec 7) (off : BitVec 6) (s : State) : Out :=
  .next (s.eachLane fun m u => u.svLane m (s.addrM m base off 4).toNat t.toNat 4)

/-- R74. -/
def execLdSvQ (t base : BitVec 7) (off : BitVec 6) (s : State) : Out :=
  .next (s.eachLane fun m u => u.svLane m (s.addrM m base off 16).toNat t.toNat 16)

/-! ### Refresh (R56, R57, R63) -/

/-- Marks a segment transformed, or drops its updates that a restore at a time has applied. -/
def State.markSeg (s : State) (w : Sweep) (seg t : Nat) : State :=
  if w.deltas then s.keepDeltas fun d => !(d.slot == w.slot && d.gen == w.gen && d.seg == seg && decide (d.time ≤ t))
  else { s with dram := { s.dram with sweeps := s.dram.sweeps.map fun x =>
    if x.id == w.id then { x with done := x.done.insert (seg / 64) () } else x } }

/-- A sweep is due at a segment: it is still to be transformed, or updates wait for it. -/
def State.sweepDue (s : State) (seg : Nat) : Option Sweep :=
  (s.sweepAt seg).filter fun w => if w.deltas then (s.updatesOf w).any fun d => d.seg == seg else !w.isDone seg

/-- A time before a segment's restore: its sweep's, and its updates' queue points (R61, R67, R71). -/
def State.dueFloor (s : State) (seg : Nat) : Nat :=
  match s.sweepDue seg with
  | none => 0
  | some w => ((s.updatesOf w).filter fun d => d.seg == seg).foldl (fun a d => Nat.max a d.time) w.floor + 1

/-- The restore of one segment at a time: a write by the sweep agent where a sweep is due there. A poisoned segment stays as it is (R57),
and an update from poisoned bytes poisons it (R317). -/
def State.restoreSeg (s : State) (t seg : Nat) : State :=
  match s.sweepDue seg with
  | none => s
  | some w =>
    let bad := (s.updatesBy w seg t).any (·.bad)
    let s := if s.poisoned seg 64 then s
      else
        let s := s.writeAtTime t seg (leBytes 64 (s.clipped w seg (s.mem.readNat seg 64) t))
        if bad then { s with poison := addOnce s.poison (seg / 64) } else s
    let s := s.markSeg w seg t
    match s.sweepOf w.id with
    | some w => s.sweepMoved w
    | none => s

/-- Lines come to their slices together (R1). -/
def State.fillLines (s : State) (ls : List Nat) : State :=
  ls.foldl (fun s l => let s := s.fillHome l ls; s.setHome l (s.homeLine l)) s

/-- The restore of a row: one event, at one time past every access to the row's words (R63, R115, R127). -/
def State.restoreRow (s : State) (segs : List Nat) : State :=
  let due := segs.filter fun p => (s.sweepDue p).isSome
  if due = [] then s
  else
    let floor := due.foldl (fun a p => Nat.max a (s.dueFloor p)) 0
    let r := (s.fillLines (due.map lineOf).dedup).passTime floor (segs.map fun p => (p, 64))
    let key := s.rowAt (segs.headD 0)
    let t := { r.2 with dram := { r.2.dram with restored := r.2.dram.restored.insert key r.1 } }
    segs.foldl (fun s p => s.restoreSeg r.1 p) t

/-- R56, R57: a bank refreshes the row that its pointer names, and the pointer moves on. -/
def execRowRefresh (channel bank : Nat) (s : State) : Out :=
  let k := bankNo channel bank
  let row := s.dram.row.getD k 0
  let s := s.restoreRow (s.rowSegments channel bank row)
  let next := (row + 1) % 2 ^ 16
  .next { s with dram := { s.dram with
    row := s.dram.row.put k 0 next
    pass := if next = 0 then s.dram.pass.put k 0 (s.dram.pass.getD k 0 + 1) else s.dram.pass } }

/-- Nanoseconds of the interval between nominal refreshes of a bank, in 64ths: 32 ms over 65,536 rows, or 16 ms in the hot band (R56). -/
def refreshInterval (hot : Bool) : Nat := if hot then 15625 else 31250

/-- How many nominal refreshes of each bank of a stack have fallen due (R56). -/
def State.nominalDue (s : State) (stack : Nat) : Nat :=
  let x := s.dram.nominal.getD stack (0, 0)
  let now := 64 * s.time
  if now < x.2 then x.1 else x.1 + (now - x.2) / refreshInterval (s.dram.hot.contains stack) + 1

/-- The nominal refreshes of a stack after a sample that changes its band: the next falls at the sample, or a new interval after the
last one if that is later (R56). -/
def State.nominalAfter (s : State) (stack : Nat) (hot : Bool) : Nat × Nat :=
  let x := s.dram.nominal.getD stack (0, 0)
  let n := s.nominalDue stack
  let next := x.2 + (n - x.1) * refreshInterval (s.dram.hot.contains stack)
  (n, Nat.max (64 * s.time) (next - refreshInterval (s.dram.hot.contains stack) + refreshInterval hot))

/-- R56: a sample of a stack's hottest layer chooses its refresh band. -/
def execThermalBandSample (stack : Nat) (hot : Bool) (s : State) : Out :=
  let rest := s.dram.hot.filter (· != stack)
  let s := if hot = s.dram.hot.contains stack then s
    else { s with dram := { s.dram with nominal := s.dram.nominal.put stack (0, 0) (s.nominalAfter stack hot) } }
  .next { s with dram := { s.dram with hot := if hot then rest ++ [stack] else rest } }

end Sys2Proof.Machine
end

