-- ==== Sys2Proof/Machine/Bank.lean ====
section
/-!
DEFINITION. Near-bank table engines, OP 0x25 (R76 to R85), and refresh's thermal samples stand with the sweeps. A command is an
operation that enters its group's port, then the queue of each participating bank.
-/

namespace Sys2Proof.Machine
open Sys2Proof.Machine.Num (Val)

/-- The functions of OP 0x25. -/
abbrev bankTbl : Nat := 0
abbrev bankLut : Nat := 1
abbrev bankBcast : Nat := 2
abbrev bankRed : Nat := 3
abbrev bankSync : Nat := 4
abbrev bankClr : Nat := 5

/-- The layers of a mask. -/
def layersOf (mask : Nat) : List Nat := (List.range 16).filter fun l => Nat.testBit mask l

/-- The bank of a group in a layer. -/
def layerBank (stack bank l : Nat) : Nat := bankNo (16 * l + stack) bank

/-- The scratchpad bytes that a command reads or writes (R84). DEDUCED: notes/assumptions/38.md. -/
def bankSpan (fn : Nat) : Nat :=
  match fn with
  | 0 => 2048
  | 2 => 128
  | 3 => 4096
  | _ => 0

/-- A group's number. -/
def groupNo (stack bank : Nat) : Nat := 32 * stack + bank

/-! ### Issue (R76, R84, R85) -/

/-- The virtual addresses of a row's segments: the window is one span, so each lies as far from the instruction's address as its segment
does. -/
def State.rowVas (s : State) (va pa stack bank row mask : Nat) : List (Nat × Nat) :=
  (pa :: s.layerSegments stack bank row mask).map fun p => (p, (va + (p + 2 ^ 64 - pa)) % 2 ^ 64)

/-- A segment of the row does not lie on a page that is mapped "never cached" (R76, R85). Whether a page of the row other than the
address's own that meets V = 0 parks the band the spec does not say: the model takes it for a page that is not "never cached" (DESIGN
CHOICE, notes/assumptions/96.md). -/
def State.rowCached (s : State) (xs : List (Nat × Nat)) : Bool :=
  xs.any fun x =>
    match s.translate s.ctxNo x.2 1 .engRead false with
    | .ok q e _ _ _ => q != x.1 || pteHome e != 3
    | .migrating => false
    | _ => true

/-- A segment of the row whose chunk a migration has still to pull (R68). -/
def State.rowPulls (s : State) (xs : List (Nat × Nat)) : Option Nat :=
  (xs.find? fun x => s.translate s.ctxNo x.2 1 .engRead false == .migrating).map (·.2)

/-- Issues a bank command for the band (R84). DEDUCED: notes/assumptions/38.md. An address that names no stacked memory is a channel that
the context does not own (R85); whether that takes in an address that no walk translates, such as one with any of bits [63:56] set, the
spec does not say: the model ends the operation as R143 and R329 do (DESIGN CHOICE, notes/assumptions/95.md). -/
def State.bankIssue (s : State) (m : Lane) (fn va mask off k : Nat) : State :=
  match s.translate s.ctxNo va 1 .engRead false with
  | .absent level pte base size => s.parkEngine m va level pte base size Kind.engRead.code Kind.engRead.code
  | .migrating => s.holdAll (.migrating va)
  -- an address in no range, or in control space, lies outside stacked memory (R85)
  | .bad c => if c = .physicalRange ∨ c = .channelOwnership then s.bandTrap .channelOwnership (va % 2 ^ 56) else s.pendEngine m va va
  | .ok pa e base size pin =>
    match s.ctl.coord pa with
    | none => s.bandTrap .channelOwnership (va % 2 ^ 56)
    | some x =>
      let stack := x.channel % 16
      let mine (g : Nat) : Bool := s.ctl.owner.getD g 0 == s.ctxNo + 1
      if !mine x.channel || (layersOf mask).any (fun l => !mine (16 * l + stack)) then s.bandTrap .channelOwnership (va % 2 ^ 56)
      else if fn = bankLut ∧ s.rowCached (s.rowVas va pa stack x.bank x.row mask) then s.bandTrap .policy (va % 2 ^ 56)
      else if bankSpan fn ≠ 0 ∧ (off % 128 ≠ 0 ∨ !s.clp.inSpad off (bankSpan fn)) then s.bandTrap .spadBounds off
      else
        let rs : List RangeReq :=
          -- the row's lock is an entry that names no virtual range: the operation names the row
          if fn = bankLut then [⟨none, 0, 0, false⟩]
          else if bankSpan fn = 0 then []
          else [⟨some s.sh.clump, off, off + bankSpan fn, fn == bankRed⟩]
        let pulls := if fn = bankLut then s.rowPulls (s.rowVas va pa stack x.bank x.row mask) else none
        let locked := fn = bankLut ∧ s.rowLocked s.coreOf s.ctxNo stack x.bank x.row mask
        let full := (layersOf mask).any fun l => decide (32 ≤ (s.dram.queue.getD (layerBank stack x.bank l) []).length)
        if pulls.isSome then s.holdAll (.migrating (pulls.getD 0))
        else if full ∨ locked ∨ s.lockWait s.coreOf s.ctxNo rs then s.holdAll .engineIssue
        else
          let s := s.useLeaf s.ctxNo base size e pin
          let i := s.fresh
          let lines := if fn = bankRed then spadLinesOf off 4096 else []
          let o := i.2.opFor m i.1 (.bank fn stack x.bank x.row mask off k [] false) none lines
          let s := i.2.accept o rs
          let s := if fn = bankSync then s.updBand s.sh.clump m.band fun b => b.promise i.1 k else s
          let g := groupNo stack x.bank
          { s with dram := { s.dram with port := s.dram.port.insert g (s.dram.port.getD g [] ++ [i.1]) } }

/-! ### Execution (R78, R80, R81) -/

/-- The latch entry of a code. -/
def State.latchEntry (s : State) (b j c : Nat) : Val :=
  Num.decode Num.b16 (leNat ((List.range 2).map fun i => s.dram.latch.getD (128 * b + 32 * j + 2 * c + i) 0))

/-- Nibble `n` of a row of 2 KiB. -/
def rowNibble (row : List Byte) (n : Nat) : Nat := ((row[n / 2]?).getD 0).toNat / 16 ^ (n % 2) % 16

/-- `acc[o]` after a `bank.lut` (R78). -/
def State.lutSum (s : State) (b : Nat) (row : List Byte) (o : Nat) : Word :=
  let v := (List.range 4).foldl (fun a j => Num.add 0 a (s.latchEntry b j (rowNibble row (4 * o + j))))
    (Num.ofF32 (s.dram.acc.getD (1024 * b + o) 0))
  match v with
  | .fin _ 0 _ => 0
  | v => Num.rneF32 v

/-- Fills a bank's latch. -/
def State.setLatch (s : State) (b : Nat) (bs : List Byte) : State :=
  { s with dram := { s.dram with latch := (List.range 128).foldl (fun m i => m.put (128 * b + i) 0 ((bs[i]?).getD 0)) s.dram.latch } }

/-- Activates a row in a bank and accumulates: the row is read in logical time, after what the operation follows (R84, R115, R124). -/
def State.lutBank (s : State) (o : Op) (channel bank row : Nat) : State :=
  let b := bankNo channel bank
  let segs := s.rowSegments channel bank row
  let r := segs.foldl (fun (r : Nat × State) p => let y := r.2.agentTouch o.floor p 64; (Nat.max r.1 y.1, y.2)) (o.floor, s)
  let s := r.2.noteOp o r.1
  let bytes := segs.flatMap fun p => s.mem.readBytes p 64
  let acc := (List.range 1024).foldl (fun m o => m.put (1024 * b + o) 0 (s.lutSum b bytes o)) s.dram.acc
  let bad := segs.any fun p => s.poisoned p 64
  { s with dram := { s.dram with acc := acc, accPoison := if bad then addOnce s.dram.accPoison b else s.dram.accPoison } }

/-- Clears a bank's accumulator and its poison. -/
def State.clearBank (s : State) (b : Nat) : State :=
  { s with dram := { s.dram with acc := s.dram.acc.filter fun x => x.1 / 1024 != b, accPoison := s.dram.accPoison.filter (· != b) } }

/-- What a command does in one bank, before it is noted in `got`. -/
def State.bankAct (s : State) (o : Op) (fn off channel bank row : Nat) : State :=
  match fn with
  | 0 => s.setLatch (bankNo channel bank) ((s.clump o.clump).spadBytes (off + 128 * (channel / 16)) 128)
  | 1 => s.lutBank o channel bank row
  | 2 => s.setLatch (bankNo channel bank) ((s.clump o.clump).spadBytes off 128)
  | 5 => s.clearBank (bankNo channel bank)
  | _ => s

/-- The base-die tree over up to 16 partials of one output (R80). -/
def bankTree (xs : List Word) : Word :=
  let pairs (xs : List Word) : List Word := (List.range (xs.length / 2)).map fun i => Num.addRne ((xs[2 * i]?).getD 0) ((xs[2 * i + 1]?).getD 0)
  ((pairs (pairs (pairs (pairs ((xs ++ List.replicate 16 0).take 16)))))[0]?).getD 0

/-- An arrival order of `p` partials: the one given, what it does not name following in ascending order. -/
def arrival (p : Nat) (perm : List Nat) : List Nat :=
  let first := (perm.filter fun i => decide (i < p)).dedup
  first ++ (List.range p).filter fun i => !first.contains i

/-- A `bank.sync` ends once it has run in its banks and no earlier `bank.red` of its band to its group is left. -/
def State.syncEnds (s : State) (o : Op) : Bool :=
  match o.kind with
  | .bank 4 stack bank _ mask _ _ got _ =>
    decide ((layersOf mask).length ≤ got.length) && !(s.ops.any fun x => decide (x.id < o.id) && x.clump == o.clump && x.band == o.band &&
      (match x.kind with
       | .bank 3 stack' bank' _ _ _ _ _ _ => stack' == stack && bank' == bank
       | _ => false))
  | _ => false

/-- Ends a `bank.sync` whose wait is over. -/
def State.endSync (s : State) (o : Op) : State :=
  match o.kind with
  | .bank 4 _ _ _ _ _ k _ _ => if s.syncEnds o then (s.updBand o.clump o.band fun b => b.give o.id k 0).endOp o 0 else s
  | _ => s

/-- Ends every `bank.sync` whose wait is over. -/
def State.endSyncs (s : State) : State := s.ops.foldl State.endSync s

/-- A command that every participating bank has executed ends; a `bank.red` waits for its tree. -/
def State.bankDone (s : State) (o : Op) : State :=
  match o.kind with
  | .bank fn _ _ _ mask _ _ got _ =>
    if got.length < (layersOf mask).length ∨ fn = bankRed then s
    else if fn = bankSync then s.endSync o
    else s.endOp o 0
  | _ => s

/-- The operation after one bank has executed it. -/
def Op.ranIn (o : Op) (s : State) (l : Nat) : Op :=
  match o.kind with
  | .bank fn stack bank row mask off k got bad =>
    let b := layerBank stack bank l
    let part := if fn = bankRed then (List.range 1024).map fun i => s.dram.acc.getD (1024 * b + i) 0 else []
    { o with kind := .bank fn stack bank row mask off k (got ++ [(l, part)]) (bad || s.dram.accPoison.contains b) }
  | _ => o

/-! ### The instructions -/

/-- The operands of a bank instruction: address in A, mask in D, scratchpad offset in B (R83). -/
def State.bankOp (s : State) (d a b : BitVec 7) (fn : Nat) : State :=
  s.engine fun m s => s.bankIssue m fn (s.opA64 m a).toNat ((s.opD m d).toNat % 2 ^ 16) (s.opB m b).toNat 0

/-- R84. -/
def execBankTbl (d a b : BitVec 7) (s : State) : Out := .next (s.bankOp d a b bankTbl)
/-- R84. -/
def execBankLut (d a : BitVec 7) (s : State) : Out :=
  .next (s.engine fun m s => s.bankIssue m bankLut (s.opA64 m a).toNat ((s.opD m d).toNat % 2 ^ 16) 0 0)
/-- R84. -/
def execBankBcast (d a b : BitVec 7) (s : State) : Out := .next (s.bankOp d a b bankBcast)
/-- R84. -/
def execBankRed (d a b : BitVec 7) (s : State) : Out := .next (s.bankOp d a b bankRed)
/-- R84: the mask is in B, and k[D] gets 0 later. -/
def execBankSync (d a b : BitVec 7) (s : State) : Out :=
  .next (s.engine fun m s => s.bankIssue m bankSync (s.opA64 m a).toNat ((s.opB m b).toNat % 2 ^ 16) 0 d.toNat)
/-- R84. -/
def execBankClr (d a : BitVec 7) (s : State) : Out :=
  .next (s.engine fun m s => s.bankIssue m bankClr (s.opA64 m a).toNat ((s.opD m d).toNat % 2 ^ 16) 0 0)

/-! ### The events -/

/-- R79: a group's port accepts its oldest command once every participating queue has room. -/
def execBankCommandAccept (group : Nat) (s : State) : Out :=
  .next (match s.dram.port.getD group [] with
    | [] => s
    | i :: rest =>
      let port := s.dram.port.put group [] rest
      match s.op i with
      | some o =>
        match o.kind with
        | .bank _ stack bank _ mask _ _ _ _ =>
          let bs := (layersOf mask).map (layerBank stack bank)
          if bs.any fun b => decide (32 ≤ (s.dram.queue.getD b []).length) then s
          else
            let queue := bs.foldl (fun q b => q.insert b (q.getD b [] ++ [i])) s.dram.queue
            ({ s with dram := { s.dram with port := port, queue := queue } }).bankDone o
        | _ => { s with dram := { s.dram with port := port } }
      | none => { s with dram := { s.dram with port := port } })

/-- R79: a bank runs the oldest command of its queue. -/
def execBankCommandExecute (channel bank : Nat) (s : State) : Out :=
  let b := bankNo channel bank
  .next (match s.dram.queue.getD b [] with
    | [] => s
    | i :: rest =>
      let s := { s with dram := { s.dram with queue := s.dram.queue.put b [] rest } }
      let s := match s.op i with
        | some o =>
          match o.kind with
          | .bank fn _ _ row _ off _ _ _ =>
            let t := s.bankAct o fn off channel bank row
            let o' := ((t.op i).getD o).ranIn t (channel / 16)
            (t.updOp i fun _ => o').bankDone o'
          | _ => s
        | none => s
      s.wakeWhere fun k => k == .engineIssue)

/-- R80: the partials reach the tree in an order of arrival, and the sums land in the scratchpad. -/
def execBankRedTree (op : Nat) (perm : List Nat) (s : State) : Out :=
  .next (match s.op op with
    | some o =>
      match o.kind with
      | .bank 3 _ _ _ mask off _ got bad =>
        if got.length < (layersOf mask).length then s
        else
          let parts := (arrival got.length perm).filterMap fun i => (got[i]?).map (·.2)
          let words := (List.range 1024).map fun i => bankTree (parts.map fun p => (p[i]?).getD 0)
          let bytes := words.flatMap fun w => leBytes 4 w.toNat
          let s := s.updClump o.clump fun c => c.engSpad off (bytes, if bad then List.replicate 4096 true else [])
          (s.endOp o 0).endSyncs
      | _ => s
    | none => s)

end Sys2Proof.Machine
end

