-- ==== Sys2Proof/Machine/Wait.lean ====
section
/-!
DEFINITION. Waiting on an address, sleeping and yielding, OP 0x26 (R297 to R304); swap-out (R300); the wait budget and its
snapshot (R301, R305).
-/

namespace Sys2Proof.Machine

/-! ### Arming a monitor (R297, R299, R304) -/

/-- The participants of a band take a trap. -/
def State.trapThese (s : State) (ms : List Lane) (t : Trap) : State := ms.foldl (fun s m => s.trap m t) s

/-- The participants of a band are held. -/
def State.holdThese (s : State) (ms : List Lane) (on : ParkOn) : State := ms.foldl (fun s m => s.hold m on) s

/-- The leaf for an address pins its page in a core's SRAM. -/
def State.corePinned (s : State) (ctx va : Nat) : Bool :=
  match s.leafFor ctx va with
  | .leaf _ _ e => pteHome e == 1
  | _ => false

/-- The word that a band waits on, or the state in which its participants have trapped or parked.
DEDUCED: notes/assumptions/42.md. -/
def State.waitReach (s : State) (ms : List Lane) (m : Lane) (va : Nat) : Except State (Nat × State) :=
  let misuse : State := s.trapThese ms (vaTrap .waitMisuse va)
  if va % 4 ≠ 0 then .error (s.trapThese ms (vaTrap .misaligned va))
  else
    match s.translate s.ctxNo va 4 .read with
    | .absent level pte base size =>
      let b := s.bnd m
      let u := s.noteFault s.ctxNo s.sh.die va level pte base size Kind.read.code b.slot b.quad s.sh.core
      .error (u.holdThese ms (.xlate va Kind.read.code))
    | .migrating => .error (s.holdThese ms (.migrating va))
    | .bad c =>
      if c = .pageLost then .error (s.trapThese ms (vaTrap c va))
      else if c = .physicalRange ∨ s.corePinned s.ctxNo va then .error misuse
      else .error (s.trapThese ms (vaTrap c va))
    | .ok pa e base size pin =>
      let place := s.ctl.place pa
      if pteHome e = 1 ∨ place = .control ∨ (place = .host ∧ pteHome e = 3) then .error misuse
      else .ok (pa, s.useLeaf s.ctxNo base size e pin)

/-- Monitors armed at a slice. -/
def State.armedAt (s : State) (slice : Nat) : Nat := s.coh.monitors.countP fun x => x.2.slice == slice && x.2.woken.isNone

/-- A band that arms at a slice whose monitors are all armed makes every wait there return spuriously (R299).
DEDUCED: notes/assumptions/40.md. -/
def State.overflow (s : State) (slice : Nat) : State :=
  if s.armedAt slice < Config.monitorsPerSlice then s
  else
    { s with coh := { s.coh with monitors := s.coh.monitors.map fun x =>
        (x.1, if x.2.slice = slice ∧ x.2.woken.isNone then { x.2 with woken := some false } else x.2) } }

/-- Arms a monitor at a word, as a read at ta; a word that satisfies the condition then has woken it already.
DEDUCED: notes/assumptions/40.md. -/
def State.arm (s : State) (ms : List Lane) (m : Lane) (pa va fn : Nat) (x : Word) (d : Nat) : State :=
  let slice := s.ctl.homeSlice pa
  let r := (s.overflow slice).readHome (s.cts s.coreOf) pa 4 0
  let s := r.2.raise s.coreOf r.1
  let i := s.fresh
  let mon : Monitor :=
    { slice := slice, pa := pa, va := va, fn := fn, value := x, ctx := s.ctxNo, clump := s.sh.clump, band := m.band,
      lanes := ms.map (·.lane), d := d, time := r.1, acq := if s.sh.ext.order = 1 then some s.sh.ext.scope else none,
      woken := if waitCond fn (BitVec.ofNat 32 (s.mem.readNat pa 4)) x then some true else none }
  let s := { i.2 with coh := { i.2.coh with monitors := i.2.coh.monitors.insert i.1 mon } }
  ms.foldl (fun s y => s.parkAt y (.wait i.1)) s

/-- A rollback has a strand issue the word at hand again, which then reports the spurious status (R319). -/
def State.again (s : State) (m : Lane) : Bool := (s.str m).spurious == some s.sh.pc

/-- A wait of a condition: once for each band with participants, with its lowest participant's operands (R303). Strands that issue it
again after a rollback get the spurious status at once (R299, R319). -/
def State.wait (s : State) (d : BitVec 3) (a b : BitVec 7) (fn : Nat) : State :=
  (s.activeBands.foldl (fun u bm =>
    let m := lowest bm.2
    let va := (s.opA64 m a).toNat
    match u.waitReach bm.2 m va with
    | .error u => u
    | .ok (pa, u) =>
      let u := (bm.2.filter s.again).foldl (fun u x => u.soon x (.p d.toNat false)) u
      match bm.2.filter fun x => !s.again x with
      | [] => u
      | ms => u.arm ms m pa va fn (s.opB m b) d.toNat) s).endRegion

/-! ### The instructions -/

/-- R303: word = value. -/
def execWaitEq (d : BitVec 3) (a b : BitVec 7) (s : State) : Out := .next (s.wait d a b 0)

/-- R303: word ≠ value. -/
def execWaitNe (d : BitVec 3) (a b : BitVec 7) (s : State) : Out := .next (s.wait d a b 1)

/-- R303: word ≥ value, unsigned. -/
def execWaitGeu (d : BitVec 3) (a b : BitVec 7) (s : State) : Out := .next (s.wait d a b 2)

/-- R303: (word AND mask) ≠ 0. -/
def execWaitMask (d : BitVec 3) (a b : BitVec 7) (s : State) : Out := .next (s.wait d a b 3)

/-- R303: not ready for the next 16 issue slots of the quadrant. -/
def execYield (s : State) : Out :=
  .next ((s.eachLane fun m u =>
    u.parkAt m (.yield (u.slotCount u.clp.coreNo (u.bnd m).quad + 16))).endRegion)

/-- R303, R304: each strand sleeps for the cycles of its own A[23:0]; a sleep of none returns at once, with status 0, as one does that a
rollback has issued again (R319). DEDUCED: notes/assumptions/41.md. -/
def execSleep (d : BitVec 3) (a : BitVec 7) (s : State) : Out :=
  .next ((s.eachLane fun m u =>
    let n := (s.opA m a).toNat % 2 ^ 24
    if n = 0 ∨ s.again m then u.soon m (.p d.toNat false) else u.parkAt m (.sleep (s.cycle + n) d.toNat)).endRegion)

/-- The parked bands of a context do not return: its budget has reached zero (R301). -/
def State.spent (s : State) (ctx : Nat) : Bool := (s.ctx ctx).budget == 0 || (s.ctx ctx).broke

/-- Ends a strand's sleep: its status is 1 if a wake comes before its cycles have passed (R303). DEDUCED: notes/assumptions/41.md. -/
def State.endSleep (s : State) (c : Nat) (m : Lane) : State :=
  match (s.strand c m).park with
  | some ⟨.sleep n d, _, _⟩ =>
    if s.spent (s.clump c).ctx then s else (s.updStrand c m fun t => t.giveStatus (.p d (decide (s.cycle < n)))).unpark c m
  | _ => s

/-- R303: ends the sleep of every strand of the clump's band that A numbers, or of all bands for 0xFFFF_FFFF. -/
def execWake (a : BitVec 7) (s : State) : Out :=
  .next ((s.activeBands.foldl (fun u bm =>
    let k := (s.opA (lowest bm.2) a).toNat
    let bs := if k = 0xFFFFFFFF then List.range s.clp.bands.length else (List.range s.clp.bands.length).filter (· == k)
    bs.foldl (fun u b => (u.band s.sh.clump b).strands.foldl (fun u x => u.endSleep s.sh.clump ⟨b, x.1⟩) u) u) s).endRegion)

/-! ### Returning -/

/-- A clump that was swapped out waits for placement, ahead of clumps that have not started (R300).
DEDUCED: notes/assumptions/41.md. -/
def State.callBack (s : State) (c : Nat) : State :=
  -- a thicket is named by its leader, if that has not ended
  let c := if (s.clump c).thicket = 2 then ((s.clump c).peer.filter fun p => (s.clumps.find? p).isSome).getD c else c
  let k := s.clump c
  if k.place ≠ .swapped ∨ s.waiting.any (fun w => w.saved == some c) then s
  else
    let w : Waiting := { planting := k.planting, no := k.no, prio := (s.plantingOf c).prio, saved := some c }
    { s with waiting := w :: s.waiting }

/-- R298, R299: a woken monitor returns its band's waiting strands with their status, and is free; a true status follows the
satisfying write. A swapped-out band first waits for its clump's placement. -/
def execWaitMonitorWake (idx : Nat) (s : State) : Out :=
  .next (match s.coh.monitors.find? idx with
    | none => s
    | some m =>
      match m.woken with
      | none => s
      | some st =>
        if s.spent m.ctx then s
        else if (s.clump m.clump).place ≠ .resident then s.callBack m.clump
        else
          let s := if st then s.raise (s.clump m.clump).coreNo s.horizon else s
          let s := m.lanes.foldl (fun s l =>
            let y : Lane := ⟨m.band, l⟩
            match (s.strand m.clump y).park with
            | some ⟨.wait i, _, _⟩ =>
              if i = idx then (s.updStrand m.clump y fun t => t.giveStatus (.p m.d st)).unpark m.clump y else s
            | _ => s) s
          { s with coh := { s.coh with monitors := s.coh.monitors.erase idx } })

/-- R303: a sleep runs out, with status 0. -/
def execSleepExpiry (clump band lane : Nat) (s : State) : Out :=
  .next (match (s.strand clump ⟨band, lane⟩).park with
    | some ⟨.sleep n _, _, _⟩ =>
      if s.cycle < n ∨ s.spent (s.clump clump).ctx then s
      else if (s.clump clump).place = .resident then s.endSleep clump ⟨band, lane⟩
      else s.callBack clump
    | _ => s)

/-- R303: 16 issue slots of the quadrant have passed. -/
def execYieldExpiry (clump band lane : Nat) (s : State) : Out :=
  .next (match (s.strand clump ⟨band, lane⟩).park with
    | some ⟨.yield n, _, _⟩ =>
      if s.slotCount (s.clump clump).coreNo (s.band clump band).quad < n then s else s.unpark clump ⟨band, lane⟩
    | _ => s)

/-! ### Swap-out (R300) -/

/-- A strand is parked on a WAIT or BAR instruction; a yielding strand is not parked, only not ready (R303).
DEDUCED: notes/assumptions/39.md. -/
def Strand.waits (t : Strand) : Bool :=
  match t.park with
  | some ⟨.wait _, _, _⟩ => true
  | some ⟨.sleep _ _, _, _⟩ => true
  | some ⟨.barrier _ _, _, _⟩ => true
  | _ => false

/-- Every live strand of every band is parked so, and there is one. -/
def Clump.fullyParked (c : Clump) : Bool :=
  c.bands.any (fun b => b.strands.any fun x => x.2.life == .live) &&
    c.bands.all fun b => b.strands.all fun x => x.2.life != .live || x.2.waits

/-- A clump has been fully parked for more than 4,096 cycles. -/
def State.longParked (s : State) (c : Nat) : Bool :=
  let k := s.clump c
  k.fullyParked && k.place == .resident && ((k.parkedSince.map fun t => decide (t + 4096 < s.cycle)).getD false)

/-! ### The wait budget (R301) -/

/-- A context has a strand parked on a WAIT or BAR instruction, resident or swapped out. -/
def State.charged (s : State) (ctx : Nat) : Bool :=
  s.clumps.any fun x => x.2.ctx == ctx && x.2.place != .saved && x.2.bands.any fun b => b.strands.any fun y => y.2.waits

/-- Notes since when a clump has been fully parked. -/
def Clump.noteParked (c : Clump) (cycle : Nat) : Clump :=
  if !c.fullyParked then { c with parkedSince := none }
  else if c.parkedSince.isNone then { c with parkedSince := some cycle }
  else c

/-- Cycles pass (R29, R301): the budgets that commands have supplied are charged, and fully parked clumps are noted.
DEDUCED: notes/assumptions/75.md. -/
def State.pass (s : State) (cycles : Nat) : State :=
  let s := ((List.range 16).filter fun c => (s.ctx c).metered && s.charged c).foldl (fun s c =>
    s.updCtx c fun x => { x with budget := x.budget - cycles }) s
  { s with cycle := s.cycle + cycles, clumps := s.clumps.map fun x => (x.1, x.2.noteParked s.cycle) }

/-- R90: cycles pass, and a core's clock may advance beyond its tick. DEDUCED: notes/assumptions/75.md. -/
def execCoreClockTick (core extra cycles : Nat) (s : State) : Out :=
  let s := s.pass cycles
  .next (s.raise core (s.cts core + extra))

/-! ### The snapshot (R305) -/

/-- A number of 64 bits from fields, each with its lowest bit. -/
def pack (fs : List (Nat × Nat)) : Nat := (fs.foldl (fun a f => a + f.2 * 2 ^ f.1) 0) % 2 ^ 64

/-- The bytes of 64-bit words. -/
def bytesOf (ws : List Nat) : List Byte := ws.flatMap (leBytes 8)

/-- Where a clump is, in a snapshot's words. -/
def Clump.whereBits (c : Clump) : List (Nat × Nat) := [(8, c.core % 256), (16, c.die % 4)]

/-- Bit 18 of an entry for a clump that is swapped out. -/
def Clump.swappedBit (c : Clump) : Nat × Nat := (18, if c.place = .swapped then 1 else 0)

/-- A mask of lanes. -/
def laneMask (ls : List Nat) : Nat := ls.foldl (fun a l => a + 2 ^ l) 0

/-- The planting id and number of a clump. -/
def State.plantWord (s : State) (c : Nat) : Nat := pack [(0, (s.plantingOf c).id % 2 ^ 32), (32, (s.clump c).no % 2 ^ 32)]

/-- A monitor's entry. -/
def State.monEntry (s : State) (m : Monitor) : List Nat :=
  let c := s.clump m.clump
  [m.va, pack [(0, m.value.toNat), (32, m.fn)], s.plantWord m.clump,
    pack ([(0, (s.band m.clump m.band).slot % 256), c.swappedBit] ++ c.whereBits)]

/-- Strands of a clump that have arrived at a barrier in its phase. -/
def Clump.arrivedAt (c : Clump) (n : Nat) : Nat :=
  c.bands.foldl (fun a b => a + b.strands.countP fun x => x.2.arrived.getLsbD n) 0

/-- Live strands of a clump. -/
def Clump.liveCount (c : Clump) : Nat := c.bands.foldl (fun a b => a + b.live.length) 0

/-- The arrivals that a barrier's phase holds: strands, or in count mode arrivals. -/
def Clump.arrivals (c : Clump) (n : Nat) : Nat :=
  let b := c.bars.getD n {}
  if b.count = 0 then c.arrivedAt n else b.arrivals

/-- The entries of a clump's barriers that hold arrivals. -/
def State.barEntries (s : State) (c : Nat) : List (List Nat) :=
  let k := s.clump c
  ((List.range 64).filter fun n => k.arrivals n != 0).map fun n =>
    let b := k.bars.getD n {}
    [pack ([(0, n), (18, if b.thicket then 1 else 0)] ++ k.whereBits), pack [(0, b.phase.toNat), (32, b.count)],
      pack [(0, k.arrivals n % 2 ^ 32), (32, k.liveCount)], s.plantWord c]

/-- The reason code of a parked band: 0 wait, 1 barrier, 2 sleep, by its lowest parked lane. -/
def parkReason : ParkOn → Nat
  | .barrier _ _ => 1
  | .sleep _ _ => 2
  | _ => 0

/-- The entry of a band with a parked strand. -/
def State.parkEntry (s : State) (c b : Nat) : Option (List Nat) :=
  let k := s.clump c
  let y := k.band b
  let ps := (y.strands.filter fun x => x.2.life == .live && x.2.waits).map fun x => (x.1, x.2.park)
  match ps with
  | (_, some p) :: _ =>
    some [s.plantWord c, pack ([(0, y.slot % 256), (20, parkReason p.on), k.swappedBit] ++ k.whereBits),
      pack [(0, laneMask (ps.map (·.1))), (32, laneMask y.live)], p.word.toNat]
  | _ => none

/-- The snapshot's bytes. DEDUCED: notes/assumptions/46.md. -/
def State.snapshot (s : State) (ctx : Nat) : List Byte :=
  let cs := (s.clumps.filter fun x => x.2.ctx == ctx && x.2.place != .saved).map (·.1)
  let mons := (s.coh.monitors.filter fun x => x.2.ctx == ctx && x.2.woken.isNone).map fun x => s.monEntry x.2
  let bars := cs.flatMap s.barEntries
  let parks := cs.flatMap fun c => (List.range (s.clump c).bands.length).filterMap (s.parkEntry c)
  bytesOf ([pack [(0, ctx), (32, mons.length)], pack [(0, bars.length), (32, parks.length)], s.time, 0, 0, 0, 0, 0] ++
    (mons ++ bars ++ parks).flatten)

/-- R301, R305, R322: a budget of zero ends the context: it is pre-empted, once a mode switch under way has completed; its parked bands
do not return, and the host gets the snapshot and an interrupt. -/
def State.exhaust (s : State) (ctx : Nat) : State :=
  let x := s.ctx ctx
  if x.budget ≠ 0 ∨ x.broke ∨ x.away ∨ x.stopping.isSome then s
  else
    let s := (s.agentWrite s.horizon x.snap (s.snapshot ctx)).2
    ((s.updCtx ctx fun x => { x with broke := true }).requestPreempt ctx 1).irq (ctxVector ctx 1)

/-- R301: the budget of a context has reached zero. -/
def execWaitBudgetExhausted (ctx : Nat) (s : State) : Out := .next (s.exhaust ctx)

end Sys2Proof.Machine
end

