-- ==== Sys2Proof/Machine/Bar.lean ====
section
/-!
DEFINITION. Named barriers, OP 0x27 (R306 to R310), and the completion of their phases, which ending strands share (R275, R276).
-/

namespace Sys2Proof.Machine

/-! ### Phases (R306, R307) -/

/-- A barrier of a clump. -/
def State.bar (s : State) (c n : Nat) : Barrier := (s.clump c).bars.getD n {}

/-- The clumps that share a clump's barriers: the two of a thicket keep one phase and one set of arrivals (R307). -/
def State.barClumps (s : State) (c : Nat) : List Nat := c :: (s.clump c).peer.toList.filter fun p => (s.clumps.find? p).isSome

/-- Changes a barrier. -/
def State.updBar (s : State) (c n : Nat) (f : Barrier → Barrier) : State :=
  let x := f (s.bar c n)
  (s.barClumps c).foldl (fun s c => s.updClump c fun k => { k with bars := k.bars.put n {} x }) s

/-- Changes every strand of a clump. -/
def Clump.mapStrands (c : Clump) (f : Strand → Strand) : Clump :=
  { c with bands := c.bands.map fun b => { b with strands := b.strands.map fun x => (x.1, f x.2) } }

/-- A strand counts as arrived at a barrier's phase: it has arrived, has ended, or became pending restart in the phase or before. -/
def Strand.counts (t : Strand) (n : Nat) : Bool :=
  t.life == .exited || t.life == .absent || t.arrived.getLsbD n || t.excused.getLsbD n

/-- Every live strand of a clump counts as arrived. -/
def Clump.allArrived (c : Clump) (n : Nat) : Bool := c.bands.all fun b => b.strands.all fun x => x.2.counts n

/-- The phase of a barrier holds arrivals, of either clump of a thicket. -/
def State.holdsArrivals (s : State) (c n : Nat) : Bool := (s.barClumps c).any fun x => (s.clump x).arrivals n != 0

/-- A barrier's phase completes: in count mode its arrivals reach the count; else every live strand it concerns has arrived (R306). A phase
with `.t` arrivals concerns both clumps of a thicket; one without concerns the clump, and the other where it has arrived there too.
DEDUCED: notes/assumptions/43.md. -/
def State.phaseDone (s : State) (c n : Nat) : Bool :=
  let b := s.bar c n
  let cs := s.barClumps c
  if b.count ≠ 0 then decide (b.count ≤ b.arrivals)
  else
    (decide (cs.length = 1) || s.holdsArrivals c n) &&
      (cs.filter fun x => x == c || b.thicket || (s.clump x).arrivals n != 0).all fun x => (s.clump x).allArrived n

/-- Makes ready the strands of a clump that wait for a phase other than the current one; a clump that has been swapped out first waits
for placement, and those of a context whose budget is spent do not return (R300, R301). -/
def State.wakeBar (s : State) (c n : Nat) : State :=
  let phase := (s.bar c n).phase.toNat
  if s.spent (s.clump c).ctx then s
  else if (s.clump c).place ≠ .resident then s.callBack c
  else
    (List.range (s.clump c).bands.length).foldl (fun s b => s.wakeBand c b fun k =>
      match k with
      | .barrier x t => x == n && t != phase
      | _ => false) s

/-- Clears bit `n`. -/
def clearBit (x : BitVec 64) (n : Nat) : BitVec 64 := x &&& ~~~(1#64 <<< n)

/-- A strand in the phase after one that completes: it has not arrived there. One that is pending restart counts as arrived there too
while live strands are left (R306); where none is, the phase that begins is the one from which the restarted strands count as live
(R276). DEDUCED: notes/assumptions/39.md. -/
def Strand.nextPhase (t : Strand) (n : Nat) (live : Bool) : Strand :=
  { t with arrived := clearBit t.arrived n, excused := if t.life = .restart ∧ live then t.excused else clearBit t.excused n }

/-- Completes a phase: it advances, its arrivals are cleared, and the strands that wait for it go on after every arrival
(R123). DEDUCED: notes/assumptions/43.md. -/
def State.completePhase (s : State) (c n : Nat) : State :=
  let cs := s.barClumps c
  let t := cs.foldl (fun a x => Nat.max a (s.cts (s.clump x).coreNo)) 0 + 1
  let live := cs.any fun x => (s.clump x).liveCount != 0
  let s := s.updBar c n fun b => { b with phase := b.phase + 1, arrivals := 0, thicket := false }
  let s := cs.foldl (fun s x => (s.updClump x fun k => k.mapStrands fun y => y.nextPhase n live).raise (s.clump x).coreNo t) s
  cs.foldl (fun s x => s.wakeBar x n) s

/-- Completes a barrier's phase if R306 holds. -/
def State.recheckBar (s : State) (c n : Nat) : State := if s.phaseDone c n then s.completePhase c n else s

/-- Rechecks every barrier of a clump, after strands of it have ended. -/
def State.recheckBars (s : State) (c : Nat) : State := (List.range (s.clump c).kernel.bar).foldl (fun s n => s.recheckBar c n) s

/-! ### Arriving (R307, R309) -/

/-- An arrival breaks a rule: a second one of a strand in a phase, or `.t` and plain arrivals mixed, or `.t` in count mode. -/
def State.badArrival (s : State) (c : Nat) (m : Lane) (n : Nat) (thicket : Bool) : Bool :=
  let b := s.bar c n
  (b.count == 0 && (s.strand c m).arrived.getLsbD n) ||
    (if thicket then b.count != 0 || (!b.thicket && s.holdsArrivals c n) else b.thicket)

/-- Records an arrival of a strand and completes the phase if R306 holds. -/
def State.arrive (s : State) (c : Nat) (m : Lane) (n : Nat) (thicket : Bool) : State :=
  let s := if thicket then s.updBar c n fun b => { b with thicket := true } else s
  let s := if (s.bar c n).count = 0 then s.updStrand c m fun t => { t with arrived := t.arrived ||| (1#64 <<< n) }
    else s.updBar c n fun b => { b with arrivals := b.arrivals + 1 }
  s.recheckBar c n

/-- The trap of a barrier. -/
def barTrap (n : Nat) : Trap := { cause := .barrierMisuse, addr := n }

/-- Each active strand arrives, in ascending home lane; its token is the phase before its own arrival. -/
def State.arriveEach (s : State) (n : Nat) (thicket : Bool) (f : Lane → Word → State → State) : State :=
  (s.eachLane fun m u =>
    if u.badArrival s.sh.clump m n thicket then u.trap m (barTrap n)
    else (f m (u.bar s.sh.clump n).phase u).arrive s.sh.clump m n thicket).endRegion

/-- `bar.arrive`: D gets the token. -/
def State.barArrive (s : State) (d : BitVec 7) (n : Nat) (thicket : Bool) : State :=
  s.arriveEach n thicket fun m t u => u.updStr m fun x => x.push [.v d.toNat t]

/-- `bar.sync`: the strand is parked until the phase moves on. -/
def State.barSync (s : State) (n : Nat) (thicket : Bool) : State :=
  s.arriveEach n thicket fun m t u => u.parkAt m (.barrier n t.toNat)

/-! ### The instructions -/

/-- R309: sets the mode of a barrier whose phase holds no arrivals, once for each band with participants. -/
def execBarInit (a : BitVec 6) (b : BitVec 7) (s : State) : Out :=
  let n := a.toNat
  .next ((s.activeBands.foldl (fun u bm =>
    let c := (s.opB (lowest bm.2) b).toNat
    if (u.holdsArrivals s.sh.clump n ∨ (u.bar s.sh.clump n).thicket) ∨ 65536 < c then u.trapThese bm.2 (barTrap n)
    else u.updBar s.sh.clump n fun x => { x with count := c, arrivals := 0 }) s).endRegion)

/-- R309. -/
def execBarArrive (d : BitVec 7) (a : BitVec 6) (s : State) : Out := .next (s.barArrive d a.toNat false)

/-- R309: parks until the phase differs from the token. -/
def execBarWait (a : BitVec 6) (b : BitVec 7) (s : State) : Out :=
  .next ((s.eachLane fun m u =>
    if (u.bar s.sh.clump a.toNat).phase = s.opB m b then u.parkAt m (.barrier a.toNat (s.opB m b).toNat) else u).endRegion)

/-- R309. -/
def execBarSync (a : BitVec 6) (s : State) : Out := .next (s.barSync a.toNat false)

/-- R307, R309: a thicket arrival. -/
def execBarArriveT (d : BitVec 7) (a : BitVec 6) (s : State) : Out := .next (s.barArrive d a.toNat true)

/-- R307, R309: a thicket arrival, and the wait for it. -/
def execBarSyncT (a : BitVec 6) (s : State) : Out := .next (s.barSync a.toNat true)

/-- R309: whether the phase differs from the token. -/
def execBarTest (d : BitVec 3) (a : BitVec 6) (b : BitVec 7) (s : State) : Out :=
  .next ((s.perLane fun m => [.p d.toNat ((s.bar s.sh.clump a.toNat).phase != s.opB m b)]).endRegion)

end Sys2Proof.Machine
end

