-- ==== Sys2Proof/Machine/Flow.lean ====
section
/-!
DEFINITION. Control flow: branches and jumps, OP 0x28 to 0x2A (R268 to R273); ending strands, and the result word, of OP 0x2B
(R274 to R280); region heads, OP 0x2C (R154 to R160).
-/

namespace Sys2Proof.Machine

/-! ### Branches and jumps -/

/-- The target of a branch of the word at hand (R18, R269): a signed displacement in packets, and a slot. -/
def State.branchTarget (s : State) (disp : BitVec 18) (slot : BitVec 2) : Word :=
  BitVec.ofInt 32 (((pcPacket s.sh.pc : Int) + s.dispB disp) * 4 + slot.toNat)

/-- Whether a branch's own guard holds for a strand (R269). -/
def branchTaken (neg : BitVec 1) (p : BitVec 3) (t : Strand) : Bool := (p == 0 || t.pred p.toNat) != (neg == 1)

/-- Writes a strand's link, which the next word reads (R269, R272). -/
def State.link (s : State) (m : Lane) : State := s.soon m (.v 127 s.sh.next)

/-- R269: each strand whose guard holds goes to the target after the whole chain. -/
def execBr (neg : BitVec 1) (p : BitVec 3) (disp : BitVec 18) (slot : BitVec 2) (s : State) : Out :=
  .next (s.eachLane fun m u => if branchTaken neg p (s.str m) then u.moveTo m (s.branchTarget disp slot) else u)

/-- R269: as `br`, and the strands that go write the link. -/
def execCall (neg : BitVec 1) (p : BitVec 3) (disp : BitVec 18) (slot : BitVec 2) (s : State) : Out :=
  .next (s.eachLane fun m u =>
    if branchTaken neg p (s.str m) then (u.link m).moveTo m (s.branchTarget disp slot) else u)

/-- R272. -/
def execJmpr (a : BitVec 7) (s : State) : Out := .next (s.eachLane fun m u => u.moveTo m (s.opA m a))

/-- R272: the target is read before the link is written. -/
def execCallr (a : BitVec 7) (s : State) : Out := .next (s.eachLane fun m u => (u.link m).moveTo m (s.opA m a))

/-- R272. -/
def execRet (s : State) : Out := .next (s.eachLane fun m u => u.moveTo m ((s.str m).reg 127))

/-- R272: an index into the table of packets that follows, or its default. -/
def execBrx (a b : BitVec 7) (s : State) : Out :=
  .next (s.eachLane fun m u =>
    let i := (s.opA m a).toNat
    let n := (s.opB m b).toNat
    u.moveTo m (BitVec.ofNat 32 ((pcPacket s.sh.pc + 1 + (if i < n then i else n)) * 4)))

/-! ### Ending strands (R275, R276) -/

/-- A band none of whose strands is live after an ending word: it ends, and its pending strands with it, or, with a successor
and n, it restarts once its outstanding writes have landed. -/
def Band.closed (b : Band) (restart : Option (Word × Nat)) : Band :=
  if b.live ≠ [] then b
  else
    match restart with
    | some _ => { b with restart := restart }
    | none => { b with
        strands := b.strands.map fun x => (x.1, if x.2.life = .restart then { x.2 with life := .exited } else x.2) }

/-- The active strands end: `restart` gives, for a band, what an `exit.next` hands over. -/
def State.endStrands (s : State) (life : Life) (restart : Nat → Option (Word × Nat)) : State :=
  -- a strand that is pending restart counts as arrived at every phase in progress (R276)
  let u := s.eachLane fun m u => u.updStr m fun t =>
    { t with life := life, excused := if life = .restart then BitVec.allOnes 64 else t.excused }
  let u := s.activeBands.foldl (fun u bm => u.updBand s.sh.clump bm.1 fun b => b.closed (restart bm.1)) u
  u.recheckBars s.sh.clump

/-- R275: the strand ends, and counts as arrived at every barrier phase. -/
def execExit (s : State) : Out := .next (s.endStrands .exited fun _ => none)

/-- R276: the strand is pending restart of its band at the value of k[A], with n = 8 D registers kept. -/
def execExitNext (d a : BitVec 7) (s : State) : Out :=
  .next (s.endStrands .restart fun b => some ((s.band s.sh.clump b).ureg a.toNat, 8 * d.toNat))

/-- Nothing is outstanding to a band's registers (R151). -/
def Band.settled (b : Band) : Bool :=
  b.engOut == [] && b.kout == [] && b.strands.all fun x =>
    x.2.out == [] && !x.2.hostResults && (x.2.life == .exited || x.2.park.isNone)

/-- A strand of a restarting band (R276, R385). DEDUCED: notes/assumptions/43.md. -/
def Strand.restarted (t : Strand) (succ : Word) (n since : Nat) : Strand :=
  { t with life := .live, pc := succ, v := t.v.filter fun x => decide (x.1 < n), p := 1, out := [], marker := false, park := none,
           trap := none, fenced := false, got := none, since := since, passes := 0, overruled := false, spurious := none, stay := true
           head := 0, ridx := 0, gap := true, fast := [], super := [], headCtr := 0, ctr := 0, detail := 0 }

/-- R276: a band whose live strands are all pending restarts, once its clump is on a core. -/
def execBandRestart (clump band : Nat) (s : State) : Out :=
  let b := s.band clump band
  .next (match b.restart with
    | none => s
    | some (succ, n) =>
      if !b.settled || (s.clump clump).place != .resident then s
      else
        let since := s.slotCount (s.clump clump).coreNo b.quad
        s.updBand clump band fun b =>
          { b with restart := none, ptab := [], regPoison := b.regPoison.filter fun g => decide (8 * g < n)
                   strands := b.strands.map fun x =>
                     (x.1, if x.2.life = .restart then x.2.restarted succ n since else x.2) })

/-! ### The result word (R279) -/

/-- Combines a value into a result word. -/
def combine (op : Nat) (old : Option Word) (x : Word) : Word :=
  match old, op with
  | none, _ => x
  | some _, 0 => x
  | some r, 1 => if r.ult x then x else r
  | some r, 2 => if r.ult x then r else x
  | some r, 3 => r ||| x
  | some r, _ => r + x

/-- R279: once for each band with participants, in ascending band slot. -/
def execResult (d a : BitVec 7) (s : State) : Out :=
  .next ((s.activeBands.foldl (fun u bm =>
    u.updPlanting s.clp.planting fun p =>
      { p with result := some (combine d.toNat p.result ((s.band s.sh.clump bm.1).ureg a.toNat)) }) s).endRegion)

/-! ### Region heads (R154 to R160) -/

/-- The fields of a region-table entry: COUNT and REG. -/
def entryCount (e : Nat) : Nat := e / 2 ^ 112 % 32
def entryRegs (e : Nat) : List Nat := (List.range (entryCount e)).map fun j => e / 2 ^ (7 * j) % 128

/-- An entry fits a live-in count and an allocation. -/
def entryFits (e n regs : Nat) : Bool :=
  entryCount e == n && decide (n ≤ 16) && (entryRegs e).all fun r => decide (r < regs) || r == 127

/-- The head of a region: the snapshot of its live-in registers as they stand once the writes outstanding to them have landed, and the
stochastic-rounding counter. -/
def Strand.atHead (t : Strand) (head : Word) (idx : Nat) (rs : List Nat) : Strand :=
  let u := t.landFirst t.out.length (some rs)
  { t with spurious := if t.head = head then t.spurious else none, stay := false, head := head, ridx := idx, gap := false
           fast := rs.map fun r => (r, u.reg r), super := rs.map fun _ => false, headCtr := t.ctr }

/-- A strand's `region`, for an entry that its core has cached or that it waits for; requests on the CXL.io path that are still to write a
live-in register park it. DEDUCED: notes/assumptions/44.md. Whether a cache hit still translates the table's page the spec does not say: the
model translates at every `region`, so that a hit can park or trap (DESIGN CHOICE, notes/assumptions/102.md). -/
def State.regionLane (s : State) (m : Lane) (idx n : Nat) : State :=
  let k := s.clp.kernel
  let bad : Trap := { cause := .regionTable, addr := idx }
  if k.nreg ≤ idx then s.trap m bad
  else
    let va := k.rtab + 16 * idx
    match s.translate s.ctxNo va 16 .read with
    | .absent level pte base size => s.parkFault m va level pte base size Kind.read.code Kind.read.code
    | .migrating => s.hold m (.migrating va)
    | .bad c => s.trap m (vaTrap c va)
    | .ok pa e base size pin =>
      if !s.coh.rtabs.contains (s.coreOf, s.ctxNo, k.rtab, idx) then s.hold m (.regionMiss idx)
      else
        let s := s.useLeaf s.ctxNo base size e pin
        let x := s.latestNat pa 16
        if !entryFits x n k.regs then s.trap m bad
        else if (s.bnd m).engOut.any fun e => e.vregs.any (entryRegs x).contains then s.hold m .interlock
        else
          let u := (s.updStr m fun t => t.atHead s.sh.start idx (entryRegs x)).afterChain m
            (.land (s.str m).out.length (some (entryRegs x)) [])
          if (u.str m).hostLiveIn then u.parkAt m (.fence 7 0 []) else u

/-- R159. -/
def execRegion (d a b : BitVec 7) (s : State) : Out :=
  let idx := s.sh.ext.mode.toNat * 2 ^ 14 + a.toNat * 2 ^ 7 + b.toNat
  .next (s.eachLane fun m u => u.regionLane m idx d.toNat)

/-- R153, R159: a region-table entry reaches its core's cache, which holds 256, and the strand that waited goes on. Which entry leaves a
full cache the spec does not say: the model drops the one that was filled longest ago (DESIGN CHOICE, notes/assumptions/101.md). -/
def execRegionTableFill (clump band lane : Nat) (s : State) : Out :=
  .next (match (s.strand clump ⟨band, lane⟩).park with
    | some ⟨.regionMiss idx, _, _⟩ =>
      let c := s.clump clump
      let key := (c.coreNo, c.ctx, c.kernel.rtab, idx)
      let mine := (s.coh.rtabs.filter fun x => x.1 == c.coreNo && x != key) ++ [key]
      let rest := s.coh.rtabs.filter fun x => x.1 != c.coreNo
      { s with coh := { s.coh with rtabs := rest ++ mine.drop (mine.length - 256) } }.unpark clump ⟨band, lane⟩
    | _ => s)

end Sys2Proof.Machine
end

