-- ==== Sys2Proof/Machine/Copy.lean ====
section
/-!
DEFINITION. The copy engine, OP 0x22 (R140 to R145), and bin counts, OP 0x23 (R146 to R148); `eng.release` stands with the
matrix macro commands in Release.lean.
-/

namespace Sys2Proof.Machine

/-! ### Descriptors (R140) -/

/-- The forms of a copy: FN 0 to 4. -/
abbrev copyG2s : Nat := 0
abbrev copyS2g : Nat := 1
abbrev copyG2g : Nat := 2
abbrev copyGather : Nat := 3
abbrev copyScatter : Nat := 4

/-- Word `i` of a descriptor. -/
def descWord (ws : List Word) (i : Nat) : Word := (ws[i]?).getD 0

/-- The fields of a descriptor's eight words, for a form. -/
def copyDesc (form : Nat) (ws : List Word) : CopyDesc :=
  let w (i : Nat) : Nat := (descWord ws i).toNat
  { form := form
    gaddr := w 0 + w 1 * 2 ^ 32
    soff := if form = copyG2g then w 2 + w 3 * 2 ^ 32 else w 2
    ioff := w 3
    rows := w 4 / 2 ^ 16
    rowlen := w 4 % 2 ^ 16
    gstride := (descWord ws 5).toInt
    sstride := (descWord ws 6).toInt
    cval := w 7 / 2 ^ 16
    cw := Nat.testBit (w 7) 7
    esize := w 7 / 2 ^ 4 % 8 }

/-- Whether a form moves rows. -/
def CopyDesc.tiled (d : CopyDesc) : Bool := decide (d.form ≤ copyG2g)

/-- Bytes of a row or element. -/
def CopyDesc.size (d : CopyDesc) : Nat := if d.tiled then d.rowlen else 2 ^ (d.esize + 2)

/-- A reserved field is nonzero, or a field holds a value that R144 refuses. DEDUCED: notes/assumptions/17.md. -/
def copyBad (d : CopyDesc) (ws : List Word) : Bool :=
  let w7 := (descWord ws 7).toNat
  decide (w7 / 2 ^ 8 % 256 ≠ 0) || Nat.testBit w7 3 || decide (3 ≤ d.esize) || (d.tiled && decide (d.rowlen % 16 ≠ 0)) ||
    (decide (d.form ≤ copyS2g) && decide (d.ioff ≠ 0))

/-- A virtual address at a signed distance, modulo 2^64. -/
def vaPlus (a : Nat) (x : Int) : Nat := (((a : Int) + x) % (2 ^ 64 : Int)).toNat

/-- The global row addresses of a tiled form. -/
def CopyDesc.globalRows (d : CopyDesc) : List Nat := (List.range d.rows).map fun (r : Nat) => vaPlus d.gaddr (r * d.gstride)

/-- The other side's row addresses: the destination of `cp.g2g`, or scratchpad offsets. -/
def CopyDesc.otherRows (d : CopyDesc) : List Int :=
  (List.range d.rows).map fun (r : Nat) =>
    match d.form with
    | 2 => (vaPlus d.soff (r * d.sstride) : Int)
    | 3 => (d.soff : Int) + r * d.size
    | 4 => (d.soff : Int) + r * d.size
    | _ => (d.soff : Int) + r * d.sstride

/-- What a copy refuses at issue (R144): a cause with its address. DEDUCED: notes/assumptions/17.md. -/
def CopyDesc.refuses (d : CopyDesc) (c : Clump) (compl : Nat) : Option Trap :=
  let badGlobal := if d.tiled then (d.gaddr :: d.globalRows).find? fun a => a % 16 ≠ 0 else none
  let badDest := if d.form = copyG2g then (((d.soff : Int) :: d.otherRows).find? fun a => a % 16 ≠ 0) else none
  match badGlobal, badDest with
  | some a, _ => some { cause := .misaligned, addr := a % 2 ^ 56 }
  | none, some a => some { cause := .misaligned, addr := a.toNat % 2 ^ 56 }
  | none, none =>
    if d.cw ∧ compl % 4 ≠ 0 then some { cause := .misaligned, addr := compl % 2 ^ 56 }
    else if d.form = copyG2g then none
    else if d.soff % 16 ≠ 0 then some { cause := .spadBounds, addr := d.soff }
    else
      match d.otherRows.find? fun x => decide (x < 0) || !c.inSpad x.toNat d.size with
      | some x => some { cause := .spadBounds, addr := (x % (2 ^ 32 : Int)).toNat }
      | none =>
        if copyGather ≤ d.form ∧ d.rows ≠ 0 ∧ !c.inSpad d.ioff (4 * d.rows) then
          some { cause := .spadBounds, addr := d.ioff }
        else none

/-- The hull of spans of one size (R137). -/
def hull (xs : List Nat) (n : Nat) : Option (Nat × Nat) :=
  match xs with
  | [] => none
  | x :: r => some (r.foldl Nat.min x, r.foldl Nat.max x + n)

/-- A range for the hull of spans. -/
def hullReq (spad : Option Nat) (xs : List Nat) (n : Nat) (write : Bool) : List RangeReq :=
  ((hull xs n).map fun h => ⟨spad, h.1, h.2, write⟩).toList

/-- The ranges that a copy locks (R137). -/
def CopyDesc.ranges (d : CopyDesc) (clump : Nat) : List RangeReq :=
  let other := d.otherRows.map Int.toNat
  if d.size = 0 then []
  else
    match d.form with
    | 0 => hullReq none d.globalRows d.size false ++ hullReq (some clump) other d.size true
    | 1 => hullReq (some clump) other d.size false ++ hullReq none d.globalRows d.size true
    | 2 => hullReq none d.globalRows d.size false ++ hullReq none other d.size true
    | f => (if d.rows = 0 then [] else [⟨some clump, d.ioff, d.ioff + 4 * d.rows, false⟩]) ++
        hullReq (some clump) other d.size (f == copyGather)

/-- The scratchpad lines that a copy writes. -/
def CopyDesc.lines (d : CopyDesc) : List Nat :=
  if d.form = copyG2s ∨ d.form = copyGather then (d.otherRows.flatMap fun o => spadLinesOf o.toNat d.size).dedup else []

/-! ### Issue -/

/-- The descriptor's words of a lane. -/
def State.octet (s : State) (m : Lane) (a : BitVec 7) : List Word := (List.range 8).map fun i => s.opAword m a i

/-- Issues a copy of a form (R141). Field B is 0 in a copy without a completion address (R144). DEDUCED: notes/assumptions/16.md. -/
def State.copy (s : State) (d a b : BitVec 7) (form : Nat) : State :=
  s.engine fun m s =>
    let ws := s.octet m a
    let x := copyDesc form ws
    let compl := (s.opB64 m b).toNat
    if !x.cw ∧ b ≠ 0 then s.bandTrap .illegal
    else if copyBad x ws then s.bandTrap .copyDescriptor
    else
      match x.refuses s.clp compl with
      | some t => s.trapAll t
      | none =>
        let rs := x.ranges s.sh.clump
        if s.lockWait s.clp.coreNo s.clp.ctx rs then s.holdAll .engineIssue
        else
          let h := (s.bnd m).newHandle 1
          let s := s.updBand s.sh.clump m.band fun _ => h.2
          let i := s.fresh
          let o := i.2.opFor m i.1 (.copy x compl) (some h.1) x.lines
          (i.2.accept o rs).engResult m [.k d.toNat (BitVec.ofNat 32 h.1)]

/-- Posts a copy unreleased (R145). -/
def State.copyQueue (s : State) (d a b : BitVec 7) : State :=
  s.engine fun m s =>
    let ws := s.octet m a
    let kind := (descWord ws 7).toNat % 8
    let x := copyDesc kind ws
    let compl := (s.opB64 m b).toNat
    if !x.cw ∧ b ≠ 0 then s.bandTrap .illegal
    else if 4 < kind ∨ copyBad x ws then s.bandTrap .copyDescriptor
    else
      match x.refuses s.clp compl with
      | some t => s.trapAll t
      | none =>
        if Config.maxUnreleased ≤ (s.bnd m).unrel.length then s.bandTrap .queueFull
        else
          let h := (s.bnd m).newHandle 2
          let u : Unreleased :=
            { op := 0x22, fn := kind, desc := ws, handle := h.1, compl := compl, scope := s.sh.ext.scope, floor := s.namesTime m }
          let s := s.updBand s.sh.clump m.band fun _ => { h.2 with unrel := h.2.unrel ++ [u] }
          s.engResult m [.k d.toNat (BitVec.ofNat 32 h.1)]

/-! ### Completion (R142, R143) -/

/-- Element addresses of a gather or scatter: the index words as they stand (R142). -/
def CopyDesc.elements (d : CopyDesc) (c : Clump) : List Nat :=
  (List.range d.rows).map fun e => vaPlus d.gaddr ((c.spadNat (d.ioff + 4 * e) 4 : Int) * d.gstride)

/-- The global spans that a copy reads and writes. -/
def CopyDesc.spans (d : CopyDesc) (c : Clump) (compl : Nat) : List (Kind × Nat × Nat) :=
  let gs := if d.tiled then d.globalRows else d.elements c
  let rd := gs.map fun a => (Kind.engRead, a, d.size)
  let wr := gs.map fun a => (Kind.engWrite, a, d.size)
  (match d.form with
   | 0 => rd
   | 1 => wr
   | 2 => rd ++ d.otherRows.map fun a => (Kind.engWrite, a.toNat, d.size)
   | 3 => rd
   | _ => wr) ++ (if d.cw then [(Kind.engWrite, compl, 4)] else [])

/-- Reads rows in order; an error is the address refused. -/
def State.readRows (s : State) (o : Op) (n : Nat) : List Nat → List Data → Except Nat (List Data) × State
  | [], acc => (.ok acc, s)
  | a :: as, acc =>
    match s.engRead o a n with
    | (.ok r, s) => s.readRows o n as (acc ++ [r])
    | (.error e, s) => (.error e, s)

/-- Writes rows in order; writes that performed before a refusal stay. -/
def State.writeRows (s : State) (o : Op) : List (Nat × Data) → Except Nat Unit × State
  | [] => (.ok (), s)
  | (a, d) :: rest =>
    match s.engWrite o a d true with
    | (.ok _, s) => s.writeRows o rest
    | (.error e, s) => (.error e, s)

/-- Moves a copy's bytes; an error is the global address refused. -/
def State.moveRows (s : State) (o : Op) (d : CopyDesc) : Except Nat Unit × State :=
  let c := s.clump o.clump
  let gs := if d.tiled then d.globalRows else d.elements c
  let other := d.otherRows.map Int.toNat
  let spadRows := other.map fun x => c.engBytes x d.size
  if d.size = 0 then (.ok (), s)
  else if !d.tiled ∧ gs.any (fun a => a % d.size ≠ 0) then
    (.error ((gs.find? fun a => a % d.size ≠ 0).getD 0), s)
  else if d.form = copyG2s ∨ d.form = copyGather then
    match s.readRows o d.size gs [] with
    | (.ok rows, s) =>
      (.ok (), s.updClump o.clump fun c => (other.zip rows).foldl (fun c x => c.engSpad x.1 x.2) c)
    | (.error e, s) => (.error e, s)
  else if d.form = copyG2g then
    match s.readRows o d.size gs [] with
    | (.ok rows, s) => s.writeRows o (other.zip rows)
    | (.error e, s) => (.error e, s)
  else s.writeRows o (gs.zip spadRows)

/-- The completion write: after every other write of the operation inside its scope (R124, R143), and, as a release, after the events of
the band's operations that have completed before it (R126); it performs wherever it is homed. -/
def State.complete (s : State) (o : Op) (va x : Nat) : Except Nat Unit × State :=
  let t := Nat.max (((s.op o.id).map (·.time)).getD o.floor) (s.band o.clump o.band).etime
  s.engWrite { o with scope := 6, floor := t + 1 } va (leBytes 4 x, []) false

/-- A copy under way completes, ends in a fault, or pauses. DEDUCED: notes/assumptions/31.md. -/
def State.runCopy (s : State) (o : Op) (d : CopyDesc) (compl : Nat) : State :=
  match s.engPause o.ctx (d.spans (s.clump o.clump) compl) with
  | some x => s.pauseOp o x (match d.form with
      | 0 => false
      | 3 => false
      | _ => true)
  | none =>
    match s.moveRows o d with
    | (.error va, s) => s.failOp o (o.handle.getD 0) va
    | (.ok _, s) =>
      let s := s.unlock o.id
      if d.cw then
        match s.complete o compl d.cval with
        | (.error va, s) => s.failOp o (o.handle.getD 0) va
        | (.ok _, s) => s.endOp o 0
      else s.endOp o 0

/-! ### The instructions -/

/-- R142: rows from global memory to the scratchpad. -/
def execCpG2s (d a b : BitVec 7) (s : State) : Out := .next (s.copy d a b copyG2s)

/-- R142: rows from the scratchpad to global memory. -/
def execCpS2g (d a b : BitVec 7) (s : State) : Out := .next (s.copy d a b copyS2g)

/-- R142: rows from global to global memory. -/
def execCpG2g (d a b : BitVec 7) (s : State) : Out := .next (s.copy d a b copyG2g)

/-- R142: indexed elements into the scratchpad. -/
def execCpGather (d a b : BitVec 7) (s : State) : Out := .next (s.copy d a b copyGather)

/-- R142: scratchpad elements to indexed addresses. -/
def execCpScatter (d a b : BitVec 7) (s : State) : Out := .next (s.copy d a b copyScatter)

/-- R143: parks the band while the handle is in flight; any other status is written at once. -/
def execCpWait (d a : BitVec 7) (s : State) : Out :=
  .next (s.engine fun m s =>
    let h := ((s.bnd m).ureg a.toNat).toNat
    let st := (s.bnd m).handleStatus h
    if st = 1 then s.sh.lanes.foldl (fun s x => s.parkAt x (.copyWait h d.toNat)) s
    else (if st = 0 then s.passEngine s.sh.clump m.band else s).engResult m [.k d.toNat (BitVec.ofNat 32 st)])

/-- R143: the status, without waiting. -/
def execCpPoll (d a : BitVec 7) (s : State) : Out :=
  .next (s.engine fun m s =>
    s.engResult m [.k d.toNat (BitVec.ofNat 32 ((s.bnd m).handleStatus ((s.bnd m).ureg a.toNat).toNat))])

/-- R145: posts a copy of the descriptor's KIND unreleased. -/
def execCpQueue (d a b : BitVec 7) (s : State) : Out := .next (s.copyQueue d a b)

/-- R124, R143: a copy under way completes once its transfers have their tokens (R100), or a write outside its operation's scope, by its
own name, performs. -/
def execCopyCompletion (op : Nat) (s : State) : Out :=
  .next (match s.op op, s.late.find? fun w => w.id == op with
    | some o, _ =>
      match o.kind with
      | .copy d compl => if o.paused.isSome then s else s.opMoves o fun s => s.runCopy o d compl
      | _ => s
    | none, some w => s.performLate w
    | none, none => s)

/-! ### Bin counts (R147, R148) -/

/-- Checks a bin-count table at an offset, then gives each strand its turn in ascending home lane: `f` makes the strand's writes
and changes the state, for its index. -/
def State.binOp (s : State) (table : Lane → Word) (b : BitVec 7) (f : Lane → Nat → Nat → State → State) : State :=
  s.engine fun m s =>
    let t := (table m).toNat
    if t % 128 ≠ 0 ∨ !s.clp.inSpad t 1024 then s.bandTrap .spadBounds t
    else
      match s.lockedFor s.clp.coreNo s.clp.ctx (some s.sh.clump) t 1024 true with
      | some l => s.bandTrap .rangeConflict t l.detail
      | none =>
        s.active.foldl (fun s x =>
          let i := s.opB x b
          if i = 0xFFFFFFFF then s
          else if 256 ≤ i.toNat then s.trap x { cause := .spadBounds, addr := (t + 4 * i.toNat) % 2 ^ 32 }
          else f x t i.toNat s) s

/-- The counts that strands read go to register `d`, with the poison of their table's line (R317). -/
def State.giveCount (s : State) (x : Lane) (d o : Nat) : State :=
  let n := s.clp.spadNat o 4
  let s := s.engResult x [.lane x.lane (.v d (BitVec.ofNat 32 n))]
  if s.clp.spadBad o 4 then s.updBand s.sh.clump x.band fun b => { b with regPoison := addOnce b.regPoison (d / 8) } else s

/-- Sets a count. -/
def State.setCount (s : State) (o x : Nat) : State :=
  s.updClump s.sh.clump fun c => { c with spad := writeSpadFrom c.spad o (leBytes 4 x) }

/-- R147: each strand's rank, and the count raised, saturating. -/
def execBinCount (d a b : BitVec 7) (s : State) : Out :=
  .next (s.binOp (fun m => s.opA m a) b fun x t i s =>
    let n := s.clp.spadNat (t + 4 * i) 4
    (s.giveCount x d.toNat (t + 4 * i)).setCount (t + 4 * i) (Nat.min (n + 1) 0xFFFFFFFF))

/-- R147: reads and clears counts. -/
def execBinRead (d a b : BitVec 7) (s : State) : Out :=
  .next (s.binOp (fun m => s.opA m a) b fun x t i s =>
    (s.giveCount x d.toNat (t + 4 * i)).setCount (t + 4 * i) 0)

/-- R147: sets ROWS of unreleased commands: in a copy's descriptor, and beside an `mgemm` descriptor's offset. -/
def execBinPatch (d a b : BitVec 7) (s : State) : Out :=
  .next (s.binOp (fun m => s.opD m d) b fun x t i s =>
    let h := (s.opA x a).toNat
    let n := s.clp.spadNat (t + 4 * i) 4
    if !(s.bnd x).unrel.any (fun u => u.handle == h) ∨ 65536 ≤ n then s.trap x { cause := .copyDescriptor, addr := h % 2 ^ 56 }
    else s.updBand s.sh.clump x.band fun y =>
      { y with unrel := y.unrel.map fun u =>
          if u.handle ≠ h then u
          else if u.op = 0x22 then { u with desc := u.desc.set 4 (BitVec.ofNat 32 (n * 2 ^ 16 + (descWord u.desc 4).toNat % 2 ^ 16)) }
          else { u with desc := [descWord u.desc 0, BitVec.ofNat 32 n] } })

end Sys2Proof.Machine
end

