-- ==== Sys2Proof/Machine/Generator.lean ====
section
/-!
DEFINITION. Matrix items and the order in which engine operations use them (R204, R213), and the generators: their descriptors,
entries and the GEN instructions, OP 0x32 (R234 to R240).
-/

namespace Sys2Proof.Machine
open Sys2Proof.Machine.Num (Val)

/-! ### Matrix items (R204) -/

/-- An item of a clump's matrix state. -/
inductive Item where
  | tile (n : Nat)
  | slot (n : Nat)
  | acc (n : Nat)
  | gen (n : Nat)
  /-- The activation table and bias of an accumulator. -/
  | store (n : Nat)
  deriving DecidableEq, Repr

/-- The item that a step's A operand names. -/
def StepSrc.item : StepSrc → Item
  | .tile t => .tile t
  | .gen g _ _ => .gen g

/-- The items that an operation reads. -/
def OpKind.readsItems : OpKind → List Item
  | .tscale t _ => [.tile t]
  | .mload _ t _ => [.tile t]
  | .mloadg _ g _ _ => [.gen g]
  | .step a _ s src pair _ => [.slot s, src.item, .acc a] ++ (if pair then [.acc (a + 1)] else [])
  | .sum outs _ => outs.map fun x => .acc x.1
  | .mact a _ _ => [.acc a]
  | .mwait a => [.acc a, .store a]
  | .drain a _ _ _ => [.acc a, .store a]
  | .mgemm p => [.tile p.tb, .store p.acc]
  | _ => []

/-- The items that an operation writes. -/
def OpKind.writesItems : OpKind → List Item
  | .tload t _ => [.tile t]
  | .tscale t _ => [.tile t]
  | .mload s _ _ => [.slot s]
  | .mloadg s _ _ _ => [.slot s]
  | .step a _ _ _ pair _ => .acc a :: (if pair then [.acc (a + 1)] else [])
  | .sum outs _ => outs.map fun x => .acc x.1
  | .drain a d _ _ => if d.zero then [.acc a] else []
  | .mact a _ _ => [.store a]
  | .mgemm p => [.slot 0, .slot 1, .tile p.ta, .acc p.acc]
  | .gset g _ => [.gen g]
  | _ => []

/-- The open chain that a step belongs to (R217). -/
def OpKind.chain : OpKind → Option Nat
  | .step _ _ _ _ _ c => c
  | .sum _ c => some c
  | _ => none

/-- Two operations are steps of one open chain: their sums into the accumulator come in either order (R50, R217). -/
def OpKind.sameChain (k later : OpKind) : Bool := k.chain.isSome && k.chain == later.chain

/-- An operation may not pass an earlier one: one of them writes an item that the other uses.
DEDUCED: notes/assumptions/52.md. -/
def OpKind.conflicts (k later : OpKind) : Bool :=
  let free (i : Item) : Bool := k.sameChain later && (match i with
    | .acc _ => true
    | _ => false)
  k.writesItems.any (fun i => !free i && (later.readsItems ++ later.writesItems).contains i) ||
    later.writesItems.any fun i => !free i && k.readsItems.contains i

/-- An earlier operation of the clump is in the way. DEDUCED: notes/assumptions/52.md. -/
def State.itemBlocked (s : State) (o : Op) : Bool :=
  (s.ops.takeWhile fun x => x.id != o.id).any fun x => x.clump == o.clump && x.kind.conflicts o.kind

/-- Operations of a clump in flight that write one of the items. -/
def State.itemsWritten (s : State) (c : Nat) (is : List Item) : Bool :=
  s.ops.any fun x => x.clump == c && x.kind.writesItems.any is.contains

/-- Operations of a clump in flight that use one of the items. -/
def State.itemsUsed (s : State) (c : Nat) (is : List Item) : Bool :=
  s.ops.any fun x => x.clump == c && (x.kind.writesItems ++ x.kind.readsItems).any is.contains

/-- The clump's array is slaved to its leader's until a pair step retires (R213). -/
def State.slaved (s : State) (c : Nat) : Bool :=
  s.ops.any fun x => some x.clump == (s.clump c).peer && (match x.kind with
    | .step _ _ _ _ pair _ => pair
    | .sum outs _ => decide (1 < outs.length)
    | _ => false)

/-- A released `mgemm` of a band that waits at issue: no later matrix word of the band passes it (R145, R204).
DEDUCED: notes/assumptions/55.md. -/
def State.matPending (s : State) (c b : Nat) : Bool :=
  s.ops.any fun x => x.clump == c && x.band == b && (match x.kind with
    | .pend u => u.op == 0x30
    | _ => false)

/-- Runs a matrix word, which waits at issue while the array is slaved, while an operation in flight writes an item of `rd`, or
while one uses an item of `wr` (R204, R213). Its vector operands are those of lane 0 (R203).
DEDUCED: notes/assumptions/50.md. -/
def State.matWord (s : State) (rd wr : List Item) (f : Lane → State → State) : State :=
  s.engine fun m s =>
    if s.slaved s.sh.clump || s.matPending s.sh.clump m.band || s.itemsWritten s.sh.clump rd || s.itemsUsed s.sh.clump wr then s.holdAll .engineIssue
    else f { m with lane := 0 } s

/-- An operation that may act: it is known and not paused, and nothing is in its way. -/
def State.opReady (s : State) (i : Nat) (f : State → Op → State) : Out :=
  .next (match s.op i with
    | some o =>
      if o.paused.isSome || s.itemBlocked o then s else f s o
    | none => s)

/-! ### Entries (R235 to R237) -/

/-- The quotient of an integer by 148 as an exact value, or one that lies beside it and rounds as it does: 80 digits below the
point, then a digit that stands for the rest. -/
def over148 (x : Int) : Val :=
  let n := x.natAbs * 2 ^ 80
  .fin (decide (x < 0)) (2 * (n / 148) + (if n % 148 = 0 then 0 else 1)) (-81)

/-- The value of an entry before conversion (R236), formed in F32. -/
def Gen.value (g : Gen) (seed : DWord64) (i j : Word) : Word :=
  let h := (Num.hash seed i j).toNat
  let one (b : Bool) : Word := if b then 0x3F800000 else 0
  match g.kind with
  | 0 => if h / 2 ^ 31 = 0 then 0x3F800000 else 0xBF800000
  | 1 => Num.rneF32 (over148 ((h % 256 + h / 2 ^ 8 % 256 + h / 2 ^ 16 % 256 + h / 2 ^ 24 : Nat) - 510))
  | 2 => Num.rneF32 (.fin false (h / 256) (-24))
  | 3 =>
    let e := Num.rneF32 (Num.neg (Num.mul (Num.ofInt j.toNat) (Num.ofF32 g.param)))
    let x := Num.rneF32 (Num.mul (Num.ofInt i.toNat) (Num.ofF32 (Num.Fun.eval .exp2 e)))
    Num.Fun.eval (if g.rot then .sinpi else .cospi) x
  | _ =>
    match g.mkind with
    | 0 => one (decide (j.toNat ≤ i.toNat))
    | 1 => one (decide (((i.toNat : Int) - j.toNat).natAbs < g.w.toNat))
    | _ => one (Num.lt (.fin false (h / 256) 0) (Num.mul (Num.ofF32 g.param) (.fin false 1 24)))

/-- An entry G(i, j) in the generator's format (R236, R41). -/
def Gen.entry (g : Gen) (seed : DWord64) (i j : Word) : Nat :=
  if (g.grows ≠ 0 ∧ g.grows.toNat ≤ i.toNat) ∨ (g.gcols ≠ 0 ∧ g.gcols.toNat ≤ j.toNat) then 0
  else
    let x := Num.ofF32 (g.value seed i j)
    match fmtOf g.fmt with
    | some t => (Num.round t 0 0 x).1
    | none =>
      let r := elemRange g.fmt
      intBits (elemWidth g.fmt) (match x with
        | .fin s n e => Num.clamp r.1 r.2 (Num.roundInt 0 0 s n e).1
        | .inf s => if s then r.1 else r.2
        | .nan => r.2)

/-- The effective seed of a generator for a lane of a clump (R235). -/
def State.genSeed (s : State) (c : Nat) (m : Lane) (g : Gen) : DWord64 := Num.effSeed g.seed (s.scopeId c m g.scope)

/-! ### Descriptors (R234) -/

/-- The fields of a descriptor of 64 bytes. -/
def genOf (b : List Byte) : Gen :=
  let w (o : Nat) : Nat := leNat ((b.drop o).take 4)
  { seed := BitVec.ofNat 64 (leNat (b.take 8))
    kind := w 8 % 8
    trans := Nat.testBit (w 8) 3
    fmt := w 8 / 2 ^ 4 % 16
    scope := w 8 / 2 ^ 8 % 8
    mkind := w 8 / 2 ^ 11 % 4
    rot := Nat.testBit (w 8) 13
    w := BitVec.ofNat 32 (w 0x0C)
    grows := BitVec.ofNat 32 (w 0x10)
    gcols := BitVec.ofNat 32 (w 0x14)
    param := BitVec.ofNat 32 (w 0x18)
    row0 := BitVec.ofNat 32 (w 0x20)
    col0 := BitVec.ofNat 32 (w 0x24) }

/-- A format that the array takes: the codes of R201. -/
def arrayFmt (f : Nat) : Bool := ([1, 2, 5, 6, 8, 9, 14] : List Nat).contains f

/-- The descriptor breaks R234 or R240. -/
def genBad (b : List Byte) : Bool :=
  let g := genOf b
  let w (o : Nat) : Nat := leNat ((b.drop o).take 4)
  let p := Num.ofF32 g.param
  decide (w 8 / 2 ^ 14 ≠ 0) || decide (w 0x1C ≠ 0) || (b.drop 0x28).any (· != 0) || decide (4 < g.kind) || decide (4 < g.scope) ||
    decide (g.mkind = 3) || !(g.fmt == 0 || arrayFmt g.fmt) || (g.kind == 3 && Num.isNan p) ||
    (g.kind == 4 && g.mkind == 2 && (Num.isNan p || Num.lt p (.fin false 0 0) || Num.lt (.fin false 1 0) p))

/-- A generator of a clump; every field is zero at grant (R199). -/
def Clump.gen (c : Clump) (g : Nat) : Gen := c.gens.getD g {}

/-- Sets a generator. -/
def State.setGen (s : State) (c g : Nat) (x : Gen) : State := s.updClump c fun y => { y with gens := y.gens.put g {} x }

/-! ### The instructions (R239) -/

/-- R239: reads a descriptor from memory into a generator. -/
def execGset (d : BitVec 3) (a : BitVec 7) (s : State) : Out :=
  .next (s.matWord [] [] fun m s =>
    let va := (s.opA64 m a).toNat
    if va % 64 ≠ 0 then s.bandTrap .misaligned (va % 2 ^ 56)
    else
      let rs : List RangeReq := [⟨none, va, va + 64, false⟩]
      if s.lockWait s.clp.coreNo s.clp.ctx rs then s.holdAll .engineIssue
      else
        let i := s.fresh
        i.2.accept (i.2.opFor m i.1 (.gset d.toNat va)) rs)

/-- R239: replaces a generator's seed. -/
def execGseed (d : BitVec 3) (a : BitVec 7) (s : State) : Out :=
  .next (s.matWord [] [.gen d.toNat] fun m s =>
    s.setGen s.sh.clump d.toNat { s.clp.gen d.toNat with seed := s.opA64 m a })

/-- R239: replaces a generator's scope. -/
def execGscope (d : BitVec 3) (a : BitVec 7) (s : State) : Out :=
  .next (s.matWord [] [.gen d.toNat] fun m s =>
    let x := (s.opA m a).toNat % 8
    if 4 < x then s.bandTrap .generatorDescriptor
    else s.setGen s.sh.clump d.toNat { s.clp.gen d.toNat with scope := x })

/-- R239: each strand reads an entry under its own ids. -/
def execGread (d : BitVec 7) (a : BitVec 3) (b : BitVec 7) (s : State) : Out :=
  .next (s.matWord [.gen a.toNat] [] fun m s =>
    let g := s.clp.gen a.toNat
    s.engResult m (s.active.map fun x =>
      let e := g.entry (s.genSeed s.sh.clump x g) (s.opBword x b 0) (s.opBword x b 1)
      .lane x.lane (.v d.toNat (Num.rneF32 (elemVal g.fmt e)))))

/-- Reads a generator's descriptor. DEDUCED: notes/assumptions/56.md. -/
def State.readGset (s : State) (o : Op) (g va : Nat) : State :=
  match s.engPause o.ctx [(Kind.engRead, va, 64)] with
  | some x => s.pauseOp o x false
  | none =>
    match s.engRead o va 64 with
    | (.error e, s) => s.failOp o (va % 2 ^ 56) e
    | (.ok d, s) =>
      let s := s.endOp o 0
      if genBad d.1 then s.bandFault o.clump o.band { cause := .generatorDescriptor, addr := va % 2 ^ 56 }
      else s.setGen o.clump g (genOf d.1)

/-- R239: `gset`'s descriptor read returns. DEDUCED: notes/assumptions/56.md. -/
def execGsetDescriptorRead (op : Nat) (s : State) : Out :=
  s.opReady op fun s o =>
    match o.kind with
    | .gset g va => s.opMoves o fun s => s.readGset o g va
    | _ => s

end Sys2Proof.Machine
end

