-- ==== Sys2Proof/Machine/Matrix.lean ====
section
/-!
DEFINITION. Tile reservations, OP 0x2F (R201 to R207), resident slots, steps and chains, OP 0x30 and 0x31 (R208 to R220), and the
arithmetic that they apply (R47 to R50).
-/

namespace Sys2Proof.Machine
open Sys2Proof.Machine.Num (Val)

/-! ### Tile descriptors (R201) -/

/-- The fields of a record's descriptor. -/
def Tile.fmt (t : Tile) : Nat := t.desc % 16
def Tile.scaled (t : Tile) : Bool := Nat.testBit t.desc 4
def Tile.blen (t : Tile) : Nat := if Nat.testBit t.desc 5 then 16 else 32
def Tile.rows (t : Tile) : Nat := t.desc / 2 ^ 8 % 2 ^ 6
def Tile.k (t : Tile) : Nat := t.desc / 2 ^ 16 % 2 ^ 11
def Tile.scoff (t : Tile) : Nat := t.desc / 2 ^ 32 % 2 ^ 20

/-- The descriptor breaks R201 or R207. -/
def tileBad (d : Nat) : Bool :=
  let t : Tile := { desc := d }
  decide (d / 2 ^ 52 ≠ 0) || decide (d / 2 ^ 27 % 2 ^ 5 ≠ 0) || decide (d / 2 ^ 14 % 4 ≠ 0) || decide (d / 2 ^ 6 % 4 ≠ 0) ||
    decide (t.scoff % 16 ≠ 0) || !arrayFmt t.fmt || (t.scaled && t.fmt == 1) || (Nat.testBit d 5 && !t.scaled) ||
    decide (t.k % 32 ≠ 0) || decide (t.k < 32) || decide (1024 < t.k) || decide (32 < t.rows)

/-- Bytes of one row's elements, and blocks of one row. -/
def Tile.rowBytes (t : Tile) : Nat := t.k * elemWidth t.fmt / 8
def Tile.blocks (t : Tile) : Nat := t.k / t.blen

/-- Bytes of the elements and of the scales of a tile of `n` rows. -/
def Tile.elemBytes (t : Tile) (n : Nat) : Nat := n * t.rowBytes
def Tile.scaleBytes (t : Tile) (n : Nat) : Nat := if t.scaled then n * t.blocks else 0

/-- The state of a record as `tinfo` and a save give it: 0 unreserved, 1 format-only or reserved, 2 loaded (R206). -/
def Tile.code (t : Tile) : Nat := if t.st = 0 then 0 else if t.st = 3 then 2 else 1

/-- The space that a reservation owns, in units of 256 bytes (R201). -/
def Tile.units (t : Tile) : Nat := (t.elemBytes t.rows + t.scaleBytes t.rows + 255) / 256

/-- A record of a clump; an unlisted handle is unreserved. -/
def Clump.tile (c : Clump) (t : Nat) : Tile := c.tiles.getD t {}

/-- Sets a record. -/
def Clump.setTile (c : Clump) (t : Nat) (x : Tile) : Clump := { c with tiles := c.tiles.put t {} x }

/-- The lowest place for `n` units that the other records leave free (R201, R206). -/
def Clump.freeRun (c : Clump) (t n : Nat) : Option Nat :=
  let taken := (c.tiles.filter fun x => x.1 != t && x.2.own != 0).map fun x => (x.2.off, x.2.off + x.2.own)
  let fits (o : Nat) : Bool := decide (256 * (o + n) ≤ c.kernel.resv) && !taken.any fun r => overlaps r.1 r.2 o (o + n)
  let starts := (0 :: taken.map (·.2)).filter fits
  match starts with
  | [] => none
  | o :: os => some (os.foldl Nat.min o)

/-! ### Loading tiles (R202, R206) -/

/-- The scratchpad spans of an A image: its elements, and its scales if there are any. -/
def Tile.spans (t : Tile) (o : Nat) : List (Nat × Nat) :=
  (o, t.elemBytes t.rows) :: (if t.scaled then [(o + t.scoff, t.scaleBytes t.rows)] else [])

/-- A block's elements and scale hold a NaN or an infinity (R47, R206). -/
def blockFlag (fmt scale : Nat) (xs : List Nat) : Bool :=
  scale == 255 || xs.any fun x => match elemVal fmt x with
    | .fin .. => false
    | _ => true

/-- The elements of a row of the operand buffer's copy of a tile, and the scale of one of its blocks. -/
def Clump.tileRow (c : Clump) (t : Tile) (r : Nat) : List Nat :=
  let x := leNat ((List.range t.rowBytes).map fun i => c.resv.getD (256 * t.off + r * t.rowBytes + i) 0)
  (List.range t.k).map (elemAt t.fmt x)
def Clump.tileScale (c : Clump) (t : Tile) (r b : Nat) : Nat :=
  if t.scaled then (c.resv.getD (256 * t.off + t.elemBytes t.rows + r * t.blocks + b) 0).toNat else 127

/-- The flags of a tile's rows, as the operand buffer holds them. -/
def Clump.rowFlags (c : Clump) (t : Tile) : BitVec 32 :=
  (List.range t.rows).foldl (fun f r =>
    let xs := c.tileRow t r
    if (List.range t.blocks).any fun b => blockFlag t.fmt (c.tileScale t r b) ((xs.drop (b * t.blen)).take t.blen) then
      f ||| (1#32 <<< r)
    else f) 0

/-- Copies bytes of the scratchpad into the operand buffer. -/
def Clump.toResv (c : Clump) (o dst n : Nat) : Clump := { c with resv := writeSpadFrom c.resv dst (c.spadBytes o n) }

/-- Copies an A image into a record's space. -/
def Clump.loadTile (c : Clump) (t o : Nat) : Clump :=
  let x := c.tile t
  let c := c.toResv o (256 * x.off) (x.elemBytes x.rows)
  let c := c.toResv (o + x.scoff) (256 * x.off + x.elemBytes x.rows) (x.scaleBytes x.rows)
  c.setTile t { x with st := 3, flags := c.rowFlags x, poison := (x.spans o).any fun s => c.spadBad s.1 s.2 }

/-- Replaces a loaded record's scales. -/
def Clump.loadScales (c : Clump) (t o : Nat) : Clump :=
  let x := c.tile t
  let c := c.toResv o (256 * x.off + x.elemBytes x.rows) (x.scaleBytes x.rows)
  c.setTile t { x with flags := c.rowFlags x, poison := x.poison || c.spadBad o (x.scaleBytes x.rows) }

/-! ### Alignment (R47) -/

/-- W of a format, and its width class (R47, R200). -/
def alignWidth (fmt : Nat) : Nat := if elemWidth fmt = 4 then 4 else if fmt = 1 then 16 else 8

/-- An aligned block: its integers, and the exponent of its quantum. -/
structure Aligned where
  q : List Int
  exp : Int
  deriving DecidableEq, Repr

/-- Aligns a block; a block that its flag marks aligns to zeros. -/
def alignBlock (fmt scale : Nat) (xs : List Nat) : Aligned :=
  let zeros : Aligned := ⟨xs.map fun _ => 0, 0⟩
  if blockFlag fmt scale xs then zeros
  else
    let vs := xs.map (elemVal fmt)
    match fmtOf fmt, vs.filterMap logOf with
    | none, _ => ⟨vs.map fun v => match v with
        | .fin s n e => (Num.roundInt 0 0 s n e).1
        | _ => 0, 0⟩
    | some _, [] => zeros
    | some _, l :: ls =>
      let u := ls.foldl Max.max l - alignWidth fmt + 1
      ⟨vs.map fun v => match v with
        | .fin s n e => (Num.roundInt 0 0 s n (e - u)).1
        | _ => 0, u⟩

/-! ### Slots (R202, R209) -/

/-- Columns of a slot of a format: N. -/
def slotCols (fmt : Nat) : Nat := 1024 / alignWidth fmt

/-- Bytes of a K-row of a B image: the stride S. -/
def slotStride (fmt : Nat) : Nat := slotCols fmt * elemWidth fmt / 8

/-- The scratchpad spans of a B image. -/
def Tile.slotSpans (t : Tile) (o : Nat) : List (Nat × Nat) :=
  (o, t.k * slotStride t.fmt) :: (if t.scaled then [(o + t.scoff, t.blocks * slotCols t.fmt)] else [])

/-- Puts a slot together from its aligned blocks: `blk b n` is block `b` of column `n`, its scale and whether it is flagged. -/
def slotFrom (fmt k blen : Nat) (scaled : Bool) (blk : Nat → Nat → Aligned × Nat × Bool) : Slot :=
  let n := slotCols fmt
  let cols := (List.range (k / blen)).map fun b => (List.range n).map fun c => blk b c
  let at_ (b c : Nat) : Aligned × Nat × Bool := (((cols[b]?).getD [])[c]?).getD (⟨[], 0⟩, 127, false)
  { fmt := fmt, k := k, blen := blen, scaled := scaled
    q := (List.range k).flatMap fun i => (List.range n).filterMap fun c =>
      let x := ((at_ (i / blen) c).1.q[i % blen]?).getD 0
      if x = 0 then none else some (256 * i + c, x)
    qexp := (List.range (k / blen)).flatMap fun b => (List.range n).filterMap fun c =>
      let x := (at_ b c).1.exp
      if x = 0 then none else some (256 * b + c, x)
    scale := (List.range (k / blen)).flatMap fun b => (List.range n).filterMap fun c =>
      let x := (at_ b c).2.1
      if x = 127 then none else some (256 * b + c, x)
    colFlags := (List.range n).foldl (fun f c =>
      if (List.range (k / blen)).any fun b => (at_ b c).2.2 then f ||| (1#256 <<< c) else f) 0 }

/-- A slot from a B image in the scratchpad. -/
def Clump.slotOf (c : Clump) (t : Tile) (o : Nat) : Slot :=
  let n := slotCols t.fmt
  let rows := (List.range t.k).map fun k => c.spadNat (o + slotStride t.fmt * k) (slotStride t.fmt)
  let x := slotFrom t.fmt t.k t.blen t.scaled fun b col =>
    let scale := if t.scaled then c.spadNat (o + t.scoff + b * n + col) 1 else 127
    let xs := ((rows.drop (b * t.blen)).take t.blen).map fun r => elemAt t.fmt r col
    (alignBlock t.fmt scale xs, scale, blockFlag t.fmt scale xs)
  { x with poison := (t.slotSpans o).any fun s => c.spadBad s.1 s.2 }

/-- Logical coordinates of an element that the array reads (R237). -/
def Gen.coords (g : Gen) (row0 col0 : Word) (x y : Nat) : Word × Word :=
  if g.trans then (row0 + BitVec.ofNat 32 y, col0 + BitVec.ofNat 32 x) else (row0 + BitVec.ofNat 32 x, col0 + BitVec.ofNat 32 y)

/-- An element that the array reads from a generator. -/
def Gen.elem (g : Gen) (seed : DWord64) (row0 col0 : Word) (x y : Nat) : Nat :=
  let p := g.coords row0 col0 x y
  g.entry seed p.1 p.2

/-- A slot from a generator; its column flags are clear. -/
def slotOfGen (g : Gen) (seed : DWord64) (row0 col0 : Word) : Slot :=
  { slotFrom g.fmt 1024 32 false fun b col =>
      (alignBlock g.fmt 127 ((List.range 32).map fun i => g.elem seed row0 col0 (32 * b + i) col), 127, false) with colFlags := 0 }

/-! ### Steps (R48, R49, R212) -/

/-- Sums neighbours, halving the list `fuel` times (R49). -/
def columnTree : Nat → List Word → Word
  | 0, xs => (xs[0]?).getD 0
  | fuel + 1, xs => columnTree fuel ((List.range (xs.length / 2)).map fun m =>
      plusZero (Num.addRne ((xs[2 * m]?).getD 0) ((xs[2 * m + 1]?).getD 0)))

/-- A block partial (R48). -/
def blockPartial (s e : Int) : Word := plusZero (Num.rneF32 (.fin (decide (s < 0)) s.natAbs e))

/-- A row of an A operand: aligned blocks with their scales. -/
abbrev ARow := List (Aligned × Nat)

/-- The product of a row of A with a column of a slot: its partials in the tree of R49. `n` is K of A in elements. -/
def rowCol (row : ARow) (ablen n : Nat) (sl : Slot) (col : Nat) : Word :=
  let blen := Nat.min ablen sl.blen
  let ps := (List.range (1024 / blen)).map fun b =>
    if n ≤ b * blen then (0 : Word)
    else
      let a := (row[b * blen / ablen]?).getD (⟨[], 0⟩, 127)
      let bb := 256 * (b * blen / sl.blen) + col
      let s := (List.range blen).foldl (fun (x : Int) i =>
        let k := b * blen + i
        x + ((a.1.q[k % ablen]?).getD 0) * sl.q.getD (256 * k + col) 0) 0
      blockPartial s (a.1.exp + sl.qexp.getD bb 0 + ((a.2 : Int) - 127) + ((sl.scale.getD bb 127 : Int) - 127))
  columnTree (if blen = 16 then 6 else 5) ps

/-- The A operand of a step: its rows, its block length, its K, and the flags of its rows. -/
structure AOperand where
  rows : List ARow
  blen : Nat
  k : Nat
  flags : BitVec 32 := 0
  poison : Bool := false
  deriving DecidableEq, Repr

/-- A loaded record as an A operand. -/
def Clump.tileOperand (c : Clump) (t : Tile) : AOperand :=
  { rows := (List.range t.rows).map fun r =>
      let xs := c.tileRow t r
      (List.range t.blocks).map fun b =>
        (alignBlock t.fmt (c.tileScale t r b) ((xs.drop (b * t.blen)).take t.blen), c.tileScale t r b)
    blen := t.blen, k := t.k, flags := t.flags, poison := t.poison }

/-- A generator as an A operand for a slot's K. -/
def genOperand (g : Gen) (seed : DWord64) (row0 col0 : Word) (k : Nat) : AOperand :=
  { rows := (List.range 32).map fun r => (List.range (k / 32)).map fun b =>
      (alignBlock g.fmt 127 ((List.range 32).map fun i => g.elem seed row0 col0 r (32 * b + i)), 127)
    blen := 32, k := k }

/-- What a step computes before it adds, from column `c0` on (R49, R212). -/
def stepOut (a : AOperand) (sl : Slot) (c0 : Nat) : StepOut :=
  { vals := (List.range a.rows.length).flatMap fun r =>
      (List.range (slotCols sl.fmt)).map fun c => (256 * r + c0 + c, rowCol ((a.rows[r]?).getD []) a.blen a.k sl c)
    rowFlags := a.flags, colFlags := sl.colFlags <<< c0, poison := a.poison || sl.poison }

/-- A step's sums into an accumulator, from column `c0` on (R212). -/
def Acc.step (x : Acc) (a : AOperand) (sl : Slot) (c0 : Nat) : Acc := x.take (stepOut a sl c0)

/-- The A operand of a step for a slot. DEDUCED: notes/assumptions/31.md. -/
def State.operandOf (s : State) (o : Op) (src : StepSrc) (sl : Slot) : AOperand :=
  let c := s.clump o.clump
  match src with
  | .tile t => c.tileOperand (c.tile t)
  | .gen g row0 col0 => genOperand (c.gen g) (s.genSeed o.clump ⟨o.band, 0⟩ (c.gen g)) row0 col0 sl.k

/-- What a step computes against a clump's slot. DEDUCED: notes/assumptions/52.md. -/
def State.stepAt (s : State) (o : Op) (c0 slot from_ : Nat) (src : StepSrc) : StepOut :=
  match (s.clump from_).mslots.find? slot with
  | some sl => stepOut (s.operandOf o src sl) sl c0
  | none => {}

/-- The results of a step, by the accumulator that each goes to: one, or two for a pair (R212, R213). -/
def State.stepOuts (s : State) (o : Op) (acc c0 slot : Nat) (src : StepSrc) (pair : Bool) : List (Nat × StepOut) :=
  (acc, s.stepAt o c0 slot o.clump src) ::
    (if pair then [(acc + 1, s.stepAt o c0 slot ((s.clump o.clump).peer.getD o.clump) src)] else [])

/-! ### Checks at issue (R214) -/

/-- The legal pairs of width classes (R200). -/
def widthsOk (a b : Nat) : Bool := (a == 16) == (b == 16)

/-- The fields of an A operand that a step checks: format and K (`none`: the slot's), or `none` if it cannot be read. -/
def Clump.sourceOf (c : Clump) : StepSrc → Option (Nat × Option Nat)
  | .tile t => if (c.tile t).st = 3 then some ((c.tile t).fmt, some (c.tile t).k) else none
  | .gen g _ _ => if arrayFmt (c.gen g).fmt then some ((c.gen g).fmt, none) else none

/-- A step against a slot passes R214. -/
def stepOk (src : Option (Nat × Option Nat)) (sl : Option Slot) (c0 : Nat) : Bool :=
  match src, sl with
  | some (fmt, k), some sl =>
    widthsOk (alignWidth fmt) (alignWidth sl.fmt) && decide (k.getD sl.k ≤ sl.k) && decide (c0 + slotCols sl.fmt ≤ 256)
  | _, _ => false

/-- The origin of a generator operand (R209): the REGEXT pair of lane 0 if ORG is set, else the descriptor's. -/
def State.origin (s : State) (m : Lane) (g : Nat) : Word × Word :=
  if s.sh.ext.mode.getLsbD 0 then ((s.str m).reg s.sh.ext.e.toNat, (s.str m).reg (s.sh.ext.e.toNat + 1))
  else ((s.clp.gen g).row0, (s.clp.gen g).col0)

/-- Issues a step. -/
def State.stepWord (s : State) (acc colq slot : Nat) (src : Lane → State → StepSrc) (item : Item) (pair : Bool) : State :=
  s.matWord [item, .slot slot] [] fun m s =>
    let x := src m s
    let c := s.clp
    let follower := c.peer.map s.clump
    let ok := stepOk (c.sourceOf x) (c.mslots.find? slot) (64 * colq) &&
      (!pair || (c.thicket == 1 && stepOk (c.sourceOf x) (follower.bind fun f => f.mslots.find? slot) (64 * colq)))
    if !ok then s.bandTrap .matrixOperand
    else
      let i := s.fresh
      i.2.accept (i.2.opFor m i.1 (.step acc colq slot x pair (c.acc acc).chain)) []

/-! ### TILE (R206, R207) -/

/-- R206: a record from a descriptor, with its space. -/
def execTres (d : BitVec 3) (a : BitVec 7) (s : State) : Out :=
  .next (s.matWord [] [.tile d.toNat] fun m s =>
    let x := (s.opA64 m a).toNat
    let t : Tile := { desc := x }
    if tileBad x then s.bandTrap .matrixOperand
    else if t.rows = 0 then s.updClump s.sh.clump fun c => c.setTile d.toNat { t with st := 1 }
    else
      match s.clp.freeRun d.toNat t.units with
      | none => s.bandTrap .operandBufferFull
      | some o => s.updClump s.sh.clump fun c => c.setTile d.toNat { t with st := 2, off := o, own := t.units })

/-- R206: the record is unreserved and its space is free. -/
def execTrel (a : BitVec 3) (s : State) : Out :=
  .next (s.matWord [] [.tile a.toNat] fun _ s => s.updClump s.sh.clump fun c => c.setTile a.toNat {})

/-- Issues a load of a record from spans of the scratchpad. -/
def State.tileWord (s : State) (m : Lane) (o : Nat) (spans : List (Nat × Nat)) (k : OpKind) : State :=
  if o % 16 ≠ 0 ∨ spans.any (fun x => !s.clp.inSpad x.1 x.2) then s.bandTrap .spadBounds o
  else
    let rs : List RangeReq := (spans.filter fun x => x.2 != 0).map fun x => ⟨some s.sh.clump, x.1, x.1 + x.2, false⟩
    if s.lockWait s.clp.coreNo s.clp.ctx rs then s.holdAll .engineIssue
    else
      let i := s.fresh
      i.2.accept (i.2.opFor m i.1 k) rs

/-- R206: loads a tile from its A image. -/
def execTld (d : BitVec 3) (a : BitVec 7) (s : State) : Out :=
  .next (s.matWord [] [] fun m s =>
    let t := s.clp.tile d.toNat
    let o := (s.opA m a).toNat
    if t.st < 2 then s.bandTrap .matrixOperand
    else s.tileWord m o (t.spans o) (.tload d.toNat o))

/-- R206: replaces a loaded tile's scales. -/
def execTscale (d : BitVec 3) (a : BitVec 7) (s : State) : Out :=
  .next (s.matWord [.tile d.toNat] [] fun m s =>
    let t := s.clp.tile d.toNat
    let o := (s.opA m a).toNat
    if t.st ≠ 3 ∨ !t.scaled then s.bandTrap .matrixOperand
    else s.tileWord m o [(o, t.scaleBytes t.rows)] (.tscale d.toNat o))

/-- R206: what `tinfo` reads of a record. -/
def Tile.info (t : Tile) : Word × Word :=
  let code := t.code
  if t.st = 0 then (0, 0)
  else (BitVec.ofNat 32 (t.desc % 2 ^ 32 + code * 2 ^ 6), BitVec.ofNat 32 (t.desc / 2 ^ 32 + t.off * 2 ^ 20))

/-- R206: a record's descriptor, state and place. -/
def execTinfo (d : BitVec 7) (a : BitVec 3) (s : State) : Out :=
  .next (s.matWord [.tile a.toNat] [] fun m s =>
    let x := (s.clp.tile a.toNat).info
    s.engResult m (s.active.flatMap fun y => [.lane y.lane (.v d.toNat x.1), .lane y.lane (.v (d.toNat + 1) x.2)]))

/-- R206: a tile load or rescale finishes. -/
def execTileLoadComplete (op : Nat) (s : State) : Out :=
  s.opReady op fun s o =>
    match o.kind with
    | .tload t b => (s.updClump o.clump fun c => c.loadTile t b).endOp o 0
    | .tscale t b => (s.updClump o.clump fun c => c.loadScales t b).endOp o 0
    | _ => s

/-! ### MAT: slots and steps (R209, R212, R219) -/

/-- R209: fills a slot from a B image. -/
def execMload (d : BitVec 1) (a : BitVec 3) (b : BitVec 7) (s : State) : Out :=
  .next (s.matWord [.tile a.toNat] [] fun m s =>
    let t := s.clp.tile a.toNat
    let o := (s.opB m b).toNat
    if t.st = 0 then s.bandTrap .matrixOperand
    else if o % 128 ≠ 0 then s.bandTrap .spadBounds o
    else s.tileWord m o (t.slotSpans o) (.mload d.toNat a.toNat o))

/-- R209: fills a slot from a generator. -/
def execMloadg (d : BitVec 1) (a : BitVec 3) (s : State) : Out :=
  .next (s.matWord [.gen a.toNat] [] fun m s =>
    if !arrayFmt (s.clp.gen a.toNat).fmt then s.bandTrap .matrixOperand
    else
      let p := s.origin m a.toNat
      let i := s.fresh
      i.2.accept (i.2.opFor m i.1 (.mloadg d.toNat a.toNat p.1 p.2)) [])

/-- Sets a slot. -/
def State.setSlot (s : State) (c n : Nat) (x : Slot) : State := s.updClump c fun y => { y with mslots := y.mslots.insert n x }

/-- R209: a slot load finishes. -/
def execSlotLoadComplete (op : Nat) (s : State) : Out :=
  s.opReady op fun s o =>
    let c := s.clump o.clump
    match o.kind with
    | .mload n t b => (s.setSlot o.clump n (c.slotOf (c.tile t) b)).endOp o 0
    | .mloadg n g row0 col0 =>
      (s.setSlot o.clump n (slotOfGen (c.gen g) (s.genSeed o.clump ⟨o.band, 0⟩ (c.gen g)) row0 col0)).endOp o 0
    | _ => s

/-- R212: streams a tile against a slot. -/
def execMma (d : BitVec 2) (a : BitVec 3) (colq : BitVec 2) (slot : BitVec 1) (s : State) : Out :=
  .next (s.stepWord d.toNat colq.toNat slot.toNat (fun _ _ => .tile a.toNat) (.tile a.toNat) false)

/-- R213: the pair form, against both slots of a thicket. -/
def execMmaPair (d : BitVec 2) (a : BitVec 3) (colq : BitVec 2) (slot : BitVec 1) (s : State) : Out :=
  .next (s.stepWord d.toNat colq.toNat slot.toNat (fun _ _ => .tile a.toNat) (.tile a.toNat) true)

/-- A generator as a step's source, with its origin. -/
def genSrc (g : Nat) (m : Lane) (s : State) : StepSrc :=
  let p := s.origin m g
  .gen g p.1 p.2

/-- R212: streams a generator against a slot. -/
def execMmag (d : BitVec 2) (a : BitVec 3) (colq : BitVec 2) (slot : BitVec 1) (s : State) : Out :=
  .next (s.stepWord d.toNat colq.toNat slot.toNat (genSrc a.toNat) (.gen a.toNat) false)

/-- R213: the pair form with a generator. -/
def execMmagPair (d : BitVec 2) (a : BitVec 3) (colq : BitVec 2) (slot : BitVec 1) (s : State) : Out :=
  .next (s.stepWord d.toNat colq.toNat slot.toNat (genSrc a.toNat) (.gen a.toNat) true)

/-- R212, R213, R217: a step outside a chain reads its operands and its tree results reach the accumulator. A step of an open chain
first reads its operands, and its results reach the accumulator at a second event, before or after those of the chain's other steps
(R50). DESIGN CHOICE: notes/assumptions/90.md. An `mwait` takes effect, as a marker. -/
def execMatrixStepRetire (op : Nat) (s : State) : Out :=
  s.opReady op fun s o =>
    match o.kind with
    | .step a q n src pair none => (s.addOuts o.clump (s.stepOuts o a (64 * q) n src pair)).endOp o 0
    | .step a q n src pair (some c) => s.updOp o.id fun x => { x with kind := .sum (s.stepOuts o a (64 * q) n src pair) c }
    | .sum outs _ => (s.addOuts o.clump outs).endOp o 0
    | .mwait _ => s.endOp o 0
    | _ => s

/-- Clears an accumulator: +0 throughout, flags and poison clear (R219, R222, R317). -/
def Acc.cleared (x : Acc) : Acc := { chain := x.chain }

/-- R219: clears the accumulator, as a marker. -/
def execMzero (d : BitVec 2) (s : State) : Out :=
  .next (s.matWord [] [.acc d.toNat] fun _ s =>
    s.updClump s.sh.clump fun c => c.setAcc d.toNat (c.acc d.toNat).cleared)

/-- R217, R219: parks the band until its matrix operations on the accumulator have completed, as a marker among the steps that the
clump's bands have accepted. -/
def execMwait (a : BitVec 2) (s : State) : Out :=
  .next (s.matWord [] [] fun m s =>
    let names (i : Item) : Bool := i == .acc a.toNat || i == .store a.toNat
    let mine := (s.ops.filter fun o => o.clump == s.sh.clump && (o.kind.writesItems.any names ||
      (o.band == m.band && o.kind.readsItems.any names))).map (·.id)
    if mine = [] then s.passEngine s.sh.clump m.band
    else
      let i := s.fresh
      let s := i.2.accept (i.2.opFor m i.1 (.mwait a.toNat)) []
      s.sh.lanes.foldl (fun s x => s.parkAt x (.matWait (mine ++ [i.1]))) s)

/-! ### MATC: chains (R217) -/

/-- R217: closes any open chain on the accumulator and opens a new one. -/
def execMbegin (d : BitVec 2) (s : State) : Out :=
  .next (s.matWord [] [.acc d.toNat] fun _ s =>
    let i := s.fresh
    i.2.updClump s.sh.clump fun c => c.setAcc d.toNat { c.acc d.toNat with chain := some i.1 })

/-- R217: closes the accumulator's chain. -/
def execMend (d : BitVec 2) (s : State) : Out :=
  .next (s.matWord [] [.acc d.toNat] fun _ s =>
    s.updClump s.sh.clump fun c => c.setAcc d.toNat { c.acc d.toNat with chain := none })

end Sys2Proof.Machine
end

