-- ==== Sys2Proof/Machine/Drain.lean ====
section
/-!
DEFINITION. The drain chain: `mdrain`, `mst` and `mact`, OP 0x31 (R221 to R228).
-/

namespace Sys2Proof.Machine
open Sys2Proof.Machine.Num (Val)

/-! ### Descriptors (R222) -/

/-- The destinations of a drain. -/
abbrev destSpad : Nat := 0
abbrev destMem : Nat := 1
abbrev destReg : Nat := 2

/-- The fields of a drain descriptor's eight words. -/
def drainDesc (ws : List Word) : DrainDesc :=
  let x (i : Nat) : Word := (ws[i]?).getD 0
  let w (i : Nat) : Nat := (x i).toNat
  { cgrp := w 0 / 2 ^ 16 % 2 ^ 5
    dest := w 0 / 2 ^ 8 % 4
    zero := Nat.testBit (w 0) 7
    bl16 := Nat.testBit (w 0) 6
    rq := w 0 / 2 ^ 3 % 8
    ts := Nat.testBit (w 0) 2
    act := Nat.testBit (w 0) 1
    bias := Nat.testBit (w 0) 0
    daddr := w 1 + w 2 * 2 ^ 32
    dstride := (x 3).toInt
    scoff := w 4
    tsv := x 5
    nrow := w 6 / 2 ^ 16 % 2 ^ 6
    ncol := w 6 % 2 ^ 9 }

/-- The block length of requantisation. -/
def DrainDesc.blen (d : DrainDesc) : Nat := if d.bl16 then 16 else 32

/-- The target format of requantisation (R222). -/
def DrainDesc.fmt (d : DrainDesc) : Nat :=
  match d.rq with
  | 1 => 9
  | 2 => 5
  | 3 => 6
  | 4 => 8
  | _ => 0

/-- The descriptor breaks R222, as R228 lists. -/
def drainBad (d : DrainDesc) (ws : List Word) : Bool :=
  let w (i : Nat) : Nat := ((ws[i]?).getD 0).toNat
  decide (w 0 / 2 ^ 21 ≠ 0) || decide (w 0 / 2 ^ 10 % 2 ^ 6 ≠ 0) || decide (w 6 / 2 ^ 22 ≠ 0) || decide (w 6 / 2 ^ 9 % 2 ^ 7 ≠ 0) ||
    decide (w 7 ≠ 0) || decide (d.dest = 3) || (d.dest != destReg && d.cgrp != 0) || decide (4 < d.rq) ||
    decide (d.nrow = 0) || decide (32 < d.nrow) ||
    (d.dest != destReg && (d.ncol == 0 || decide (256 < d.ncol))) || (d.rq != 0 && d.ncol % d.blen != 0) ||
    (d.dest == destReg && (d.rq != 0 || d.ncol != 0)) || (d.rq == 0 && d.scoff != 0) || (d.dest == destSpad && w 2 != 0)

/-- A field that `mst` forbids (R225). -/
def drainRawBad (d : DrainDesc) : Bool :=
  d.bias || d.act || d.ts || d.rq != 0 || d.bl16 || d.cgrp != 0 || d.scoff != 0 || decide (1 < d.dest)

/-- An address of the descriptor is not a multiple of 16 (R228). -/
def DrainDesc.misaligned (d : DrainDesc) : Bool := d.daddr % 16 != 0 || d.dstride % 16 != 0 || d.scoff % 16 != 0

/-- Bytes of a row's elements, and its blocks. -/
def DrainDesc.rowBytes (d : DrainDesc) : Nat := d.ncol * elemWidth d.fmt / 8
def DrainDesc.blocks (d : DrainDesc) : Nat := if d.rq = 0 then 0 else d.ncol / d.blen

/-- Where row `r` lies, in the scratchpad or as a virtual address modulo 2^64. -/
def DrainDesc.rowAt (d : DrainDesc) (r : Nat) : Int :=
  if d.dest = destSpad then (d.daddr : Int) + r * d.dstride else ((d.daddr : Int) + r * d.dstride) % (2 ^ 64 : Int)

/-- Where the scales of row `r` lie. -/
def DrainDesc.scaleAt (d : DrainDesc) (r : Nat) : Int :=
  if d.dest = destSpad then (d.daddr : Int) + d.scoff + r * d.blocks
  else ((d.daddr : Int) + d.scoff + r * d.blocks) % (2 ^ 64 : Int)

/-- The spans that a drain writes, rows ascending: each row's elements, then its scales. -/
def DrainDesc.spans (d : DrainDesc) : List (Int × Nat) :=
  (List.range d.nrow).flatMap fun r =>
    (d.rowAt r, d.rowBytes) :: (if d.rq = 0 then [] else [(d.scaleAt r, d.blocks)])

/-- The first span outside the scratchpad allocation. -/
def DrainDesc.outside (d : DrainDesc) (c : Clump) : Option Int :=
  if d.dest ≠ destSpad then none
  else (d.spans.find? fun x => decide (x.1 < 0) || !c.inSpad x.1.toNat x.2).map (·.1)

/-- The ranges that a drain locks (R137, R226): the hull of its rows, and of its scales.
DEDUCED: notes/assumptions/54.md. -/
def DrainDesc.ranges (d : DrainDesc) (clump : Nat) : List RangeReq :=
  let sp := if d.dest = destSpad then some clump else none
  let of (xs : List Nat) (n : Nat) : List RangeReq :=
    match xs with
    | [] => []
    | x :: r => [⟨sp, r.foldl Nat.min x, r.foldl Nat.max x + n, true⟩]
  if d.dest = destReg then []
  else of ((List.range d.nrow).map fun r => (d.rowAt r).toNat) d.rowBytes ++
    (if d.rq = 0 then [] else of ((List.range d.nrow).map fun r => (d.scaleAt r).toNat) d.blocks)

/-- The scratchpad lines that a drain writes. -/
def DrainDesc.lines (d : DrainDesc) : List Nat :=
  if d.dest = destSpad then (d.spans.flatMap fun x => spadLinesOf x.1.toNat x.2).dedup else []

/-! ### The drain store and the activation (R223) -/

/-- A drain store of a clump; at grant it holds the identity table and no bias. -/
def Clump.store (c : Clump) (a : Nat) : DrainStore := c.stores.getD a {}

/-- Word `i` of an identity table. -/
def identityWord (i : Nat) : Word := if 64 ≤ i ∧ i < 128 then 0x3F800000 else 0

/-- Word `i` of an activation table, and a column's bias. -/
def DrainStore.word (d : DrainStore) (i : Nat) : Word := d.table.getD i (identityWord i)
def DrainStore.biasOf (d : DrainStore) (c : Nat) : Word := d.bias.getD c 0

/-- The segment of the activation table for an input (R223). -/
def DrainStore.segment (d : DrainStore) (x : Val) : Nat :=
  (List.range 63).foldl (fun s i =>
    let b := Num.ofF32 (d.word (i + 1))
    if Num.lt b x || Num.eq b x then i + 1 else s) 0

/-- The activation of an input (R223). -/
def DrainStore.activate (d : DrainStore) (x : Word) : Word :=
  if Num.isNan (Num.ofF32 x) then BitVec.ofNat 32 Num.f32.nan
  else
    let s := d.segment (Num.ofF32 x)
    Num.rneF32 (Num.add 0 (Num.mul (Num.ofF32 (d.word (64 + s))) (Num.ofF32 x)) (Num.ofF32 (d.word (128 + s))))

/-! ### What a drain writes (R224, R225) -/

/-- An element after the drain chain; `none` where the accumulator's flags mark it. -/
def DrainDesc.element (d : DrainDesc) (raw : Bool) (a : Acc) (st : DrainStore) (r c : Nat) : Option Word :=
  let x := a.vals.getD (256 * r + c) 0
  if raw then some x
  else if a.rowFlags.getLsbD r || a.colFlags.getLsbD c then none
  else
    let x := if d.ts then Num.rneF32 (Num.mul (Num.ofF32 x) (Num.ofF32 d.tsv)) else x
    let x := if d.bias then Num.addRne x (st.biasOf c) else x
    some (if d.act then st.activate x else x)

/-- The value of an element; a marked one is NaN. -/
def drainVal (x : Option Word) : Val :=
  match x with
  | some w => Num.ofF32 w
  | none => .nan

/-- A block's scale and the bits of its elements (R224, R60). -/
def drainBlock (fmt : Nat) (xs : List (Option Word)) : Nat × List Nat :=
  let vs := xs.map drainVal
  let e := requantScale fmt vs
  let nan := match fmtOf fmt with
    | some t => t.nan
    | none => 0x7F
  (e, vs.map fun v => if e = 0xFF then nan else requantElem fmt e v)

/-- A row's element bytes and scale bytes. -/
def DrainDesc.row (d : DrainDesc) (raw : Bool) (a : Acc) (st : DrainStore) (r : Nat) : List Byte × List Byte :=
  let xs := (List.range d.ncol).map (d.element raw a st r)
  if d.rq = 0 then (xs.flatMap fun x => leBytes 4 (x.getD 0x7FC00000).toNat, [])
  else
    let bs := (List.range d.blocks).map fun b => drainBlock d.fmt ((xs.drop (b * d.blen)).take d.blen)
    (leBytes d.rowBytes (joinElems (elemWidth d.fmt) (bs.flatMap (·.2))), bs.map fun b => BitVec.ofNat 8 b.1)

/-- Bytes as an engine writes them: poisoned throughout if what it read was (R317). -/
def poisonAll (bad : Bool) (b : List Byte) : Data := (b, if bad then b.map fun _ => true else [])

/-- The writes of a drain in order: where, and what. -/
def DrainDesc.writes (d : DrainDesc) (raw : Bool) (a : Acc) (st : DrainStore) : List (Int × Data) :=
  let bad := a.poison || (!raw && st.poison)
  (List.range d.nrow).flatMap fun r =>
    let x := d.row raw a st r
    (d.rowAt r, poisonAll bad x.1) :: (if d.rq = 0 then [] else [(d.scaleAt r, poisonAll bad x.2)])

/-- The registers that a drain writes (R226): eight columns of a group. -/
def DrainDesc.regWrites (d : DrainDesc) (a : Acc) (st : DrainStore) (reg : Nat) (lanes : List Nat) : List EngWrite :=
  (lanes.filter fun l => decide (l < d.nrow)).flatMap fun l => (List.range 8).map fun j =>
    .lane l (.v (reg + j) ((d.element false a st l (8 * d.cgrp + j)).getD 0x7FC00000))

/-- Writes to memory in order at an operation's scope (R226); an error is the address refused. -/
def State.writeSpans (s : State) (o : Op) : List (Int × Data) → Except Nat Unit × State
  | [] => (.ok (), s)
  | (a, d) :: rest =>
    match s.engWrite o a.toNat d false with
    | (.ok _, s) => s.writeSpans o rest
    | (.error e, s) => (.error e, s)

/-- Moves an accumulator out: an error is the memory address refused, and then the accumulator stays. -/
def State.drainOut (s : State) (o : Op) (acc : Nat) (d : DrainDesc) (raw : Bool) (reg : Nat) : Except Nat Unit × State :=
  let c := s.clump o.clump
  let a := c.acc acc
  let ws := d.writes raw a (c.store acc)
  let zero (s : State) : State := if d.zero then s.updClump o.clump fun c => c.setAcc acc (c.acc acc).cleared else s
  match d.dest with
  | 0 => (.ok (), zero (s.updClump o.clump fun c => ws.foldl (fun c x => c.engSpad x.1.toNat x.2) c))
  | 1 =>
    match s.writeSpans o ws with
    | (.ok _, s) => (.ok (), zero s)
    | (.error e, s) => (.error e, s)
  | _ =>
    let b := s.band o.clump o.band
    let rs := d.regWrites a (c.store acc) reg (b.strands.map (·.1))
    let bad := a.poison || c.stores.any fun x => x.1 == acc && x.2.poison
    (.ok (), zero (s.updBand o.clump o.band fun b =>
      { b.giveV o.id rs with regPoison := if bad then addOnce b.regPoison (reg / 8) else b.regPoison }))

/-- The memory spans that a drain writes, for its translations. -/
def DrainDesc.memSpans (d : DrainDesc) : List (Kind × Nat × Nat) :=
  if d.dest = destMem then d.spans.map fun x => (Kind.engWrite, x.1.toNat, x.2) else []

/-! ### The instructions -/

/-- Issues a drain of an accumulator by the descriptor in an octet of lane 0 (R228): what DEST says of the field D is known only from
the descriptor. DEDUCED: notes/assumptions/54.md. -/
def State.drainWord (s : State) (d : BitVec 7) (a : BitVec 2) (b : BitVec 7) (raw : Bool) : State :=
  s.matWord [] [] fun m s =>
    let ws := (List.range 8).map fun i => s.opBword m b i
    let x := drainDesc ws
    if !raw && x.dest != destReg && d != 0 then s.bandTrap .illegal
    else if drainBad x ws || (raw && drainRawBad x) then s.bandTrap .matrixOperand
    else if x.misaligned then s.bandTrap .misaligned (x.daddr % 2 ^ 56)
    else
      match x.outside s.clp with
      | some o => s.bandTrap .spadBounds (o % (2 ^ 32 : Int)).toNat
      | none =>
        let rs := x.ranges s.sh.clump
        let regs := if x.dest = destReg then (List.range 8).map (d.toNat + ·) else []
        if (s.bnd m).engOut.any fun e => e.keys.any regs.contains then s.holdAll .interlock
        else if s.lockWait s.clp.coreNo s.clp.ctx rs then s.holdAll .engineIssue
        else
          let i := s.fresh
          let s := i.2.accept (i.2.opFor m i.1 (.drain a.toNat x raw d.toNat) none x.lines) rs
          if x.dest = destReg then s.updBand s.sh.clump m.band fun y => y.promiseV i.1 d.toNat 8 else s

/-- R224: moves an accumulator out through bias, activation and requantisation. -/
def execMdrain (d : BitVec 7) (a : BitVec 2) (b : BitVec 7) (s : State) : Out := .next (s.drainWord d a b false)

/-- R225: moves an accumulator out as it stands. -/
def execMst (a : BitVec 2) (b : BitVec 7) (s : State) : Out := .next (s.drainWord 0 a b true)

/-- R227: loads an accumulator's activation table and bias. -/
def execMact (d : BitVec 2) (a b : BitVec 7) (s : State) : Out :=
  .next (s.matWord [] [] fun m s =>
    let offs := [(s.opA m a).toNat, (s.opB m b).toNat].filter (· != 0xFFFFFFFF)
    match offs.find? fun o => o % 128 ≠ 0, offs.find? fun o => !s.clp.inSpad o 1024 with
    | some o, _ => s.bandTrap .misaligned o
    | none, some o => s.bandTrap .spadBounds o
    | none, none =>
      let rs : List RangeReq := offs.map fun o => ⟨some s.sh.clump, o, o + 1024, false⟩
      if s.lockWait s.clp.coreNo s.clp.ctx rs then s.holdAll .engineIssue
      else
        let i := s.fresh
        i.2.accept (i.2.opFor m i.1 (.mact d.toNat (s.opA m a).toNat (s.opB m b).toNat)) rs)

/-- Copies an activation table and a bias from the scratchpad, each unless its offset is 0xFFFF_FFFF. -/
def Clump.loadStore (c : Clump) (a table bias : Nat) : Clump :=
  let words (o : Nat) (f : Nat → Word) : SMap Word := (List.range 256).filterMap fun i =>
    let x : Word := BitVec.ofNat 32 (c.spadNat (o + 4 * i) 4)
    if x = f i then none else some (i, x)
  let d := c.store a
  let d := if table = 0xFFFFFFFF then d else { d with table := words table identityWord, poison := d.poison || c.spadBad table 1024 }
  let d := if bias = 0xFFFFFFFF then d else { d with bias := words bias fun _ => 0, poison := d.poison || c.spadBad bias 1024 }
  { c with stores := c.stores.put a {} d }

/-- A drain completes, ends in a fault, or pauses (R226, R228). DEDUCED: notes/assumptions/31.md. -/
def State.runDrain (s : State) (o : Op) (a : Nat) (d : DrainDesc) (raw : Bool) (reg : Nat) : State :=
  match s.engPause o.ctx d.memSpans with
  | some x => s.pauseOp o x true
  | none =>
    match s.drainOut o a d raw reg with
    | (.ok _, s) => s.endOp o 0
    | (.error va, s) => s.failOp o a va

/-- R226, R227: a drain's writes land, or `mact`'s copies end. -/
def execDrainComplete (op : Nat) (s : State) : Out :=
  s.opReady op fun s o =>
    match o.kind with
    | .drain a d raw reg => s.opMoves o fun s => s.runDrain o a d raw reg
    | .mact a t b => (s.updClump o.clump fun c => c.loadStore a t b).endOp o 0
    | _ => s

end Sys2Proof.Machine
end

