-- ==== Sys2Proof/Machine/Release.lean ====
section
/-!
DEFINITION. The macro-operation sequencer, `mgemm` (R229 to R233), and `eng.release` (R145).
-/

namespace Sys2Proof.Machine

/-! ### Descriptors (R230) -/

/-- The rest of the fields of an `mgemm` descriptor. -/
def Mgemm.aoff (p : Mgemm) : Nat := p.word 0
def Mgemm.astride (p : Mgemm) : Nat := p.word 1
def Mgemm.boff (p : Mgemm) : Nat := p.word 2
def Mgemm.bstride (p : Mgemm) : Nat := p.word 3
def Mgemm.drainWords (p : Mgemm) : List Word := p.desc.drop 8

/-- Tiles of 32 rows: MT. -/
def Mgemm.mt (p : Mgemm) : Nat := (p.rows + 31) / 32

/-- Rows of tile `m`. -/
def Mgemm.rowsOf (p : Mgemm) (m : Nat) : Nat := Nat.min 32 (p.rows - 32 * m)

/-- The drain of tile `m` (R231). -/
def Mgemm.drainOf (p : Mgemm) (m : Nat) : DrainDesc :=
  let d := drainDesc p.drainWords
  { d with daddr := (((d.daddr : Int) + 32 * m * d.dstride) % (2 ^ 64 : Int)).toNat, nrow := p.rowsOf m }

/-- The descriptor breaks R233, for a clump. DEDUCED: notes/assumptions/53.md. -/
def Mgemm.bad (p : Mgemm) (c : Clump) : Bool :=
  let d := drainDesc p.drainWords
  let ta := c.tile p.ta
  let tb := c.tile p.tb
  decide (p.word 4 / 2 ^ 26 % 4 ≠ 0) || Nat.testBit (p.word 4) 31 || decide (p.word 5 / 8 ≠ 0) || decide (p.word 6 ≠ 0) ||
    decide (p.word 7 ≠ 0) || decide (p.kt = 0) || decide (c.kernel.acc ≤ p.acc) || decide (ta.st < 2) || decide (ta.rows ≠ 32) ||
    decide (tb.st = 0) || !widthsOk (alignWidth ta.fmt) (alignWidth tb.fmt) || drainBad d p.drainWords || d.misaligned ||
    d.dest == destReg || decide (c.kernel.slots = 0) || (decide (1 < p.kt) && decide (c.kernel.slots < 2))

/-- One past the last byte of an image of spans from `o` on. -/
def spansEnd (xs : List (Nat × Nat)) : Nat := xs.foldl (fun e x => Nat.max e (x.1 + x.2)) 0

/-- The ranges that the sequencer locks (R231): the hull of the A images, the span of the B chunks, the destination hull. -/
def Mgemm.ranges (p : Mgemm) (c : Clump) (name : Nat) : List RangeReq :=
  if p.rows = 0 then []
  else
    let a := p.aoff + (p.mt * p.kt - 1) * p.astride
    let b := p.boff + (p.kt - 1) * p.bstride
    let d := (List.range p.mt).flatMap fun m => (p.drainOf m).ranges name
    let sp := if (drainDesc p.drainWords).dest = destSpad then some name else none
    [⟨some name, p.aoff, spansEnd ((c.tile p.ta).spans a), false⟩, ⟨some name, p.boff, spansEnd ((c.tile p.tb).slotSpans b), false⟩] ++
      (match d with
       | [] => []
       | x :: xs => [⟨sp, xs.foldl (fun l r => Nat.min l r.lo) x.lo, xs.foldl (fun h r => Nat.max h r.hi) x.hi, true⟩])

/-- The scratchpad lines that the sequencer's drains write, from a tile's on. -/
def Mgemm.lines (p : Mgemm) (c : Clump) (from_ : Nat := 0) : List Nat :=
  (((List.range p.mt).drop from_).flatMap fun m => (p.drainOf m).lines).dedup.filter fun l => decide (128 * l < c.kernel.spad)

/-- What is wrong with an `mgemm` whose descriptor lies at an offset; `rows` replaces its ROWS (R147, R233). -/
def Clump.mgemmAt (c : Clump) (off : Nat) (rows : Option Nat) : Except Trap Mgemm :=
  if off % 64 ≠ 0 then .error { cause := .misaligned, addr := off }
  else if !c.inSpad off 64 then .error { cause := .spadBounds, addr := off }
  else
    let ws : List Word := (List.range 16).map fun i => BitVec.ofNat 32 (c.spadNat (off + 4 * i) 4)
    let ws := match rows with
      | some n => ws.set 4 (BitVec.ofNat 32 ((((ws[4]?).getD 0).toNat / 2 ^ 16) * 2 ^ 16 + n % 2 ^ 16))
      | none => ws
    let p : Mgemm := { desc := ws }
    if p.bad c then .error { cause := .matrixOperand } else .ok p

/-! ### The sequence (R231, R232) -/

/-- The drain of the tile before is still to come. DEDUCED: notes/assumptions/53.md. -/
def Mgemm.drainDue (p : Mgemm) : Bool := decide (0 < p.m) && p.c == 0 && (p.afterLoad || p.kt == 1)

/-- The accumulator is cleared and its chain opened, at the start of a tile. -/
def State.seqOpen (s : State) (o : Op) (p : Mgemm) : State :=
  if p.c = 0 ∧ (p.afterLoad ∨ p.kt = 1) then
    let i := s.fresh
    i.2.updClump o.clump fun c => c.setAcc p.acc { chain := some i.1 }
  else s

/-- A slot load of the sequence, with the progress so far: `none` if a check of it fails. -/
def State.seqLoad (s : State) (o : Op) (p : Mgemm) : Option (State × Mgemm) :=
  let c := s.clump o.clump
  let t := c.tile p.tb
  let b := p.boff + p.c * p.bstride
  if b % 128 ≠ 0 ∨ (t.slotSpans b).any (fun x => !c.inSpad x.1 x.2) then none
  else some (s.setSlot o.clump (p.c % 2) (c.slotOf t b), p)

/-- Sets a record's ROWS. DEDUCED: notes/assumptions/53.md. -/
def Tile.withRows (t : Tile) (n : Nat) : Tile := { t with desc := t.desc - t.rows * 2 ^ 8 + n * 2 ^ 8 }

/-- A tile load and a step of the sequence, whose tree results the tile's chain is still to add (R50, R51). -/
def State.seqStep (s : State) (o : Op) (p : Mgemm) : Option (State × Mgemm) :=
  let t := ((s.clump o.clump).tile p.ta).withRows (p.rowsOf p.m)
  let a := p.aoff + (p.m * p.kt + p.c) * p.astride
  let s := s.updClump o.clump fun c => c.setTile p.ta t
  let c := s.clump o.clump
  if a % 16 ≠ 0 ∨ (t.spans a).any (fun x => !c.inSpad x.1 x.2) then none
  else
    let s := s.updClump o.clump fun c => c.loadTile p.ta a
    let c := s.clump o.clump
    if !stepOk (c.sourceOf (.tile p.ta)) (c.mslots.find? (p.c % 2)) 0 then none
    else some (s, { p with held := p.held ++ [s.stepAt o 0 (p.c % 2) o.clump (.tile p.ta)] })

/-- The steps that have run reach the accumulator. -/
def State.flushHeld (s : State) (o : Op) (p : Mgemm) : State :=
  (s.addHeld o.clump p.acc p.held.length p.held).updOp o.id fun x => { x with kind := .mgemm { p with held := [] } }

/-- The progress after a step. -/
def Mgemm.next (p : Mgemm) : Mgemm :=
  if p.afterLoad then { p with afterLoad := false }
  else if p.c + 1 < p.kt then { p with c := p.c + 1, afterLoad := true }
  else { p with m := p.m + 1, c := 0, afterLoad := decide (1 < p.kt) }

/-- The sequence up to its next boundary, once its drain is done. DEDUCED: notes/assumptions/53.md. -/
def State.seqTo (s : State) (o : Op) (p : Mgemm) : State :=
  let fault (s : State) : State := s.failOp o (o.handle.getD 0) 0
  if p.mt ≤ p.m then s.endOp o 0
  else
    let s := s.seqOpen o p
    match if p.afterLoad then s.seqLoad o p else s.seqStep o p with
    | none => fault s
    | some (s, p) => s.updOp o.id fun x => { x with kind := .mgemm p.next }

/-- Scratchpad lines of the drain of the tile before that no drain to come writes: they have landed (R133). -/
def Mgemm.landed (p : Mgemm) : List Nat :=
  let later := ((List.range p.mt).drop p.m).flatMap fun m => (p.drainOf m).lines
  (p.drainOf (p.m - 1)).lines.filter fun l => !later.contains l

/-- The sequencer runs to its next boundary: at the end of a tile its chain's sums and its drain come first, and the drain's memory
may pause it. -/
def State.runMgemm (s : State) (o : Op) (p : Mgemm) : State :=
  if !p.drainDue then s.seqTo o p
  else
    let d := p.drainOf (p.m - 1)
    match s.engPause o.ctx d.memSpans with
    | some x => s.pauseOp o x true
    | none =>
      let s := (s.flushHeld o p).updClump o.clump fun c => c.setAcc p.acc { c.acc p.acc with chain := none }
      if (d.outside (s.clump o.clump)).isSome then s.failOp o (o.handle.getD 0) 0
      else
        match s.drainOut o p.acc d false 0 with
        | (.ok _, s) => (s.present o p.landed).seqTo o { p with held := [] }
        | (.error va, s) => s.failOp o (o.handle.getD 0) va

/-- A sequencer that has come back locks its ranges before it goes on: `none` while a conflicting entry is held (R139, R232). -/
def State.relock (s : State) (o : Op) (p : Mgemm) : Option State :=
  let rs := p.ranges (s.clump o.clump) o.clump
  let core := coreNo o.die o.core
  if rs = [] ∨ s.locks.any (fun l => l.2.op == o.id) then some s
  else if s.lockWait core o.ctx rs then none
  else some (s.lockRanges core o.ctx o.id (lockDetail (s.band o.clump o.band) o.handle) rs)

/-- R231, R232: the sequencer reaches its next boundary. -/
def execMgemmSequenceStep (op : Nat) (s : State) : Out :=
  s.opReady op fun s o =>
    match o.kind with
    | .mgemm p =>
      match s.relock o p with
      | some t => if t.slaved o.clump then t else t.opMoves o fun t => t.runMgemm o p
      | none => s
    | _ => s

/-! ### The instructions -/

/-- R229: hands a product to the sequencer, or posts it unreleased. -/
def execMgemm (d a : BitVec 7) (b : BitVec 1) (s : State) : Out :=
  .next (s.matWord [] [] fun m s =>
    let off := (s.opA m a).toNat
    if b = 1 then
      if Config.maxUnreleased ≤ (s.bnd m).unrel.length then s.bandTrap .queueFull
      else
        let h := (s.bnd m).newHandle 2
        let u : Unreleased :=
          { op := 0x30, fn := 6, desc := [BitVec.ofNat 32 off], handle := h.1, compl := 0, scope := s.sh.ext.scope
            floor := s.namesTime m }
        (s.updBand s.sh.clump m.band fun _ => { h.2 with unrel := h.2.unrel ++ [u] }).engResult m [.k d.toNat (BitVec.ofNat 32 h.1)]
    else if off % 64 = 0 ∧ s.clp.inSpad off 64 ∧ s.lockWait s.clp.coreNo s.clp.ctx [⟨some s.sh.clump, off, off + 64, false⟩] then
      s.holdAll .engineIssue
    else
      match s.clp.mgemmAt off none with
      | .error t => if s.itemsWritten s.sh.clump ((List.range 8).map .tile) then s.holdAll .engineIssue else s.trapAll t
      | .ok p =>
        let rs := p.ranges s.clp s.sh.clump
        if s.itemsWritten s.sh.clump [.tile p.ta, .tile p.tb] || s.lockWait s.clp.coreNo s.clp.ctx rs then s.holdAll .engineIssue
        else
          let h := (s.bnd m).newHandle 1
          let s := s.updBand s.sh.clump m.band fun _ => h.2
          let i := s.fresh
          let o := i.2.opFor m i.1 (.mgemm p) (some h.1) (p.lines s.clp)
          (i.2.accept o rs).engResult m [.k d.toNat (BitVec.ofNat 32 h.1)])

/-- An unreleased command as an operation with its ranges, or why it traps (R144, R145, R233). -/
def State.releasable (s : State) (clump : Nat) (u : Unreleased) : Except Trap (OpKind × List RangeReq × List Nat) :=
  let c := s.clump clump
  if u.op = 0x22 then
    let x := copyDesc u.fn u.desc
    if copyBad x u.desc then .error { cause := .copyDescriptor }
    else
      match x.refuses c u.compl with
      | some t => .error t
      | none => .ok (.copy x u.compl, x.ranges clump, x.lines)
  else
    match c.mgemmAt (descWord u.desc 0).toNat ((u.desc[1]?).map (·.toNat)) with
    | .error t => .error t
    | .ok p => .ok (.mgemm p, p.ranges c clump, p.lines c)

/-- A released `mgemm` waits at issue as one issued at once does: the array is slaved, its descriptor lies in a locked range, or an
operation in flight writes a record (R139, R204, R213). -/
def State.cannotRead (s : State) (o : Op) (u : Unreleased) : Bool :=
  let off := (descWord u.desc 0).toNat
  u.op != 0x22 && (s.slaved o.clump || s.itemsWritten o.clump ((List.range 8).map .tile) ||
    (decide (off % 64 = 0) && (s.clump o.clump).inSpad off 64 &&
      s.lockWait (coreNo o.die o.core) o.ctx [⟨some o.clump, off, off + 64, false⟩]))

/-- Issues a released command as if at this moment (R139, R145): `none` where it waits at issue, and its trap where a check refuses
it. It is accepted after every operation in flight. -/
def State.issuePend (s : State) (o : Op) (u : Unreleased) : Except Trap (Option State) :=
  if s.cannotRead o u then .ok none
  else
    match s.releasable o.clump u with
    | .error t => .error t
    | .ok (k, rs, lines) =>
      if s.lockWait (coreNo o.die o.core) o.ctx rs then .ok none
      else .ok (some (({ s with ops := s.ops.filter fun x => x.id != o.id } : State).accept { o with kind := k, lines := lines } rs))

/-- The released commands of a band that still wait at issue, in posting order. -/
def State.pending (s : State) (c b : Nat) : List (Op × Unreleased) :=
  s.ops.filterMap fun o => match o.kind with
    | .pend u => if o.clump = c ∧ o.band = b then some (o, u) else none
    | _ => none

/-- Issues released commands in posting order, up to one that waits (R145); the second part is the trap of one that is refused, with
its operation. -/
def State.issuePends (s : State) : List (Op × Unreleased) → State × Option (Op × Trap)
  | [] => (s, none)
  | (o, u) :: rest =>
    match s.issuePend o u with
    | .ok (some t) => t.issuePends rest
    | .ok none => (s, none)
    | .error t => (s, some (o, t))

/-- Releases one command: it waits at issue. -/
def State.releaseOne (s : State) (m : Lane) (u : Unreleased) : State :=
  let i := s.fresh
  let o := i.2.opFor m i.1 (.pend u) (some u.handle)
  let o := { o with scope := u.scope, floor := Nat.max o.floor u.floor }
  ({ i.2 with ops := i.2.ops ++ [o] } : State).updBand s.sh.clump m.band fun b => b.setHandle u.handle 1

/-- R145: releases every unreleased command of the band in posting order, and each issues if nothing holds it. A command that a
check refuses traps the band, and then none is released. DEDUCED: notes/assumptions/55.md. -/
def execEngRelease (d : BitVec 7) (s : State) : Out :=
  .next (s.engine fun m s =>
    let us := (s.bnd m).unrel
    let held := s.pending s.sh.clump m.band
    let t := us.foldl (fun s u => s.releaseOne m u) s
    match if held = [] then t.issuePends (t.pending s.sh.clump m.band) else (t, none) with
    | (_, some (_, e)) => s.trapAll e
    | (t, none) =>
      (t.updBand s.sh.clump m.band fun b => { b with unrel := [] }).engResult m [.k d.toNat (BitVec.ofNat 32 us.length)])

/-- R139, R145: released commands of a band that wait at issue try again, in posting order; one that a check refuses then ends in a
fault of the band. A band that waits at issue for an engine word issues it again. DESIGN CHOICE: notes/assumptions/25.md.
DEDUCED: notes/assumptions/55.md. -/
def execEngineIssueAfterLock (clump band : Nat) (s : State) : Out :=
  let s := match s.issuePends (s.pending clump band) with
    | (t, none) => t
    | (t, some (o, e)) => (t.endOp o 3).bandFault clump band e
  .next (s.wakeBand clump band fun k => k == .engineIssue)

end Sys2Proof.Machine
end

