-- ==== Sys2Proof/Machine/Tape.lean ====
section
/-!
DEFINITION. The tape engine, OP 0x2E (R242 to R258).
-/

namespace Sys2Proof.Machine

/-! ### The region (R242, R243) -/

/-- The descriptor's fields. -/
def Tape.w (t : Tape) (i : Nat) : Nat := ((t.desc[i]?).getD 0).toNat
def Tape.base (t : Tape) : Nat := t.w 0 + t.w 1 * 2 ^ 32
def Tape.length (t : Tape) : Nat := t.w 2 + t.w 3 * 2 ^ 32
def Tape.sbase (t : Tape) : Nat := t.w 4 + t.w 5 * 2 ^ 32
def Tape.slen (t : Tape) : Nat := t.w 6

/-- Bytes of the site table area, and of the staging buffer; a chunk. -/
def tapeArea : Nat := 16384
def tapeChunk : Nat := 4096

/-- P, and the capacity C; zero before the first `topen`. -/
def Tape.p (t : Tape) : Nat := t.length - tapeArea
def Tape.cap (t : Tape) : Nat := t.p + (if t.pol = 0 then t.slen * 2 ^ 16 else 0)

/-- The virtual address of a stream byte. -/
def Tape.addr (t : Tape) (o : Nat) : Nat := if o < t.p then t.base + tapeArea + o else t.sbase + (o - t.p)

/-- Staged bytes. -/
def Tape.bytes (t : Tape) (o n : Nat) : List Byte := (List.range n).map fun i => t.stage.getD (o + i) 0

/-- Staged bytes with their poison. -/
def Tape.data (t : Tape) (o n : Nat) : Data :=
  (t.bytes o n, if t.bad = [] then [] else (List.range n).map fun i => t.bad.contains ((o + i) / 64))

/-! ### Records (R247, R248) -/

/-- A record's trailer. -/
structure TRec where
  mask : Nat
  site : Nat
  kind : Nat
  nm1 : Nat
  len : Nat
  codes : Nat
  info : Nat
  deriving DecidableEq, Repr

/-- The kinds of records. -/
abbrev recValue : Nat := 0
abbrev recBranch : Nat := 1
abbrev recMark : Nat := 2
abbrev recClose : Nat := 3
abbrev recOver : Nat := 4

/-- The trailer's 16 bytes. -/
def TRec.bytes (r : TRec) : List Byte :=
  leBytes 16 (r.info + r.codes * 2 ^ 32 + r.len * 2 ^ 64 + r.nm1 * 2 ^ 73 + r.kind * 2 ^ 77 + r.site * 2 ^ 80 + r.mask * 2 ^ 96)

/-- Reads a trailer. -/
def parseRec (x : Nat) : TRec :=
  { mask := x / 2 ^ 96 % 2 ^ 32, site := x / 2 ^ 80 % 2 ^ 16, kind := x / 2 ^ 77 % 8, nm1 := x / 2 ^ 73 % 16,
    len := x / 2 ^ 64 % 2 ^ 9, codes := x / 2 ^ 32 % 2 ^ 32, info := x % 2 ^ 32 }

/-- What `tstat` reports of a record or of an expectation (R257). -/
def TRec.report (r : TRec) : DWord64 :=
  BitVec.ofNat 64 (r.mask * 2 ^ 32 + r.site * 2 ^ 16 + r.kind * 2 ^ 13 + r.nm1 * 2 ^ 9)

/-- The lanes of a mask, ascending. -/
def maskLanes (m : Nat) : List Nat := (List.range 32).filter fun l => Nat.testBit m l

/-- Bytes a lane of a code takes. -/
def codeBytes (c : Nat) : Nat := if c = 3 then 4 else c

/-- The narrowest code that holds deltas. -/
def deltaCode (ds : List Word) : Nat :=
  if ds.all (· == 0) then 0
  else if ds.all fun d => decide (-128 ≤ d.toInt) && decide (d.toInt ≤ 127) then 1
  else if ds.all fun d => decide (-32768 ≤ d.toInt) && decide (d.toInt ≤ 32767) then 2
  else 3

/-- A value or close record from its registers' deltas, with a fixed code or the narrowest. -/
def recordBytes (kind site mask info : Nat) (regs : List (List Word)) (raw : Bool) : List Byte :=
  let cs := regs.map fun ds => if raw then 3 else deltaCode ds
  let body := (regs.zip cs).flatMap fun x => x.1.flatMap fun d => leBytes (codeBytes x.2) (d.toNat % 2 ^ (8 * codeBytes x.2))
  let pad := (16 - body.length % 16) % 16
  let codes := (cs.zip (List.range cs.length)).foldl (fun a x => a + x.1 * 4 ^ x.2) 0
  body ++ List.replicate pad 0 ++
    ({ mask := mask, site := site, kind := kind, nm1 := regs.length - 1, len := (body.length + pad) / 16, codes := codes,
       info := info } : TRec).bytes

/-- A record without a payload. -/
def bareRecord (kind site mask info : Nat) : List Byte :=
  ({ mask := mask, site := site, kind := kind, nm1 := 0, len := 0, codes := 0, info := info } : TRec).bytes

/-- The trailer that ends at a stream offset, and where its record starts. -/
def Tape.recAt (t : Tape) (e : Nat) : TRec := parseRec (leNat (t.bytes (e - 16) 16))
def Tape.recStart (t : Tape) (e : Nat) : Nat := e - 16 - 16 * (t.recAt e).len

/-- The deltas of a staged record: for each register, each lane of MASK with its delta. -/
def Tape.deltas (t : Tape) (r : TRec) (start : Nat) : List (List (Nat × Word)) :=
  ((List.range (r.nm1 + 1)).foldl (fun (a : List (List (Nat × Word)) × Nat) j =>
    let w := codeBytes (r.codes / 4 ^ j % 4)
    let ls := maskLanes r.mask
    let row := (ls.zip (List.range ls.length)).map fun x =>
      (x.1, if w = 0 then (0 : Word) else (BitVec.ofNat (8 * w) (leNat (t.bytes (a.2 + w * x.2) w))).signExtend 32)
    (a.1 ++ [row], a.2 + w * ls.length)) ([], start)).1

/-! ### The site table (R249) -/

/-- The slot bound to a site, and the lowest-numbered free one. -/
def Tape.slotOf (t : Tape) (site : Nat) : Option Nat := (List.find? (fun x => x.2.site == site) t.sites).map (·.1)
def Tape.freeSlot (t : Tape) : Option Nat := (List.range 8).find? fun i => (t.sites.find? i).isNone

/-- The slot of the least recently used site. -/
def Tape.lruSlot (t : Tape) : Nat :=
  match t.sites with
  | [] => 0
  | x :: xs => (xs.foldl (fun a y => if a.2.rank < y.2.rank then y else a) x).1

/-- A predictor. -/
def Tape.predictor (t : Tape) (slot j l : Nat) : Word := t.pred.getD (512 * slot + 32 * j + l) 0

/-- Sets a predictor. -/
def Tape.setPredictor (t : Tape) (slot j l : Nat) (x : Word) : Tape := { t with pred := t.pred.put (512 * slot + 32 * j + l) 0 x }

/-- Unbinds a slot; the sites used less recently move up. -/
def Tape.unbind (t : Tape) (slot : Nat) : Tape :=
  match t.sites.find? slot with
  | none => t
  | some x => { t with
      sites := (t.sites.erase slot).map fun y => (y.1, if x.rank < y.2.rank then { y.2 with rank := y.2.rank - 1 } else y.2)
      pred := t.pred.filter fun y => y.1 / 512 != slot }

/-- Binds a site to a slot, with predictors of zero. -/
def Tape.bind (t : Tape) (slot site n rank : Nat) : Tape :=
  { t.unbind slot with sites := (t.unbind slot).sites.insert slot ⟨site, n, rank⟩ }

/-- The close record of a slot. -/
def Tape.closeRecord (t : Tape) (slot : Nat) : List Byte :=
  match t.sites.find? slot with
  | none => []
  | some x => recordBytes recClose x.site (2 ^ 32 - 1) 0
      ((List.range x.count).map fun j => (List.range 32).map fun l => t.predictor slot j l) true

/-- A slot becomes the most recently used. -/
def Tape.touch (t : Tape) (slot : Nat) : Tape :=
  match t.sites.find? slot with
  | none => t
  | some x => { t with sites := t.sites.map fun y =>
      (y.1, if y.1 = slot then { y.2 with rank := 0 } else if y.2.rank < x.rank then { y.2 with rank := y.2.rank + 1 } else y.2) }

/-- The ranks of the bound sites. -/
def Tape.ranks (t : Tape) : List (Nat × Nat) := t.sites.map fun x => (x.2.site, x.2.rank)

/-- Gives the bound sites the ranks of a list. DEDUCED: notes/assumptions/49.md. -/
def Tape.setRanks (t : Tape) (rs : List (Nat × Nat)) : Tape :=
  { t with sites := t.sites.map fun x =>
      (x.1, { x.2 with rank := ((rs.find? fun r => r.1 == x.2.site).map (·.2)).getD x.2.rank }) }

/-- A value record of a site (R249): the tape with its new site table, and the records to append. `val` gives the register `j` of
a lane. -/
def Tape.valueRecord (t : Tape) (site n mask reg : Nat) (val : Nat → Nat → Word) : Tape × List (List Byte) :=
  let before := t.ranks
  let stale := match t.slotOf site with
    | some i => if ((t.sites.find? i).map (·.count)).getD 0 = n then none else some i
    | none => if t.freeSlot.isNone then some t.lruSlot else none
  let close := (stale.map t.closeRecord).toList
  let t := match stale with
    | some i => t.unbind i
    | none => t
  let bound := t.slotOf site
  let slot := (bound.or t.freeSlot).getD 0
  -- a newly bound site counts as older than every other until it is used
  let t := if bound.isSome then t else t.bind slot site n t.sites.length
  let ls := maskLanes mask
  let regs := (List.range n).map fun j => ls.map fun l => val j l - t.predictor slot j l
  let value := recordBytes recValue site mask ((if bound.isSome then 0 else 2 ^ 31) + reg) regs false
  let t := (List.range n).foldl (fun t j => ls.foldl (fun t l => t.setPredictor slot j l (val j l)) t) t
  ({ t.touch slot with past := before :: t.past }, close ++ [value])

/-! ### Appending (R245, R252) -/

/-- Appends bytes at the cursor. -/
def Tape.push (t : Tape) (bs : List Byte) : Tape :=
  { t with stage := writeSpadFrom t.stage t.cursor bs, cursor := t.cursor + bs.length,
           bad := poisonAfter 64 t.bad t.cursor bs.length (bs, []) }

/-- Writes out the oldest chunk: it leaves the staging buffer. -/
def Tape.dropChunk (t : Tape) : Tape :=
  let lo := t.stageLo + tapeChunk
  { t with stageLo := lo, stage := t.stage.filter fun x => decide (lo ≤ x.1), bad := t.bad.filter fun g => decide (lo ≤ 64 * g) }

/-- The chunks that an overfull buffer writes out: their stream offsets. DEDUCED: notes/assumptions/49.md. -/
def Tape.overfull (t : Tape) : List Nat :=
  (List.range ((t.cursor - t.stageLo - tapeArea + tapeChunk - 1) / tapeChunk)).map fun i => t.stageLo + tapeChunk * i

/-! ### Popping (R250, R251) -/

/-- The stream offset down to which a pop needs the staging buffer: the top record, the close records below it, and the trailer
below those; `fuel` bounds the records. -/
def Tape.needs (t : Tape) : Nat → Nat → Bool → Nat
  | 0, e, _ => e
  | fuel + 1, e, first =>
    if e = 0 then 0
    else if e - 16 < t.stageLo then e - 16
    else if !first && (t.recAt e).kind != recClose then e - 16
    else if t.recStart e < t.stageLo then t.recStart e
    else t.needs fuel (t.recStart e) false

/-- Consumes the close records at the top (R250). -/
def Tape.consume (t : Tape) : Nat → Tape
  | 0 => t
  | fuel + 1 =>
    let r := t.recAt t.cursor
    if t.cursor = 0 ∨ r.kind ≠ recClose then t
    else
      let start := t.recStart t.cursor
      let u : Tape := match t.freeSlot with
        | none => t
        | some i => ((t.deltas r start).zip (List.range 16)).foldl (fun (t : Tape) x =>
            x.1.foldl (fun (t : Tape) y => t.setPredictor i x.2 y.1 y.2) t) (t.bind i r.site (r.nm1 + 1) t.sites.length)
      Tape.consume { u with cursor := start } fuel

/-- Moves the cursor below the top record, whose effect on the site table has been undone. -/
def Tape.below (t : Tape) : Tape := ({ t with cursor := t.recStart t.cursor, count := t.count - 1 }).consume 8

/-- Pops a value record: the values that its lanes' registers get, and the tape. -/
def Tape.popValue (t : Tape) : List (Nat × Nat × Word) × Tape :=
  let r := t.recAt t.cursor
  let ds := (t.deltas r (t.recStart t.cursor)).zip (List.range 16)
  match t.slotOf r.site with
  | none => (ds.flatMap fun x => x.1.map fun y => (x.2, y.1, (0 : Word)), t.below)
  | some i =>
    let ws := ds.flatMap fun x => x.1.map fun y => (x.2, y.1, t.predictor i x.2 y.1)
    let u := ds.foldl (fun t x => x.1.foldl (fun t y => t.setPredictor i x.2 y.1 (t.predictor i x.2 y.1 - y.2)) t) t
    let u := (if Nat.testBit r.info 31 then u.unbind i else u).below
    (ws, { u.setRanks (u.past.headD []) with past := u.past.tail })

/-! ### Traffic (R253, R254) -/

/-- What tape traffic meets before it performs. -/
inductive Traffic where
  | go
  /-- The band parks; the word issues again. -/
  | parked (s : State)
  /-- A refusal without replay, or an abort, at a virtual address. -/
  | refused (va : Nat)

/-- Spans as ranges of virtual addresses, for the range locks (R137). -/
def tapeRanges (k : Kind) (spans : List (Nat × Nat)) : List RangeReq := spans.map fun x => ⟨none, x.1, x.1 + x.2, k.writes⟩

/-- The tape of a lane's band. -/
def State.tape (s : State) (m : Lane) : Tape := (s.bnd m).tape

/-- Changes the tape of a band. -/
def State.updTape (s : State) (c b : Nat) (f : Tape → Tape) : State := s.updBand c b fun x => { x with tape := f x.tape }

/-- A tape instruction has begun: it completes before a save (R254). -/
def State.begin (s : State) (m : Lane) : State := s.updBand s.sh.clump m.band fun b => { b with begun := true }

/-- Checks spans that tape traffic reads or writes, the word waiting at issue while the ranges are locked against it (R139).
DEDUCED: notes/assumptions/49.md. -/
def State.traffic (s : State) (m : Lane) (k : Kind) (spans : List (Nat × Nat)) (rs : List RangeReq) : Traffic :=
  let gone := (s.str m).aborted.find? fun g => spans.any fun x => decide (x.1 ≤ g) && decide (g < x.1 + x.2)
  match gone with
  | some va => .refused va
  | none =>
    if s.lockWait s.coreOf s.ctxNo rs then .parked (s.holdAll .engineIssue)
    else
      match ((spans.flatMap fun x => spanPieces x.1 x.2).map fun p => s.engCheck1 s.ctxNo k p).find? (· != .ok) with
      | some (.pause va level pte base size) => .parked ((s.parkEngine m va level pte base size k.code (k.code + 8)).begin m)
      | some (.pull va) => .parked ((s.holdAll (.migrating va)).begin m)
      | some (.fault va _) => .refused va
      | _ => .go

/-- Tape traffic is refused. -/
def State.tapeFails (s : State) (m : Lane) (va : Nat) : State := s.clearAborted.failTape s.sh.clump m.band va

/-- The operation of tape traffic: it follows what the band's engines have done (R253), and performs at once. -/
def State.tapeTraffic (s : State) (ctx clump band lo : Nat) (spill : Bool) : Op :=
  let c := s.clump clump
  { id := 0, ctx := ctx, clump := clump, band := band, die := c.die, core := c.core, kind := .tape lo spill, scope := 6,
    floor := Nat.max (s.cts c.coreNo) (c.band band).etime + 1 }

/-- Writes spans of stream or table bytes. -/
def State.tapeWrite (s : State) (o : Op) (xs : List (Nat × Data)) : State :=
  xs.foldl (fun s x => (s.engWrite o x.1 x.2 false).2) s

/-- Traffic in flight, with its range locked. -/
def State.tapeAccept (s : State) (m : Lane) (t : Tape) (lo : Nat) (spill : Bool) : State :=
  let i := s.fresh
  i.2.accept { i.2.tapeTraffic s.ctxNo s.sh.clump m.band lo spill with id := i.1 } [⟨none, t.addr lo, t.addr lo + tapeChunk, spill⟩]

/-- Appends records and writes out the chunks that overfill the buffer; the band parks while spilled ones land. -/
def State.appendTo (s : State) (m : Lane) (t : Tape) (recs : List (List Byte)) (counted : Nat) : State :=
  let t := recs.foldl Tape.push t
  let t := { t with count := t.count + counted }
  let out := t.overfull
  let plain := (out.filter fun o => decide (o < t.p)).map fun o => (t.addr o, t.data o tapeChunk)
  let spilled := out.filter fun o => !decide (o < t.p)
  let spans := out.map fun o => (t.addr o, tapeChunk)
  match s.traffic m .engWrite spans (tapeRanges .engWrite spans) with
  | .parked s => s
  | .refused va => s.tapeFails m va
  | .go =>
    let s := s.clearAborted.tapeWrite (s.tapeTraffic s.ctxNo s.sh.clump m.band 0 false) plain
    -- a spilled chunk stays staged until it has landed
    let u := if spilled = [] then out.foldl (fun t _ => t.dropChunk) t
      else { plain.foldl (fun t _ => t.dropChunk) t with spill := t.spill ++ spilled }
    let s := s.updTape s.sh.clump m.band fun _ => u
    if spilled = [] then s
    else
      let s := spilled.foldl (fun s o => s.tapeAccept m u o true) s
      s.sh.lanes.foldl (fun s x => s.parkAt x .tapeSpill) s

/-- An append of records under the overflow policy (R252): `site` and `mask` are the record's. -/
def State.append (s : State) (m : Lane) (site mask : Nat) (x : Tape × List (List Byte)) : State :=
  let t := s.tape m
  let z := (x.2.map List.length).sum
  if t.cursor + z ≤ t.cap - 16 then s.appendTo m x.1 x.2 1
  else if t.pol = 2 then s.appendTo m { t with mode := 3 } [bareRecord recOver site mask 0] 1
  else s.bandTrap .tapeOverflow t.cursor

/-! ### The instructions' parts -/

/-- %live of a lane's band, and the mask that a predicate gives (R256). -/
def State.tapeLive (s : State) (m : Lane) : Nat := (s.bnd m).liveMask.toNat
def State.tapeMask (s : State) (m : Lane) (p : Nat) : Nat :=
  laneBits ((s.bnd m).live.filter fun l => ((s.bnd m).strand l).pred p)
where
  laneBits (ls : List Nat) : Nat := ls.foldl (fun a l => a + 2 ^ l) 0

/-- Runs a tape word for its band: DIV is cleared (R246), and a word not allowed in the tape's mode is misuse (R258). -/
def State.tapeOp (s : State) (modes : List Nat) (f : Lane → Tape → State → State) : State :=
  s.engine fun m s =>
    let s := s.updBand s.sh.clump m.band fun b => { b with begun := false, tape := { b.tape with div := false } }
    if modes.contains (s.tape m).mode then f m (s.tape m) s else s.bandTrap .tapeMisuse

/-- A record word in stopped mode is counted as dropped. -/
def State.dropRecord (s : State) (m : Lane) : State :=
  s.updTape s.sh.clump m.band fun t => { t with dropped := Nat.min (t.dropped + 1) (2 ^ 32 - 1) }

/-- A pop that does not match (R251). -/
def State.diverge (s : State) (m : Lane) (want got : DWord64) (addr : Nat) : State :=
  (s.updTape s.sh.clump m.band fun t => { t with div := true, expected := want, top := got }).bandTrap .tapeDivergence
    (addr % 2 ^ 56)

/-- What of an expectation or record a pop compares: the register count only of a value record (R251). -/
def TRec.compared (r : TRec) (kind : Nat) : DWord64 := (if kind = recValue then r else { r with nm1 := 0 }).report

/-- A pop (R251): the record at the top must be staged and match before `f` acts on it. -/
def State.pop (s : State) (m : Lane) (t : Tape) (kind site mask n1 : Nat) (f : State → State) : State :=
  let want : TRec := { mask := mask, site := site, kind := kind, nm1 := n1, len := 0, codes := 0, info := 0 }
  let none_ : TRec := { mask := 0, site := 0, kind := 7, nm1 := 0, len := 0, codes := 0, info := 0 }
  if t.cursor = 0 then s.diverge m want.report none_.report (t.addr 0)
  else if t.needs 10 t.cursor true < t.stageLo then
    let lo := (t.stageLo - 1) / tapeChunk * tapeChunk
    match s.traffic m .engRead [(t.addr lo, tapeChunk)] (tapeRanges .engRead [(t.addr lo, tapeChunk)]) with
    | .parked s => s
    | .refused va => s.tapeFails m va
    | .go => ((s.clearAborted.tapeAccept m t lo false).begin m).holdAll (.tapeRead lo)
  else
    let r := t.recAt t.cursor
    if r.kind = recOver then s.bandTrap .tapeOverflow t.cursor
    else if r.compared kind ≠ want.compared kind then s.diverge m want.report r.report (t.addr (t.cursor - 16))
    else f s

/-! ### The instructions -/

/-- A descriptor that R258 refuses. -/
def Tape.badDesc (t : Tape) : Bool :=
  let pol := t.w 7 % 4
  decide (t.w 7 / 4 ≠ 0) || pol == 3 || decide (t.base % 4096 ≠ 0) || decide (t.length % 4096 ≠ 0) ||
    decide (t.length < 32768) || decide (t.sbase % 4096 ≠ 0) || (pol != 0 && (t.sbase != 0 || t.slen != 0))

/-- What the pages of a spill area are, from an address on for `n` bytes. -/
inductive SpillX where
  | good | bad
  | park (va level pte base size : Nat)
  | pull (va : Nat)
  deriving DecidableEq, Repr

/-- Translates the pages of a spill area, `fuel` at most. -/
def State.spillArea (s : State) : Nat → Nat → Nat → SpillX
  | 0, _, n => if n = 0 then .good else .bad
  | fuel + 1, va, n =>
    if n = 0 then .good
    else
      match s.translate s.ctxNo va 1 .engWrite false with
      | .bad _ => .bad
      | .migrating => .pull va
      | .absent level pte base size => .park va level pte base size
      | .ok pa _ base size _ =>
        if s.ctl.place pa = .second then
          let k := Nat.min n (base + size - va)
          s.spillArea fuel (va + k) (n - k)
        else .bad

/-- R256: opens a tape in record mode; an abort by the host of a translation that it waits for is misuse (R258). DEDUCED: notes/assumptions/49.md. -/
def execTopen (a : BitVec 7) (s : State) : Out :=
  .next (s.tapeOp [0] fun m t s =>
    let lane0 := (s.bnd m).strand 0
    let u : Tape := { t with desc := (List.range 8).map fun i => lane0.reg (a.toNat + i) }
    let u := { u with pol := u.w 7 % 4, mode := 1 }
    let misuse (s : State) : State := s.clearAborted.bandTrap .tapeMisuse
    let clash : Bool := (s.bandsOn s.coreOf s.ctxNo).any fun b => b.tape.ranges.any fun r => overlaps r.1 r.2 u.base (u.base + u.length)
    if u.badDesc || clash then misuse s
    else
      match if (s.str m).aborted ≠ [] then .bad else s.spillArea (u.slen + 1) u.sbase (u.slen * 2 ^ 16) with
      | .bad => misuse s
      | .park va level pte base size => s.parkEngine m va level pte base size Kind.engWrite.code (Kind.engWrite.code + 8)
      | .pull va => s.holdAll (.migrating va)
      | .good => s.clearAborted.updTape s.sh.clump m.band fun _ =>
          { u with count := 0, cursor := 0, dropped := 0, sites := [], pred := [], stage := [], stageLo := 0, spill := [],
                   past := [], bad := [] })

/-- The predictors of the bound slots, in the site table area (R243). -/
def Tape.predWrites (t : Tape) : List (Nat × Data) :=
  t.sites.flatMap fun x => (List.range x.2.count).map fun j =>
    (t.base + 2048 * x.1 + 128 * j, ((List.range 32).flatMap fun l => leBytes 4 (t.predictor x.1 j l).toNat, []))

/-- What a closing tape writes out (R253): the staging buffer, and the predictors of the bound slots.
DEDUCED: notes/assumptions/49.md. -/
def Tape.closing (t : Tape) : List (Nat × Data) :=
  let n := t.cursor - t.stageLo
  let stream := (List.range ((n + tapeChunk - 1) / tapeChunk)).map fun i =>
    let o := t.stageLo + tapeChunk * i
    (t.addr o, t.data o (Nat.min tapeChunk (t.cursor - o)))
  stream ++ t.predWrites

/-- The ranges that a closing tape writes: the site table area, and its part of the stream on either side of the spill boundary. -/
def Tape.closeRanges (t : Tape) : List RangeReq :=
  let span (lo hi : Nat) : List RangeReq := if lo < hi then [⟨none, t.addr lo, t.addr lo + (hi - lo), true⟩] else []
  ⟨none, t.base, t.base + tapeArea, true⟩ :: (span t.stageLo (Nat.min t.cursor t.p) ++ span (Nat.max t.stageLo t.p) t.cursor)

/-- R253, R256: writes the tape out and closes it, at its scope; D gets the stream bytes used. -/
def execTclose (d : BitVec 7) (s : State) : Out :=
  .next (s.tapeOp [1, 2, 3] fun m t s =>
    match s.traffic m .engWrite (t.closing.map fun x => (x.1, x.2.1.length)) t.closeRanges with
    | .parked s => s
    | .refused va => s.tapeFails m va
    | .go =>
      let o := s.tapeTraffic s.ctxNo s.sh.clump m.band 0 false
      let s := s.clearAborted.tapeWrite { o with scope := s.sh.ext.scope } t.closing
      (s.updTape s.sh.clump m.band fun t => { t with mode := 0 }).engResult m
        [.k d.toNat (BitVec.ofNat 32 (Nat.min t.cursor (2 ^ 32 - 1)))])

/-- The site that k[A] names. -/
def State.siteOf (s : State) (m : Lane) (a : BitVec 7) : Nat := ((s.bnd m).ureg a.toNat).toNat % 2 ^ 16

/-- R256: records the registers from D of the strands that a predicate names. -/
def execTrec (d a : BitVec 7) (n1 : BitVec 4) (p : BitVec 3) (s : State) : Out :=
  .next (s.tapeOp [1, 3] fun m t s =>
    if t.mode = 3 then s.dropRecord m
    else
      let mask := s.tapeMask m p.toNat
      let val (j l : Nat) : Word := ((s.bnd m).strand l).reg (d.toNat + j)
      s.append m (s.siteOf m a) mask (t.valueRecord (s.siteOf m a) (n1.toNat + 1) mask d.toNat val))

/-- R256: records a predicate of the live lanes, or in replay pops it. -/
def execTbr (a : BitVec 7) (p : BitVec 3) (s : State) : Out :=
  .next (s.tapeOp [1, 2, 3] fun m t s =>
    let live := s.tapeLive m
    if t.mode = 3 then s.dropRecord m
    else if t.mode = 1 then
      s.append m (s.siteOf m a) live (t, [bareRecord recBranch (s.siteOf m a) live (s.tapeMask m p.toNat)])
    else s.pop m t recBranch (s.siteOf m a) live 0 fun s =>
      let info := (t.recAt t.cursor).info
      (s.updTape s.sh.clump m.band Tape.below).engResult m
        ((s.bnd m).live.map fun l => .lane l (.p p.toNat (Nat.testBit info l))))

/-- R256: turns the tape. -/
def execTrev (s : State) : Out :=
  .next (s.tapeOp [1, 2, 3] fun m _ s => s.updTape s.sh.clump m.band fun t => { t with mode := if t.mode = 2 then 1 else 2 })

/-- R250, R256: pops a value record into the registers from D. -/
def execTpop (d a : BitVec 7) (n1 : BitVec 4) (p : BitVec 3) (s : State) : Out :=
  .next (s.tapeOp [2] fun m t s =>
    s.pop m t recValue (s.siteOf m a) (s.tapeMask m p.toNat) n1.toNat fun s =>
      let x := t.popValue
      let start := t.recStart t.cursor
      let spoilt := t.bad.any fun g => decide (64 * g < t.cursor) && decide (start < 64 * g + 64)
      let s := s.updTape s.sh.clump m.band fun _ => x.2
      let s := if spoilt then s.updBand s.sh.clump m.band fun b =>
          { b with regPoison := (List.range (n1.toNat + 1)).foldl (fun g j => addOnce g ((d.toNat + j) / 8)) b.regPoison }
        else s
      s.engResult m (x.1.map fun y => .lane y.2.1 (.v (d.toNat + y.1) y.2.2)))

/-- R256: records a uniform value, or in replay pops it. -/
def execTmark (a b : BitVec 7) (s : State) : Out :=
  .next (s.tapeOp [1, 2, 3] fun m t s =>
    let live := s.tapeLive m
    if t.mode = 3 then s.dropRecord m
    else if t.mode = 1 then
      s.append m (s.siteOf m a) live (t, [bareRecord recMark (s.siteOf m a) live ((s.bnd m).ureg b.toNat).toNat])
    else s.pop m t recMark (s.siteOf m a) live 0 fun s =>
      (s.updTape s.sh.clump m.band Tape.below).engResult m [.k b.toNat (BitVec.ofNat 32 (t.recAt t.cursor).info)])

/-- What `tstat` reports (R257). -/
def Tape.stat (t : Tape) (sel : Nat) : DWord64 :=
  match sel with
  | 0 => BitVec.ofNat 64 t.cursor
  | 1 => t.expected
  | 2 => t.top
  | 3 => BitVec.ofNat 64 t.dropped
  | _ => BitVec.ofNat 64 t.cap

/-- R257: a report for every strand. -/
def execTstat (d : BitVec 7) (sel : BitVec 3) (s : State) : Out :=
  .next (s.tapeOp [0, 1, 2, 3] fun m t s =>
    s.engResult m ((s.bnd m).live.flatMap fun l => (writePair d.toNat (t.stat sel.toNat)).map fun w => .lane l w))

/-! ### Events -/

/-- The tape traffic of a band in flight, oldest first. -/
def State.tapeOpOf (s : State) (c b : Nat) (spill : Bool) : Option (Op × Nat) :=
  s.ops.findSome? fun o => match o.kind with
    | .tape lo sp => if o.clump = c ∧ o.band = b ∧ sp = spill ∧ o.paused.isNone then some (o, lo) else none
    | _ => none

/-- Reads the chunk at a tape's position back. -/
def State.readChunk (s : State) (o : Op) (lo clump band : Nat) : State :=
  let a := (s.band clump band).tape.addr lo
  match s.engPause o.ctx [(.engRead, a, tapeChunk)] with
  | some x => s.pauseOp o x false
  | none =>
    match s.engRead o a tapeChunk with
    | (.error va, s) => s.failTape clump band va
    | (.ok d, s) =>
      let s := (s.endOp o 0).updTape clump band fun t =>
        { t with stage := writeSpadFrom t.stage lo d.1, stageLo := lo, bad := poisonAfter 64 t.bad lo tapeChunk d }
      s.wakeBand clump band fun k => k == .tapeRead lo

/-- R245: the chunk that a pop waits for is read back as it stands in memory, and the pop issues again. -/
def execTapeChunkReadback (clump band : Nat) (s : State) : Out :=
  .next (match s.tapeOpOf clump band false with
    | none => s
    | some (o, lo) => s.opMoves o fun s => s.readChunk o lo clump band)

/-- Writes the chunk at a tape's position out. -/
def State.landSpill (s : State) (o : Op) (lo clump band : Nat) : State :=
  let t := (s.band clump band).tape
  match s.engPause o.ctx [(.engWrite, t.addr lo, tapeChunk)] with
  | some x => s.pauseOp o x true
  | none =>
    match s.engWrite o (t.addr lo) (t.data lo tapeChunk) false with
    | (.error va, s) => s.failTape clump band va
    | (.ok _, s) =>
      let rest := t.spill.filter (· != lo)
      let s := (s.endOp o 0).updTape clump band fun t => { t.dropChunk with spill := rest }
      if rest = [] then s.wakeBand clump band fun k => k == .tapeSpill else s

/-- R252: a spilled chunk lands in second-tier memory; when none is left, the band goes on. -/
def execTapeSpillLand (clump band : Nat) (s : State) : Out :=
  .next (match s.tapeOpOf clump band true with
    | none => s
    | some (o, lo) => s.opMoves o fun s => s.landSpill o lo clump band)

end Sys2Proof.Machine
end

