-- ==== Sys2Proof/Machine/Restore.lean ====
section
/-!
DEFINITION. Restoring a clump from its record (R161, R324 to R327). What no record holds stays as the state has it: which registers a
slot map names, the aligned form of a slot, the predictors of a tape, whose table is in memory, the operations that handles name and a
command's scope (DEDUCED, notes/assumptions/47.md).
-/

namespace Sys2Proof.Machine

/-! ### Reading a record -/

/-- A 32-bit word of a record, as it lies in memory. -/
def State.recWord (s : State) (a : Nat) : Word := BitVec.ofNat 32 (s.latestNat a 4)

/-- A 64-bit word of a record. -/
def State.recPair (s : State) (a : Nat) : DWord64 := BitVec.ofNat 64 (s.latestNat a 8)

/-- Words of a record from an address on, as a map that lists none that is `zero`. -/
def State.recMap (s : State) (a n : Nat) (zero : Nat → Word) : SMap Word :=
  (List.range n).filterMap fun i => let x := s.recWord (a + 4 * i); if x = zero i then none else some (i, x)

/-! ### Where the parts of a record lie (R324) -/

/-- A multiple of 256 bytes. -/
def up256 (n : Nat) : Nat := (n + 255) / 256 * 256

/-- The offsets of an accumulator, a drain store, a slot, the reservation space, the scratchpad and the first band. -/
def recAcc (i : Nat) : Nat := 0x800 + i * 0x8100
def recStore (k : Kernel) (i : Nat) : Nat := recAcc k.acc + i * 0x800
def recSlot (k : Kernel) (i : Nat) : Nat := recStore k k.acc + i * 0x20100
def recResv (k : Kernel) : Nat := recSlot k k.slots
def recSpad (k : Kernel) : Nat := recResv k + up256 k.resv
def recBands (k : Kernel) : Nat := recSpad k + up256 k.spad

/-- The bytes of a band record (R161). -/
def bandBytes (regs : Nat) (full : Bool) : Nat := 0x0C80 + (if full then 128 * regs else 0)

/-- The bytes of a band extension (R325). -/
def extBytes : Nat := 0x4C00

/-- The numbers of a clump's bands in slot order (DEDUCED, notes/assumptions/45.md). -/
def Clump.bySlot (c : Clump) : List Nat :=
  (List.range 64).flatMap fun n => (List.range c.bands.length).filter fun b => 4 * (c.band b).slot + (c.band b).quad == n

/-! ### Strands and bands (R161, R325) -/

/-- A strand from the record of its band at `a` and the extension at `e`: it starts at its rollback point. Its vector registers come from
VREG in the gap, and otherwise from its live-in slots, which form the head snapshot; v127 comes from LINK (R157, R161). A strand that has
ended outside the gap is restored so too, though no rollback point of its own is left: what its registers then hold the spec does not say
(DESIGN CHOICE, notes/assumptions/104.md). -/
def State.restoreStrand (s : State) (a e regs : Nat) (l : Nat) (t : Strand) : Strand :=
  let full := Nat.testBit (s.latestNat (a + 4) 4) 8
  let gap := Nat.testBit (s.latestNat (a + 8) 4) l
  let state := s.latestNat (e + 8 * l) 8
  let rpc := s.recWord (a + 0x10 + 4 * l)
  let link : SMap Word := SMap.put [] 127 0 (s.recWord (a + 0x200 + 4 * l))
  let fast := ((List.range t.fast.length).zip t.fast).map fun x => (x.2.1, s.recWord (a + 0x480 + 64 * l + 4 * x.1))
  let ctr := s.recWord (a + 0x130 + 4 * l)
  { t with
    life := if Nat.testBit (s.latestNat a 4) l then .live
            else if state / 2 % 8 = 2 then .restart
            else if t.life = .absent then .absent else .exited
    pc := rpc
    v := if gap && full then (List.range regs).foldl (fun m r => m.put r 0 (s.recWord (a + 0x0C80 + 128 * r + 4 * l))) link
         else fast.foldl (fun m x => m.put x.1 0 x.2) link
    p := BitVec.ofNat 8 (s.latestNat (a + 0x110 + l) 1) ||| 1
    ridx := s.latestNat (a + 0x90 + 4 * l) 4 % 2 ^ 22
    gap := gap
    head := if gap then t.head else rpc
    fast := if gap then [] else fast
    super := if gap then [] else fast.map fun _ => false
    headCtr := ctr
    ctr := ctr
    park := if state / 2 % 8 = 1 then
        some ⟨.barrier (state / 2 ^ 8 % 64) (state / 2 ^ 32), (t.park.map (·.word)).getD rpc, some rpc⟩
      else t.park.map fun p => { p with next := p.next.map fun _ => rpc }
    h := Nat.testBit state 0
    epc := s.recWord (e + 0x100 + 4 * l)
    tinfo := s.recPair (e + 0x180 + 8 * l)
    arrived := s.recPair (e + 0x280 + 8 * l)
    detail := s.recPair (e + 0x4B00 + 8 * l) }

/-- The poisoned granules of a band's registers: those whose saved values are poisoned (R317, R324). -/
def State.restorePoison (s : State) (a regs : Nat) (b : Band) : List Nat :=
  let full := Nat.testBit (s.latestNat (a + 4) 4) 8
  let rows := if full then (List.range regs).filter fun r => s.poisoned (a + 0x0C80 + 128 * r) 128 else []
  let heads := b.strands.flatMap fun (x : Nat × Strand) =>
    if !x.2.gap && s.poisoned (a + 0x480 + 64 * x.1) 64 then x.2.fast.map (·.1) else []
  let link := if s.poisoned (a + 0x200) 128 then [127] else []
  ((rows ++ heads ++ link).map (· / 8)).dedup

/-- A tape from its 128 bytes at `a` and its staging buffer at `st`. -/
def State.restoreTape (s : State) (a st : Nat) (t : Tape) : Tape :=
  let w := s.latestNat a 4
  let u : Tape := { t with
    mode := w / 2 ^ 30
    pol := if w / 2 ^ 30 = 0 then t.pol else w / 2 ^ 28 % 4
    div := Nat.testBit w 27
    -- the record holds the count modulo 2^24
    count := t.count - t.count % 2 ^ 24 + w % 2 ^ 24
    desc := (List.range 8).map fun i => s.recWord (a + 4 + 4 * i)
    cursor := s.latestNat (a + 36) 8
    dropped := s.latestNat (a + 44) 4
    sites := (List.range 8).filterMap fun i =>
      let x := s.latestNat (a + 48 + 4 * i) 4
      if Nat.testBit x 24 then some (i, ⟨x % 2 ^ 16, x / 2 ^ 16 % 16 + 1, x / 2 ^ 20 % 16⟩) else none
    expected := s.recPair (a + 80)
    top := s.recPair (a + 88) }
  let n := Nat.min tapeArea (u.cursor - u.stageLo)
  { u with stage := writeSpadFrom [] u.stageLo (s.latestBytes st n)
           bad := ((List.range ((n + 63) / 64)).filter fun i => s.poisoned (st + 64 * i) 64).map (· + u.stageLo / 64) }

/-- An unreleased command from its 48 bytes. -/
def State.restoreUnreleased (s : State) (a : Nat) (old : Option Unreleased) : Unreleased :=
  let code := s.latestNat (a + 32) 4
  let copy := code % 2 ^ 5 == 2
  { op := if copy then 0x22 else 0x30
    fn := code / 2 ^ 5 % 8
    desc := if copy then (List.range 8).map fun i => s.recWord (a + 4 * i)
            else s.recWord a :: (old.map fun u => u.desc.drop 1).getD []
    handle := s.latestNat (a + 36) 4
    compl := s.latestNat (a + 40) 8
    scope := (old.map (·.scope)).getD 4
    floor := (old.map (·.floor)).getD 0 }

/-- A band from its record at `a`. -/
def State.restoreBand (s : State) (a regs : Nat) (b : Band) : Band :=
  let e := a + bandBytes regs (Nat.testBit (s.latestNat (a + 4) 4) 8)
  let b : Band := { b with
    strands := b.strands.map fun x => (x.1, s.restoreStrand a e regs x.1 x.2)
    k := s.recMap (a + 0x380) 64 fun _ => 0
    ptab := (List.range 256).filterMap fun i =>
      let x := BitVec.ofNat 6 (s.latestNat (a + 0x280 + i) 1)
      if x = BitVec.ofNat 6 (i % 32) then none else some (i, x)
    tape := s.restoreTape (e + 0x380) (e + 0x0B00) b.tape
    unrel := (List.range (Nat.min Config.maxUnreleased (s.latestNat (e + 0x400) 4))).map fun i =>
      s.restoreUnreleased (e + 0x410 + 48 * i) b.unrel[i]?
    restart := b.restart.map fun _ => (s.recWord (e + 0x0A80), s.latestNat (e + 0x0A84) 4 % 2 ^ 8) }
  { b with regPoison := s.restorePoison a regs b }

/-- Bands from their records, one after another. -/
def State.restoreBands (s : State) (regs : Nat) : Nat → List Nat → Clump → Clump
  | _, [], c => c
  | a, b :: bs, c =>
    let n := up256 (bandBytes regs (Nat.testBit (s.latestNat (a + 4) 4) 8) + extBytes)
    s.restoreBands regs (a + n) bs (c.updBand b (s.restoreBand a regs))

/-! ### The clump (R324, R326) -/

/-- A barrier from its 16 bytes. -/
def State.restoreBar (s : State) (a : Nat) : Barrier :=
  { phase := s.recWord a, count := s.latestNat (a + 4) 4, arrivals := s.latestNat (a + 8) 4
    thicket := Nat.testBit (s.latestNat (a + 12) 4) 0 }

/-- A tile record from its 16 bytes; `resv` is where the reservation space lies. -/
def State.restoreTile (s : State) (a resv : Nat) : Tile :=
  let w := s.latestNat (a + 8) 8
  let t : Tile := { desc := s.latestNat a 8, off := w / 2 ^ 8 % 2 ^ 12, flags := BitVec.ofNat 32 (w / 2 ^ 20) }
  let st := if w % 4 = 1 then (if t.rows = 0 then 1 else 2) else if w % 4 = 2 then 3 else 0
  let own := if 2 ≤ st then t.units else 0
  { t with st := st, own := own, poison := st == 3 && own != 0 && s.poisoned (resv + 256 * t.off) (256 * own) }

/-- An accumulator; `opened` says whether its chain is open. -/
def State.restoreAcc (s : State) (a : Nat) (opened : Bool) (x : Acc) : Acc :=
  { vals := s.recMap a 8192 fun _ => 0
    rowFlags := s.recWord (a + 0x8000)
    colFlags := BitVec.ofNat 256 (s.latestNat (a + 0x8004) 32)
    poison := s.poisoned a 0x8040
    chain := if opened then some (x.chain.getD 0) else none }

/-- A drain store. -/
def State.restoreStore (s : State) (a : Nat) : DrainStore :=
  { table := s.recMap a 256 identityWord, bias := s.recMap (a + 0x400) 256 fun _ => 0, poison := s.poisoned a 0x800 }

/-- The sequencer's progress (R326). -/
def State.restoreProg (s : State) (a : Nat) (c : Clump) : Option (Mgemm × Nat × Nat × Nat) :=
  if s.latestNat (a + 0x18) 4 = 0 then none
  else
    let p := a + 0x780
    let w := s.latestNat (p + 0x4C) 4
    -- the slot names the band within its quadrant
    let bs := (List.range c.bands.length).filter fun b => (c.band b).slot == w % 2 ^ 8
    let old := c.prog.map fun x => (x.2.2.1, x.2.2.2)
    let band := ((old.map (·.1)).filter bs.contains).getD (bs.headD 0)
    some ({ desc := (List.range 16).map fun i => s.recWord (p + 4 * i), m := s.latestNat (p + 0x40) 4, c := s.latestNat (p + 0x44) 4
            afterLoad := Nat.testBit w 8 },
          s.latestNat (p + 0x48) 4, band, (old.map (·.2)).getD 4)

/-- A clump from the record at `a` (R327). One that was only swapped out keeps its barriers (R318). DEDUCED: notes/assumptions/47.md. -/
def State.restored (s : State) (a : Nat) (c : Clump) : Clump :=
  let k := c.kernel
  let opened := s.latestNat (a + 0x14) 4
  let c := { c with
    drained := Nat.testBit (s.latestNat (a + 8) 4) 26
    bars := if c.place = .swapped then c.bars
      else (List.range 64).foldl (fun m i => m.put i {} (s.restoreBar (a + 0x100 + 16 * i))) []
    tiles := (List.range 8).foldl (fun m i => m.put i {} (s.restoreTile (a + 0x500 + 16 * i) (a + recResv k))) []
    gens := (List.range 8).foldl (fun m i => m.put i {} (genOf (s.latestBytes (a + 0x580 + 64 * i) 64))) []
    accs := (List.range k.acc).foldl (fun m i => m.put i {} (s.restoreAcc (a + recAcc i) (Nat.testBit opened i) (c.acc i))) []
    stores := (List.range k.acc).foldl (fun m i => m.put i {} (s.restoreStore (a + recStore k i))) []
    mslots := c.mslots.map fun x =>
      (x.1, { x.2 with colFlags := BitVec.ofNat 256 (s.latestNat (a + recSlot k x.1 + 2 ^ 17) 32)
                       poison := s.poisoned (a + recSlot k x.1) (2 ^ 17 + 32) })
    resv := writeSpadFrom [] 0 (s.latestBytes (a + recResv k) k.resv)
    spad := writeSpadFrom [] 0 (s.latestBytes (a + recSpad k) k.spad)
    spadPoison := (List.range ((k.spad + 127) / 128)).filter fun l => s.poisoned (a + recSpad k + 128 * l) 128
    prog := s.restoreProg a c }
  s.restoreBands k.regs (a + recBands k) c.bySlot c

/-- A clump's record lies, in part at least, in lost memory (R69, R358). -/
def State.recordLost (s : State) (c : Nat) : Bool :=
  match (s.clump c).record with
  | some (a, n) => (List.range (n / 2 ^ 16 + 2)).any fun i => s.isLost (Nat.min (a + 2 ^ 16 * i) (a + n - 1))
  | none => false

/-- A clump that has a record is restored from it. What becomes of a clump whose record is lost the spec does not say: no access returns
its data, and the model leaves it as it is, waiting (R358; DESIGN CHOICE, notes/assumptions/106.md). -/
def State.restoreClump (s : State) (c : Nat) : State :=
  match (s.clump c).record with
  | some (a, _) => if s.recordLost c then s else s.updClump c fun _ => { s.restored a (s.clump c) with record := none }
  | none => s

end Sys2Proof.Machine
end

