-- ==== Sys2Proof/Machine/Place.lean ====
section
/-!
DEFINITION. What a core holds and what fits on it (R149, R199, R287, R306, R387), placing clumps (R131, R132, R287, R288, R295,
R300, R327), and the end of a clump (R275).
-/

namespace Sys2Proof.Machine

/-! ### What a core holds -/

/-- A band holds its granules and its slot: a strand of it is live or pending, or a write to its registers is outstanding (R151,
R275). DESIGN CHOICE: notes/assumptions/57.md. DEDUCED: notes/assumptions/74.md. -/
def Band.holds (b : Band) : Bool := b.strands.any (fun x => x.2.life == .live || x.2.life == .restart) || !b.settled

/-- Granules of a band (R149). -/
def Kernel.granules (k : Kernel) : Nat := (k.regs + 7) / 8

/-- Units of 4 KiB (R131, R199). -/
def pages4 (n : Nat) : Nat := (n + 4095) / 4096

/-- What is taken on a core: granules and slots of each quadrant, and of the core scratchpad and reservation space in units of
4 KiB, accumulators, resident slots and barriers. -/
structure Load where
  granules : List Nat := [0, 0, 0, 0]
  slots : List (List Nat) := [[], [], [], []]
  spad : Nat := 0
  resv : Nat := 0
  acc : Nat := 0
  mslots : Nat := 0
  bars : Nat := 0
  deriving DecidableEq, Repr

/-- Adds a band to a load. -/
def Load.band (l : Load) (quad slot g : Nat) : Load :=
  { l with granules := l.granules.set quad ((l.granules[quad]?).getD 0 + g)
           slots := l.slots.set quad (slot :: (l.slots[quad]?).getD []) }

/-- Adds a clump to a load. -/
def Load.clump (l : Load) (c : Clump) : Load :=
  let l := (c.bands.filter Band.holds).foldl (fun l b => l.band b.quad b.slot c.kernel.granules) l
  { l with spad := l.spad + pages4 c.kernel.spad, resv := l.resv + pages4 c.kernel.resv, acc := l.acc + c.kernel.acc
           mslots := l.mslots + c.kernel.slots, bars := l.bars + c.kernel.bar }

/-- What is taken on a core. -/
def State.coreLoad (s : State) (core : Nat) : Load :=
  ((s.clumps.filter fun x => x.2.place == .resident && x.2.coreNo == core).map (·.2)).foldl Load.clump {}

/-! ### What fits (R287) -/

/-- A quadrant can hold a band of `g` granules. -/
def Load.roomFor (l : Load) (q g : Nat) : Bool :=
  decide ((l.granules[q]?).getD 0 + g ≤ 128) && decide (((l.slots[q]?).getD []).length < 16)

/-- Deals bands to quadrants in turn, counting from `q`; each gets the lowest free slot.
DESIGN CHOICE: notes/assumptions/57.md. -/
def Load.deal (g : Nat) : Nat → Nat → Load → Option (List (Nat × Nat))
  | 0, _, _ => some []
  | n + 1, q, l =>
    match ((List.range 4).map fun i => (q + i) % 4).find? fun x => l.roomFor x g with
    | none => none
    | some x =>
      let slot := ((List.range 16).find? fun i => !((l.slots[x]?).getD []).contains i).getD 0
      (Load.deal g n ((x + 1) % 4) (l.band x slot g)).map fun r => (x, slot) :: r

/-- The quadrant with the most free granules, the lowest one among equals. DESIGN CHOICE: notes/assumptions/57.md. -/
def Load.freest (l : Load) : Nat :=
  (List.range 4).foldl (fun a q => if (l.granules[q]?).getD 0 < (l.granules[a]?).getD 0 then q else a) 0

/-- Where a clump of `n` bands of a kernel would go on a core: a quadrant and a slot for each band, if all of it fits. -/
def Load.fit (l : Load) (k : Kernel) (n : Nat) : Option (List (Nat × Nat)) :=
  if l.spad + pages4 k.spad ≤ 64 ∧ l.resv + pages4 k.resv ≤ 22 ∧ l.acc + k.acc ≤ 4 ∧ l.mslots + k.slots ≤ 2 ∧ l.bars + k.bar ≤ 64
  then Load.deal k.granules n l.freest l else none

/-- A clump of a kernel fits on a core that holds nothing (R292). -/
def Kernel.placeable (k : Kernel) (n : Nat) : Bool := ((({} : Load).fit k n)).isSome

/-- The bands that a waiting entry places on each of its cores: a kernel and their number, the leader first. -/
def State.shapes (s : State) (w : Waiting) : List (Kernel × Nat) :=
  match w.saved with
  | some c =>
    let of (c : Nat) : Kernel × Nat := ((s.clump c).kernel, ((s.clump c).bands.filter Band.holds).length)
    of c :: (if (s.clump c).thicket = 0 then [] else (((s.clump c).peer.filter fun p => (s.clumps.find? p).isSome).map of).toList)
  | none =>
    let k := (s.plantings.getD w.planting {}).kernel
    if w.records ≠ [] then [(k, 1)] else if k.thicket then [(k, k.bands), (k, k.bands)] else [(k, k.bands)]

/-- The parity of the core that a waiting entry's first clump needs: a thicket's leader is on an even core, and a follower whose leader
has ended on an odd one (R259). -/
def State.parityOf (s : State) (w : Waiting) : Option Nat :=
  match w.saved with
  | some c => if (s.clump c).thicket = 0 then none else some ((s.clump c).thicket - 1)
  | none => if w.records = [] ∧ (s.plantings.getD w.planting {}).kernel.thicket then some 0 else none

/-- A waiting entry is for a clump whose record, or whose peer's, is lost: it waits until the host discards the context.
DESIGN CHOICE: notes/assumptions/106.md. -/
def State.entryLost (s : State) (w : Waiting) : Bool :=
  w.saved.any fun c => s.recordLost c || (s.clump c).peer.any s.recordLost

/-- Where a waiting entry would go on a core, or on the pair of cores that holds it for a thicket. -/
def State.fitsAt (s : State) (w : Waiting) (die core : Nat) : Option (List (List (Nat × Nat))) :=
  let shapes := s.shapes w
  if s.entryLost w ∨ Config.dies ≤ die ∨ Config.coresPerDie ≤ core ∨ (w.die.map (· != die)).getD false ∨
      ((s.parityOf w).map (· != core % 2)).getD false then none
  else ((List.range shapes.length).zip shapes).mapM fun x => (s.coreLoad (coreNo die (core + x.1))).fit x.2.1 x.2.2

/-- A waiting entry fits on some core of the module. -/
def State.fitsSomewhere (s : State) (w : Waiting) : Bool :=
  (List.range Config.dies).any fun d => (List.range Config.coresPerDie).any fun c => (s.fitsAt w d c).isSome

/-- Clumps of a context may be placed: it has not been stopped. -/
def State.mayRun (s : State) (ctx : Nat) : Bool :=
  let x := s.ctx ctx
  x.stopping.isNone && !x.away && x.faulted.isNone

/-- The context of a waiting entry. -/
def State.ctxOf (s : State) (w : Waiting) : Nat := (s.plantings.getD w.planting {}).ctx

/-- An entry stands before another in the order of placement: a higher priority, or the same one and an earlier place. -/
def before (x y : Nat × Waiting) : Bool := decide (y.2.prio < x.2.prio) || (x.2.prio == y.2.prio && decide (x.1 < y.1))

/-- The order lets a waiting entry be placed: none that stands before it fits anywhere. -/
def State.isNext (s : State) (i : Nat) (w : Waiting) : Bool :=
  !(((List.range s.waiting.length).zip s.waiting).any fun x =>
    before x (i, w) && s.mayRun (s.ctxOf x.2) && s.fitsSomewhere x.2)

/-! ### Starting bands (R149, R288, R295) -/

/-- What k0 to k15 are set from (R288). -/
structure Preload where
  id : Nat
  no : Nat
  node : Nat
  idx : Nat
  param : Nat
  clumps : Nat
  bands : Nat
  s0 : Nat := 0
  s1 : Nat := 0
  deriving DecidableEq, Repr

/-- The uniform registers at band start. DEDUCED: notes/assumptions/51.md. -/
def Preload.regs (p : Preload) : SMap Word :=
  let ws := [p.id, p.no, p.node, p.idx, p.param % 2 ^ 32, p.param / 2 ^ 32, p.clumps, p.bands, p.s0, p.s1]
  ((List.range ws.length).zip ws).foldl (fun m x => m.put x.1 0 (BitVec.ofNat 32 x.2)) []

/-- A band that starts; for a spawned band, lane l holds record l and the lanes beyond are absent. -/
def newBand (quad slot since : Nat) (entry : Word) (k : Preload) (records : List (List Word)) : Band :=
  let lanes := if records = [] then List.range 32 else List.range records.length
  { quad := quad, slot := slot, k := k.regs
    strands := lanes.map fun l =>
      (l, { pc := entry, since := since
            v := (List.range 4).foldl (fun m i => m.put i 0 ((((records[l]?).getD [])[i]?).getD 0)) [] }) }

/-- A clump of a planting that starts on a core. -/
def State.newClump (s : State) (pn : Nat) (w : Waiting) (no die core thicket : Nat) (peer : Option Nat) (qs : List (Nat × Nat)) :
    Clump :=
  let p := s.plantings.getD pn {}
  let kid := p.kids[no / p.perChild]?
  let spawned := w.records ≠ []
  let pre : Preload :=
    { id := p.id, node := if spawned then w.node else (kid.map (·.node)).getD p.node
      no := if spawned then w.launchNo else if kid.isSome then no % p.perChild else no
      idx := if spawned then w.records.length else if kid.isSome then no / p.perChild else 0
      param := (kid.map (·.ptr)).getD p.param, clumps := p.perChild, bands := qs.length, s0 := p.s0, s1 := p.s1 }
  { ctx := p.ctx, planting := pn, no := no, node := pre.node
    origins := if spawned then w.origins else (kid.map (·.origins)).getD [(p.graph, p.node)]
    kernel := { p.kernel with bands := qs.length }, die := die, core := core, thicket := thicket, peer := peer
    bands := qs.map fun q => newBand q.1 q.2 (s.slotCount (coreNo die core) q.1) p.entry pre w.records }

/-- A clump starts on a core, whose clock follows the events that the start is ordered after (R102, R123).
DESIGN CHOICE: notes/assumptions/57.md. -/
def State.addClump (s : State) (name : Nat) (c : Clump) : State :=
  let s := s.raise c.coreNo (Nat.max s.horizon (s.ctx c.ctx).ltime)
  { s with clumps := s.clumps.insert name c }

/-! ### Bringing back a saved clump (R300, R327) -/

/-- Gives a clump's bands their new places; ages start anew. -/
def Clump.moved (c : Clump) (s : State) (die core : Nat) : List (Nat × Nat) → List Band → List Band
  | _, [] => []
  | qs, b :: bs =>
    if b.holds then
      match qs with
      | q :: qs =>
        let n := s.slotCount (Sys2Proof.Machine.coreNo die core) q.1
        { b with quad := q.1, slot := q.2, strands := b.strands.map fun x => (x.1, { x.2 with since := n, passes := 0 }) } ::
          c.moved s die core qs bs
      | [] => b :: c.moved s die core [] bs
    else b :: c.moved s die core qs bs

/-- Strands that wait for a phase which has completed go on. -/
def State.releaseTokens (s : State) (c : Nat) : State :=
  ((List.range (s.clump c).bands.length).flatMap fun b => (s.band c b).strands.map fun x => ((⟨b, x.1⟩ : Lane), x.2)).foldl
    (fun s x => match x.2.park with
      | some ⟨.barrier n t, _, _⟩ =>
        if ((s.clump c).bars.getD n {}).phase.toNat ≠ t ∧ !s.spent (s.clump c).ctx then s.unpark c x.1 else s
      | _ => s) s

/-- The saved sequencer goes on from its boundary (R232): the lines that its drains to come write are absent (R133), and its ranges are
locked (R137), or, where an entry that conflicts is held, will be before its next step. -/
def State.resumeProg (s : State) (c : Nat) : State :=
  let k := s.clump c
  match k.prog with
  | none => s
  | some (p, h, b, scope) =>
    let i := s.fresh
    let o : Op := { id := i.1, ctx := k.ctx, clump := c, band := b, die := k.die, core := k.core, kind := .mgemm p, scope := scope,
                    handle := some h, lines := p.lines k (if p.drainDue then p.m - 1 else p.m) }
    let rs := p.ranges k c
    (i.2.accept o (if s.lockWait k.coreNo k.ctx rs then [] else rs)).updClump c fun k => { k with prog := none }

/-- A saved clump comes back on a core: it is restored from its record (R327), and the core's clock passes the one that the clump left
and, for a context that was away, the context's logical time (R90, R102, R118). DEDUCED: notes/assumptions/47.md.
DEDUCED: notes/assumptions/68.md. -/
def State.bringBack (s : State) (c die core : Nat) (qs : List (Nat × Nat)) : State :=
  let k := s.clump c
  let s := s.restoreClump c
  let s := s.updClump c fun k =>
    { k with place := .resident, die := die, core := core, parkedSince := none, bands := k.moved s die core qs k.bands }
  let s := s.raise (coreNo die core) (Nat.max k.ltime (if k.place = .saved then (s.ctx k.ctx).ltime else 0))
  (s.resumeProg c).releaseTokens c

/-! ### Placing -/

/-- The entry after its first clumps have been placed. -/
def State.takeFrom (s : State) (i : Nat) (w : Waiting) (n : Nat) : State :=
  if w.saved.isSome || w.records != [] || decide ((s.plantings.getD w.planting {}).clumps ≤ w.no + n) then
    { s with waiting := s.waiting.eraseIdx i }
  else { s with waiting := s.waiting.set i { w with no := w.no + n } }

/-- Places a waiting entry on a core, or a thicket on a pair from an even core on. -/
def State.placeAt (s : State) (i : Nat) (w : Waiting) (die core : Nat) (qss : List (List (Nat × Nat))) : State :=
  let t := s.takeFrom i w qss.length
  match w.saved, qss with
  | some c, [q] => t.bringBack c die core q
  | some c, q :: r :: _ => (t.bringBack c die core q).bringBack ((s.clump c).peer.getD c) die (core + 1) r
  | none, [q] =>
    let x := t.fresh
    x.2.addClump x.1 (t.newClump w.planting w w.no die core 0 none q)
  | none, q :: r :: _ =>
    let x := t.fresh
    let y := x.2.fresh
    (y.2.addClump x.1 (t.newClump w.planting w w.no die core 1 (some y.1) q)).addClump y.1
      (t.newClump w.planting w (w.no + 1) die (core + 1) 2 (some x.1) r)
  | _, [] => s

/-- R287: the command processor places a waiting clump on a core, or a thicket on a pair. -/
def execClumpPlacement (idx die core : Nat) (s : State) : Out :=
  .next (match s.waiting[idx]? with
    | none => s
    | some w =>
      if !s.mayRun (s.ctxOf w) || !s.isNext idx w then s
      else
        match s.fitsAt w die core with
        | none => s
        | some qss => s.placeAt idx w die core qss)

/-! ### The end of a clump (R275) -/

/-- Every band of a clump has ended, nothing is outstanding to its registers, every request of its strands on the CXL.io path has performed
(R128), and no engine operation is left but the closing of a tape. -/
def State.clumpDone (s : State) (c : Nat) : Bool :=
  !((s.clump c).bands.any Band.holds) && (s.clump c).bands.all (fun b => b.strands.all fun x => x.2.host == []) &&
    !(s.ops.any fun o => o.clump == c && o.kind != .close)

/-- The first replayable fault that closing a band's open tape meets. -/
def State.closePause (s : State) (c : Nat) (b : Band) : Option EngX :=
  if b.tape.mode = 0 then none
  else s.engPause (s.clump c).ctx (b.tape.closing.map fun x => (Kind.engWrite, x.1, x.2.1.length))

/-- Closes a band's tape as `tclose` does. -/
def State.closeTape (s : State) (c b : Nat) : State :=
  let k := s.clump c
  let t := (s.band c b).tape
  if t.mode = 0 then s
  else (s.tapeWrite (s.tapeTraffic k.ctx c b 0 false) t.closing).updBand c b fun x => { x with tape := { x.tape with mode := 0 } }

/-- What the end of a clump, or a save, writes of a tape waits, as tape traffic does, for the host's answer to a replayable fault, or for a
chunk (R254, R275). -/
def State.holdClose (s : State) (c b : Nat) (x : EngX) : State :=
  match s.ops.find? fun o => o.clump == c && o.band == b && o.kind == .close with
  | some o => if o.paused.isSome || o.pulling.isSome then s else s.pauseOp o x true
  | none =>
    let i := s.fresh
    let o : Op := { i.2.tapeTraffic (s.clump c).ctx c b 0 false with id := i.1, kind := .close }
    ({ i.2 with ops := i.2.ops ++ [o] } : State).pauseOp o x true

/-- A planting of launched children or spawned bands leaves when its clumps have ended; a node's stays until the node completes,
and a bin's until its graph does. -/
def State.countEnd (s : State) (pn : Nat) : State :=
  let s := s.updPlanting pn fun p => { p with ended := p.ended + 1 }
  let p := s.plantings.getD pn {}
  if p.kids ≠ [] ∧ p.clumps ≤ p.ended then { s with plantings := s.plantings.erase pn } else s

/-- Children of a context not yet completed (R290): requests at an aggregator, and children with a clump that has not ended. -/
def State.childrenOf (s : State) (ctx : Nat) : Nat :=
  let asked := s.aggs.foldl (fun n a => if (s.graphs.getD a.graph ⟨0, 16, 0, {}, [], []⟩).ctx = ctx then n + a.reqs.length else n) 0
  (s.plantings.filter fun x => x.2.ctx == ctx && x.2.kids != []).foldl (fun n x =>
    let from_ := (s.waiting.filter fun w => w.planting == x.1 && w.saved.isNone).map (·.no)
    let here := (s.clumps.filter fun c => c.2.planting == x.1).map fun c => c.2.no / x.2.perChild
    n + ((List.range x.2.kids.length).filter fun i =>
      from_.any (fun f => decide (f < (i + 1) * x.2.perChild)) || here.contains i).length) asked

/-- Wakes the strands of a context that are parked for a reason. -/
def State.wakeCtx (s : State) (ctx : Nat) (p : ParkOn → Bool) : State :=
  (s.clumps.filter fun x => x.2.ctx == ctx).foldl (fun s x =>
    (List.range x.2.bands.length).foldl (fun s b => s.wakeBand x.1 b p) s) s

/-- R275: a clump whose bands have all ended ends: its unreleased commands are discarded, open tapes are closed, and its resources
return. -/
def execClumpEnd (clump : Nat) (s : State) : Out :=
  let c := s.clump clump
  .next (if (s.clumps.find? clump).isNone || c.place != .resident || !s.clumpDone clump then s
    else
      match (List.range c.bands.length).findSome? fun b => (s.closePause clump (c.band b)).map fun x => (b, x) with
      | some (b, x) => s.holdClose clump b x
      | none =>
        let s := (List.range c.bands.length).foldl (fun s b => s.closeTape clump b) s
        let s := { s with clumps := s.clumps.erase clump, ops := s.ops.filter fun o => o.clump != clump }
        let s := s.countEnd c.planting
        let s := s.updCtx c.ctx fun x => { x with ltime := Nat.max x.ltime (s.cts c.coreNo) }
        s.wakeCtx c.ctx (· == .childLimit))

end Sys2Proof.Machine
end

