-- ==== Sys2Proof/Machine/Spawn.lean ====
section
/-!
DEFINITION. Device-side launch and spawn bins, of OP 0x2B (R289 to R296, R388).
-/

namespace Sys2Proof.Machine

/-- A handler field: 0xFFFF_FFFF names none (R315). -/
def handlerOf (x : Nat) : Option Word := if x % 2 ^ 32 = 0xFFFFFFFF then none else some (BitVec.ofNat 32 x)

/-- Starts a planting of a context under its next id (R388); the first result is the planting's name. -/
def State.startPlanting (s : State) (p : Planting) : Nat × State :=
  let id := (s.ctx p.ctx).nextId
  let s := s.updCtx p.ctx fun x => { x with nextId := if id = 2 ^ 32 - 1 then 1 else id + 1 }
  let i := s.fresh
  (i.1, { i.2 with plantings := i.2.plantings.insert i.1 { p with id := id } })

/-- Queues the clumps of a planting for placement. -/
def State.queueClumps (s : State) (pn : Nat) : State :=
  let p := s.plantings.getD pn {}
  if p.clumps = 0 then s else { s with waiting := s.waiting ++ [{ planting := pn, no := 0, prio := p.prio, node := p.node }] }

/-- A kernel of an image. -/
def Image.kernel (x : Image) (i : Nat) : Kernel := (x.kernels[i]?).getD {}

/-! ### Launch (R290, R291) -/

/-- Closes an aggregation window: its children become one planting. -/
def State.closeAgg (s : State) (i : Nat) : State :=
  match s.aggs[i]? with
  | none => s
  | some a =>
    let g := s.graphs.getD a.graph ⟨0, 0, 0, {}, [], []⟩
    let r := (g.image.children[a.launch]?).getD ⟨0, 0, 0, 0, 0, 0⟩
    let first := (a.reqs[0]?).getD ⟨0, 0, 0, []⟩
    let p : Planting :=
      { ctx := g.ctx, graph := a.graph, node := first.node, prio := first.prio, kernel := g.image.kernel r.kernel
        clumps := a.reqs.length * r.clumps, perChild := r.clumps, kids := a.reqs, s0 := r.s0, s1 := r.s1
        handler := handlerOf r.handler }
    let x := ({ s with aggs := s.aggs.eraseIdx i } : State).startPlanting p
    if p.clumps = 0 then { x.2 with plantings := x.2.plantings.erase x.1 } else x.2.queueClumps x.1

/-- Submits a child request to the aggregator of a die: the window of its launch id opens, or takes it, and closes with its 256th
request. -/
def State.submitChild (s : State) (die graph launch : Nat) (r : ChildReq) : State :=
  let mine (a : Agg) : Bool := a.die == die && a.graph == graph && a.launch == launch
  let i := s.aggs.findIdx mine
  let s := if i < s.aggs.length then
      { s with aggs := s.aggs.map fun a => if mine a then { a with reqs := a.reqs ++ [r] } else a }
    else { s with aggs := s.aggs ++ [⟨die, graph, launch, s.cycle, [r]⟩] }
  if ((s.aggs[i]?).map fun a => decide (256 ≤ a.reqs.length)).getD false then s.closeAgg i else s

/-- A strand's `launch` of a launch id with a parameter pointer (R290, R292). DEDUCED: notes/assumptions/58.md. -/
def State.launchLane (s : State) (m : Lane) (id ptr : Nat) : State :=
  let c := s.clp
  let p := s.plantingOf s.sh.clump
  let bad := s.trap m { cause := .launchMisuse, addr := id }
  match (s.graphOf p).image.children[id]? with
  | none => bad
  | some r =>
    let k := (s.graphOf p).image.kernel r.kernel
    if !k.placeable k.bands then bad
    else if Config.maxChildren ≤ s.childrenOf c.ctx then s.hold m .childLimit
    else s.submitChild c.die p.graph id ⟨ptr, p.prio, c.node, c.origins⟩

/-- R290: one child request for each strand, in ascending home lane. -/
def execLaunch (a b : BitVec 7) (s : State) : Out :=
  .next ((s.eachLane fun m u => u.launchLane m ((s.bnd m).ureg a.toNat).toNat ((s.str m).pair b.toNat).toNat).endRegion)

/-- R291: a window closes 1,024 cycles after it opened. -/
def execAggregationWindowClose (die idx : Nat) (s : State) : Out :=
  let mine := (List.range s.aggs.length).filter fun i => ((s.aggs[i]?).map fun a => a.die == die).getD false
  .next (match mine[idx]? with
    | none => s
    | some i => if ((s.aggs[i]?).map fun a => decide (a.opened + 1024 ≤ s.cycle)).getD false then s.closeAgg i else s)

/-! ### Spawn bins (R294, R295) -/

/-- The place of a die's bin for an entry of an image. -/
def State.binOf (s : State) (die ctx image e : Nat) : Option Nat :=
  s.bins.findIdx? fun b => b.die == die && b.ctx == ctx && b.image == image && b.no == e

/-- An entry of the spawn table that a graph's command has read (R384); where there is none, an empty one. -/
def State.entryRec (s : State) (graph e : Nat) : EntryRec :=
  ((s.graphs.find? graph).bind fun g => g.image.entries[e]?).getD ⟨0, 0, 0, 0, 0, 0, 0⟩

/-- The kernel of that entry. -/
def State.entryKernel (s : State) (graph e : Nat) : Kernel :=
  ((s.graphs.find? graph).map fun g => g.image.kernel (s.entryRec graph e).kernel).getD {}

/-- The records of a bin in order. -/
def Bin.all (b : Bin) : List BinRec := b.recs ++ b.spilled

/-- A bin with its records: 64 stay on chip, the rest in the spill area. -/
def Bin.withAll (b : Bin) (rs : List BinRec) : Bin := { b with recs := rs.take 64, spilled := rs.drop 64 }

/-- A full bin, its spill area, of `cap` records, full as well. -/
def Bin.full (b : Bin) (cap : Nat) : Bool := decide (64 ≤ b.recs.length) && decide (cap ≤ b.spilled.length)

/-- Launches a band of a bin's oldest records, up to 32 (R295). DEDUCED: notes/assumptions/58.md. -/
def State.launchBin (s : State) (i : Nat) : State :=
  match s.bins[i]? with
  | none => s
  | some b =>
    match b.all.take 32 with
    | [] => s
    | r :: rs =>
      let rest := b.all.drop 32
      let e := s.entryRec r.graph b.no
      let p : Planting :=
        { ctx := b.ctx, graph := r.graph, node := r.node, prio := r.prio, kernel := { s.entryKernel r.graph b.no with bands := 1 }
          clumps := 0, param := e.param, handler := handlerOf e.handler, entry := BitVec.ofNat 32 e.entry, spawned := true }
      let known := (b.plantings.find? fun x => x.1 == r.graph).map (·.2)
      let x := match known with
        | some pn => (pn, s)
        | none => s.startPlanting p
      let s := x.2.updPlanting x.1 fun p => { p with clumps := p.clumps + 1, perChild := p.clumps + 1 }
      let w : Waiting :=
        { planting := x.1, no := (s.plantings.getD x.1 {}).clumps - 1, prio := r.prio, records := (r :: rs).map (·.words)
          node := r.node, origins := ((r :: rs).flatMap (·.origins)).dedup, die := some b.die, launchNo := b.launches }
      let b : Bin := { b.withAll rest with
        timer := if rest = [] then none else b.timer
        launches := (b.launches + 1) % 2 ^ 32
        plantings := if known.isSome then b.plantings else b.plantings ++ [(r.graph, x.1)] }
      let s := { s with bins := s.bins.set i b, waiting := s.waiting ++ [w] }
      s.wakeCtx b.ctx fun k => match k with
        | .spawnFull d _ => d == b.die
        | _ => false

/-- A strand's `spawn` of a record into an entry's bin (R294, R296). DEDUCED: notes/assumptions/58.md. -/
def State.spawnLane (s : State) (m : Lane) (e : Nat) (words : List Word) : State :=
  let c := s.clp
  let p := s.plantingOf s.sh.clump
  let bad := s.trap m { cause := .spawnMisuse, addr := e }
  match (s.binOf c.die c.ctx (s.graphOf p).image.addr e), (s.graphOf p).image.entries[e]? with
  | some i, some x =>
    let b := (s.bins[i]?).getD ⟨0, 0, 0, 0, [], [], none, 0, []⟩
    if !(s.entryKernel p.graph e).placeable 1 then bad
    else if b.full x.spillCap then s.hold m (.spawnFull c.die e)
    else
      let r : BinRec := ⟨words, p.prio, p.graph, c.node, c.origins⟩
      let b : Bin := { b.withAll (b.all ++ [r]) with timer := if b.all = [] then some s.cycle else b.timer }
      let s := { s with bins := s.bins.set i b }
      if 32 ≤ b.recs.length then s.launchBin i else s
  | _, _ => bad

/-- R294: each strand's record goes to the bin, in ascending home lane. -/
def execSpawn (a b : BitVec 7) (s : State) : Out :=
  .next ((s.eachLane fun m u =>
    u.spawnLane m ((s.bnd m).ureg a.toNat).toNat ((List.range 4).map fun i => (s.str m).reg (b.toNat + i))).endRegion)

/-- The cycles of a bin's timer, by the entry of its oldest record's graph. -/
def State.period (s : State) (b : Bin) : Nat :=
  let t := (s.entryRec ((b.all.head?.map (·.graph)).getD 0) b.no).timer
  if t = 0 then 2000 else t

/-- R295: a bin's timer runs out. -/
def execSpawnBinTimerExpiry (die idx : Nat) (s : State) : Out :=
  let mine := (List.range s.bins.length).filter fun i => ((s.bins[i]?).map fun b => b.die == die).getD false
  .next (match mine[idx]? with
    | none => s
    | some i =>
      if ((s.bins[i]?).map fun b => (b.timer.map fun t => decide (t + s.period b ≤ s.cycle)).getD false).getD false then s.launchBin i
      else s)

end Sys2Proof.Machine
end

