-- ==== Sys2Proof/Machine/Command.lean ====
section
/-!
DEFINITION. Submission queues, commands and graphs (R281 to R286, R369, R381 to R384, R386).
-/

namespace Sys2Proof.Machine

/-! ### The command processor's accesses (R386) -/

/-- What the first of some accesses meets, if it is not plain. -/
def State.cpMeets (s : State) (ctx : Nat) (xs : List (Kind × Nat × Nat)) : Option EngX :=
  ((xs.flatMap fun x => (spanPieces x.2.1 x.2.2).map fun p => s.engCheck1 ctx x.1 p).filter fun r => r != .ok)[0]?

/-- The bytes of a virtual span that every access of which is plain. -/
def State.cpBytes (s : State) (ctx va n : Nat) : List Byte :=
  (spanPieces va n).flatMap fun x => match s.translate ctx x.1 x.2 .engRead false with
    | .ok pa _ _ _ _ => s.latestBytes pa x.2
    | _ => []

/-- Writes a word at system scope. -/
def State.cpWrite (s : State) (ctx va : Nat) (x : Word) : State :=
  match s.translate ctx va 4 .engWrite false with
  | .ok pa e base size pin => (s.useLeaf ctx base size e pin).agentPut s.horizon pa 4 x.toNat
  | _ => s

/-- A submission queue. -/
def State.queue (s : State) (q : Nat) : SubQueue := s.ctl.queues.getD q {}

/-- The queue waits on a replayable fault, which is posted (R331, R386); a page being pulled is waited for. -/
def State.cpWait (s : State) (q ctx : Nat) (write : Bool) : EngX → State
  | .pause va level pte base size =>
    (s.noteFault ctx 0 va level pte base size (if write then Kind.engWrite.code else Kind.engRead.code) 0 0 0).updQueue q fun x =>
      { x with fault := some va }
  | _ => s

/-! ### Commands (R282) -/

/-- Word `i` of a command, and the 64-bit value from word `i` on. -/
def cmdWord (w : List Word) (i : Nat) : Nat := ((w[i]?).getD 0).toNat
def cmdPair (w : List Word) (i : Nat) : Nat := cmdWord w i + cmdWord w (i + 1) * 2 ^ 32

/-- The fields of a command. -/
def cmdOpc (w : List Word) : Nat := cmdWord w 0 % 2 ^ 8
def cmdIrq (w : List Word) : Bool := Nat.testBit (cmdWord w 0) 8
def cmdSeq (w : List Word) : Nat := cmdWord w 1
def cmdAddr (w : List Word) : Nat := cmdPair w 2
def cmdParam (w : List Word) : Nat := cmdPair w 4
def cmdBudget (w : List Word) : Nat := cmdPair w 6
def cmdModew (w : List Word) : Nat := cmdPair w 8
def cmdCompl (w : List Word) : Nat := cmdPair w 10
def cmdCompv (w : List Word) : Nat := cmdWord w 12

/-- A command is refused as it stands (R283). -/
def cmdBad (w : List Word) : Bool :=
  decide (4 < cmdOpc w) || decide (cmdWord w 0 / 2 ^ 9 ≠ 0) || cmdWord w 13 != 0 || cmdWord w 14 != 0 || cmdWord w 15 != 0 ||
    (cmdOpc w == 3 && !paramsOk (cmdModew w))

/-- Updates a journal entry (R369). -/
def State.journalEntry (s : State) (n : Nat) (f : JEntry → JEntry) : State :=
  { s with journal := s.journal.insert n (f (s.journal.getD n {})) }

/-- Sets how far the command of a queue is. -/
def State.setPhase (s : State) (q ph : Nat) : State :=
  s.updQueue q fun x => { x with aborted := false, cmd := x.cmd.map fun c => (c.1, c.2.1, ph) }

/-- A command starts. -/
def State.startCmd (s : State) (q ph : Nat) : State :=
  match (s.queue q).cmd with
  | some (j, _, _) => (s.journalEntry j fun e => { e with state := 2 }).setPhase q ph
  | none => s

/-- A command is refused: it is journalled so, and completes. -/
def State.refuseCmd (s : State) (q : Nat) : State :=
  match (s.queue q).cmd with
  | some (j, _, _) => (s.journalEntry j fun e => { e with state := 4, tdone := s.time }).setPhase q 3
  | none => s

/-- Accepts a command with its words; a bad one is refused. -/
def State.acceptCmd (s : State) (q : Nat) (w : List Word) (unread : Bool) : State :=
  let x := s.queue q
  let j := s.jcount % 65536
  let e : JEntry := { seq := cmdSeq w, queue := q, idx := x.head, state := 1, tacc := s.time, ctx := x.ctx }
  let s := { s with journal := s.journal.insert j e, jcount := (s.jcount + 1) % 2 ^ 64 }
  let s := s.updQueue q fun x => { x with head := (x.head + 1) % x.entries, cmd := some (j, w, 0), aborted := false }
  if unread || cmdBad w then s.refuseCmd q else s

/-- R281: the next command of an enabled queue is read and journalled, once the one before it has completed and the journal has a
slot. -/
def execCommandAccept (queue : Nat) (s : State) : Out :=
  let x := s.queue queue
  let busy := (s.journal.find? (s.jcount % 65536)).any fun e => e.state == 1 || e.state == 2
  let va := (x.base + 64 * x.head) % 2 ^ 64
  let none_ : List Word := List.replicate 16 0
  .next (if !Nat.testBit x.cfg 31 || x.cmd.isSome || x.fault.isSome || x.head == x.tail || busy then s
    else if x.aborted then s.acceptCmd queue none_ true
    else
      match s.cpMeets x.ctx [(Kind.engRead, va, 64)] with
      | none =>
        let b := s.cpBytes x.ctx va 64
        s.acceptCmd queue ((List.range 16).map fun i => BitVec.ofNat 32 (leNat ((b.drop (4 * i)).take 4))) false
      | some (.fault _ _) => s.acceptCmd queue none_ true
      | some p => s.cpWait queue x.ctx false p)

/-- Runs the command of a queue: `f` gets its context and words, once the queue does not wait on a fault; a fault that the host
aborted refuses it (R386). -/
def State.runCmd (s : State) (q opc ph : Nat) (f : Nat → List Word → State) : State :=
  let x := s.queue q
  match x.cmd with
  | some (_, w, p) =>
    if cmdOpc w ≠ opc ∨ p ≠ ph ∨ x.fault.isSome then s
    else if x.aborted then s.refuseCmd q
    else f x.ctx w
  | none => s

/-- Runs `f` once accesses of a command are plain: a refusal without replay refuses the command.
DEDUCED: notes/assumptions/61.md. -/
def State.cpGuard (s : State) (q ctx : Nat) (write : Bool) (xs : List (Kind × Nat × Nat)) (f : State) : State :=
  match s.cpMeets ctx xs with
  | none => f
  | some (.fault _ _) => s.refuseCmd q
  | some p => s.cpWait q ctx write p

/-- R283: nothing, and completes at once. -/
def execCmdNop (queue : Nat) (s : State) : Out := .next (s.runCmd queue 0 0 fun _ _ => s.startCmd queue 2)

/-- R283: writes a word as a release at system scope. -/
def execCmdSignal (queue : Nat) (s : State) : Out :=
  .next (s.runCmd queue 2 0 fun ctx w =>
    if cmdAddr w % 4 ≠ 0 then s.refuseCmd queue
    else s.cpGuard queue ctx true [(Kind.engWrite, cmdAddr w, 4)]
      ((s.startCmd queue 2).cpWrite ctx (cmdAddr w) (BitVec.ofNat 32 (cmdParam w))))

/-- A command supplies a budget that is not zero; a context that its budget has ended comes back (R301).
DEDUCED: notes/assumptions/60.md. -/
def State.supply (s : State) (ctx b : Nat) : State :=
  if b = 0 then s
  else
    let s := s.exhaust ctx
    let broke := (s.ctx ctx).broke
    let s := s.updCtx ctx fun x => { x with budget := b, metered := true, broke := false }
    if broke then s.resume ctx else s

/-- R283: loads the context's parameters and budget. -/
def execCmdModeSwitch (queue : Nat) (s : State) : Out :=
  .next (s.runCmd queue 3 0 fun ctx w =>
    ((s.startCmd queue 2).updCtx ctx fun x => { x with params := cmdModew w }).supply ctx (cmdBudget w))

/-- The awaited word has reached its value. -/
def State.valueReached (s : State) (ctx : Nat) (w : List Word) : Bool :=
  decide (cmdWord w 4 ≤ leNat (s.cpBytes ctx (cmdAddr w) 4))

/-- R283: holds the queue until a word reaches a value. -/
def execCmdWaitValue (queue : Nat) (s : State) : Out :=
  .next (s.runCmd queue 4 0 fun ctx w =>
    if cmdAddr w % 4 ≠ 0 then s.refuseCmd queue
    else s.cpGuard queue ctx false [(Kind.engRead, cmdAddr w, 4)] (s.startCmd queue (if s.valueReached ctx w then 2 else 1)))

/-- R283: the awaited word reaches the value. -/
def execWaitValueSatisfied (queue : Nat) (s : State) : Out :=
  .next (s.runCmd queue 4 1 fun ctx w =>
    s.cpGuard queue ctx false [(Kind.engRead, cmdAddr w, 4)] (if s.valueReached ctx w then s.setPhase queue 2 else s))

/-! ### Completion (R283, R369) -/

/-- The end of a command: it is journalled, refusals are counted, its interrupt is raised, and a pre-emption that waited for a
mode switch is taken (R322). -/
def State.closeCmd (s : State) (q ctx j : Nat) (w : List Word) (refused : Bool) : State :=
  let s := s.journalEntry j fun e =>
    if refused then { e with state := 4, tdone := if e.state = 4 then e.tdone else s.time } else { e with state := 3, tdone := s.time }
  let s := s.updQueue q fun x =>
    { x with cmd := none, aborted := false, ref := if refused then Nat.min (x.ref + 1) 0xFFFF else x.ref }
  let s := if cmdIrq w then s.irq (ctxVector ctx 3) else s
  match cmdOpc w, (s.ctx ctx).modeSwitch with
  | 3, some r => s.updCtx ctx fun x => { x with modeSwitch := none, stopping := some (x.stopping.getD r) }
  | _, _ => s

/-- R283: a command that has had its effect, or was refused, completes. -/
def execCommandCompletion (queue : Nat) (s : State) : Out :=
  let x := s.queue queue
  .next (match x.cmd with
    | some (j, w, p) =>
      if p < 2 ∨ x.fault.isSome then s
      else
        let refused := p == 3
        let v : Word := if refused then 0xFFFFFFFF else BitVec.ofNat 32 (cmdCompv w)
        if cmdCompl w = 0 ∨ cmdCompl w % 4 ≠ 0 then s.closeCmd queue x.ctx j w refused
        else if x.aborted then s.closeCmd queue x.ctx j w true
        else
          match s.cpMeets x.ctx [(Kind.engWrite, cmdCompl w, 4)] with
          | none => (s.cpWrite x.ctx (cmdCompl w) v).closeCmd queue x.ctx j w refused
          | some (.fault _ _) => s.closeCmd queue x.ctx j w refused
          | some p => s.cpWait queue x.ctx true p
    | none => s)

/-! ### Graph images (R381, R382, R386) -/

/-- A 4-byte field of bytes. -/
def fieldAt (b : List Byte) (o : Nat) : Nat := leNat ((b.drop o).take 4)

/-- Records of `n` bytes. -/
def recordsOf (b : List Byte) (n count : Nat) : List (List Byte) := (List.range count).map fun i => (b.drop (n * i)).take n

/-- The counts of a header: kernels, nodes, edges, children, entries, plan areas. -/
structure Header where
  kernels : Nat
  nodes : Nat
  edges : Nat
  children : Nat
  entries : Nat
  plans : Nat
  /-- The offsets of the kernel, node, edge, child, entry and plan tables. -/
  offs : List Nat
  deriving DecidableEq, Repr

/-- A header that R381 accepts. -/
def headerOf (b : List Byte) : Option Header :=
  let f := fieldAt b
  let offs := (List.range 8).map fun i => f (0x20 + 4 * i)
  if f 0 = 0x00424744 ∧ f 4 = 1 ∧ f 0x1C = 0 ∧ (offs.all fun o => o % 16 == 0) ∧ f 0x10 / 2 ^ 16 ≤ 256 then
    some { kernels := f 8 % 2 ^ 16, nodes := f 8 / 2 ^ 16, edges := f 0x0C, children := f 0x10 % 2 ^ 16, entries := f 0x10 / 2 ^ 16
           plans := f 0x18 % 2 ^ 16, offs := offs.take 5 ++ (offs.drop 6).take 1 }
  else none

/-- The tables that the device reads: offset and bytes of each. -/
def Header.tables (h : Header) : List (Nat × Nat) :=
  h.offs.zip [64 * h.kernels, 32 * h.nodes, 16 * h.edges, 32 * h.children, 32 * h.entries, 32 * h.plans]

/-- What a record needs of the plan areas: the virtual base and the size of each. -/
abbrev Plans := List (Nat × Nat)

/-- A kernel record that R382 accepts. DEDUCED: notes/assumptions/62.md. DESIGN CHOICE: notes/assumptions/92.md. -/
def kernelOf (ps : Plans) (b : List Byte) : Option Kernel :=
  let f := fieldAt b
  let g := f 0x18
  let h := f 0x1C
  let area (i : Nat) : Option (Nat × Nat) := ps[i]?
  match area (f 4), area (f 8), (if f 0x10 = 0xFFFF then some (0, 0) else area (f 0x10)) with
  | some code, some rtab, some dtab =>
    if g / 2 ^ 23 % 2 ≠ 0 ∨ g / 2 ^ 25 ≠ 0 ∨ h / 2 ^ 9 ≠ 0 ∨ h / 2 ^ 6 % 4 ≠ 0 ∨ h / 2 ^ 3 % 2 ≠ 0 ∨ (b.drop 0x28).any (· != 0) ∨
        g % 2 ^ 8 = 0 ∨ 32 < g % 2 ^ 8 ∨ 64 < g / 2 ^ 16 % 2 ^ 7 ∨ g / 2 ^ 8 % 2 ^ 8 < 8 ∨ 128 < g / 2 ^ 8 % 2 ^ 8 ∨
        g / 2 ^ 8 % 8 ≠ 0 ∨ 4 < h % 8 ∨ 2 < h / 2 ^ 4 % 4 then none
    else
      some { codeBase := code.1, codeLen := code.2, rtab := rtab.1, nreg := f 0x0C, dtab := if f 0x10 = 0xFFFF then none else some dtab.1
             ndrain := f 0x14, bands := g % 2 ^ 8, regs := g / 2 ^ 8 % 2 ^ 8, bar := g / 2 ^ 16 % 2 ^ 7, drain := Nat.testBit g 24
             acc := h % 8, slots := h / 2 ^ 4 % 4, thicket := Nat.testBit h 8, spad := f 0x20, resv := f 0x24 }
  | _, _, _ => none

/-- A node or child record that R382 and R387 accept. -/
def nodeOf (ks : List Kernel) (child : Bool) (b : List Byte) : Option NodeRec :=
  let f := fieldAt b
  match ks[f 0]? with
  | some k =>
    if f 0x1C ≠ 0 ∨ (child ∧ (f 8 ≠ 0 ∨ f 0x0C ≠ 0)) ∨ (k.thicket ∧ f 4 % 2 = 1) then none
    else some ⟨f 0, f 4, f 8 + f 0x0C * 2 ^ 32, f 0x10, f 0x14, f 0x18⟩
  | none => none

/-- A spawn-table entry that R382 and R387 accept. -/
def entryOf (ks : List Kernel) (ps : Plans) (b : List Byte) : Option EntryRec :=
  let f := fieldAt b
  match ks[f 0]?, ps[f 0x14]? with
  | some k, some area =>
    if f 0x1C ≠ 0 ∨ k.thicket then none
    else some ⟨f 0, f 4, f 8 + f 0x0C * 2 ^ 32, f 0x10, area.1, area.2 / 16, f 0x18⟩
  | _, _ => none

/-- An edge record that R382 and R285 accept. -/
def edgeOf (nodes : Nat) (b : List Byte) : Option Edge :=
  let f := fieldAt b
  if f 0 % 2 ^ 16 < nodes ∧ f 0 / 2 ^ 16 < nodes ∧ f 4 < 7 ∧ f 0x0C = 0 then some ⟨f 0 % 2 ^ 16, f 0 / 2 ^ 16, f 4, f 8⟩ else none

/-- Takes away, `fuel` times, the nodes that no node left has an edge to. -/
def peel (es : List Edge) : Nat → List Nat → List Nat
  | 0, ns => ns
  | fuel + 1, ns => peel es fuel (ns.filter fun n => es.any fun e => e.dst == n && ns.contains e.src)

/-- Where a plan area of an image lies (R384). DESIGN CHOICE: notes/assumptions/2.md. -/
def State.planBase (s : State) (ctx image i : Nat) : Nat :=
  ((s.placed.find? fun x => x.1 == ctx && x.2.1 == image && x.2.2.1 == i).map (·.2.2.2)).getD (Config.planBase ctx image i)

/-- A plan record's reserved bits are zero (R382). -/
def planOk (b : List Byte) : Bool := decide (fieldAt b 0 < 2 ^ 19) && (b.drop 0x14).all (· == 0)

/-- An image from its header and the bytes of its tables. DEDUCED: notes/assumptions/62.md. -/
def State.imageOf (s : State) (ctx addr : Nat) (h : Header) (ts : List (List Byte)) : Option Image :=
  let t (i : Nat) : List Byte := (ts[i]?).getD []
  let ps : Plans := (List.range h.plans).map fun i =>
    (s.planBase ctx addr i, leNat (((t 5).drop (32 * i + 8)).take 8))
  match (recordsOf (t 0) 64 h.kernels).mapM (kernelOf ps), (recordsOf (t 5) 32 h.plans).all planOk with
  | none, _ => none
  | _, false => none
  | some ks, true =>
    match (recordsOf (t 1) 32 h.nodes).mapM (nodeOf ks false), (recordsOf (t 2) 16 h.edges).mapM (edgeOf h.nodes),
        (recordsOf (t 3) 32 h.children).mapM (nodeOf ks true), (recordsOf (t 4) 32 h.entries).mapM (entryOf ks ps) with
    | some ns, some es, some cs, some ens =>
      if peel es (h.nodes + 1) (List.range h.nodes) = [] then
        some { addr := addr, kernels := ks, nodes := ns, edges := es, children := cs, entries := ens }
      else none
    | _, _, _, _ => none

/-! ### Walking a graph (R284, R285) -/

/-- The state of a node. -/
def Graph.node (g : Graph) (n : Nat) : NodeState := (g.states[n]?).getD .skipped

/-- A node has completed or been skipped. -/
def NodeState.over (x : NodeState) : Bool := x == .done || x == .skipped

/-- What is decided of a waiting node: it starts, it is skipped, or nothing yet. -/
def Graph.fate (g : Graph) (n : Nat) : Option Bool :=
  let ins := g.image.edges.filter fun e => e.dst == n
  if ins = [] then some true
  else if !ins.all fun e => (g.node e.src).over then none
  else some (ins.any fun e => g.node e.src == .done && edgeTest e.test ((g.results[e.src]?).getD 0) e.c)

/-- Sets the state of a node. -/
def State.setNode (s : State) (gid n : Nat) (x : NodeState) : State :=
  { s with graphs := s.graphs.modify gid fun g => { g with states := g.states.set n x } }

/-- Starts a node: its planting is queued for placement. -/
def State.startNode (s : State) (gid n : Nat) (g : Graph) : State :=
  let r := (g.image.nodes[n]?).getD ⟨0, 0, 0, 0, 0, 0⟩
  let p : Planting :=
    { ctx := g.ctx, graph := gid, node := n, prio := g.prio, kernel := g.image.kernel r.kernel, clumps := r.clumps
      perChild := r.clumps, param := r.param, s0 := r.s0, s1 := r.s1, handler := handlerOf r.handler }
  let x := s.startPlanting p
  (x.2.queueClumps x.1).setNode gid n .running

/-- Decides each waiting node once. -/
def State.walkOnce (s : State) (gid : Nat) : State :=
  match s.graphs.find? gid with
  | none => s
  | some g => (List.range g.states.length).foldl (fun s n =>
      match s.graphs.find? gid with
      | none => s
      | some g =>
        if g.node n ≠ .waiting then s
        else
          match g.fate n with
          | some true => s.startNode gid n g
          | some false => s.setNode gid n .skipped
          | none => s) s

/-- Decides nodes until nothing more is decided. -/
def State.walkGraph (s : State) (gid : Nat) : Nat → State
  | 0 => s
  | fuel + 1 => (s.walkOnce gid).walkGraph gid fuel

/-- Ends a graph command whose nodes have all completed or been skipped. -/
def State.endGraph (s : State) (gid : Nat) : State :=
  match s.graphs.find? gid with
  | none => s
  | some g =>
    if !g.states.all NodeState.over then s
    else
      { s.setPhase g.queue 2 with
        graphs := s.graphs.erase gid
        plantings := s.plantings.filter fun x => x.2.graph != gid || x.2.ctx != g.ctx
        bins := s.bins.map fun b => { b with plantings := b.plantings.filter fun x => x.1 != gid } }

/-- Bins already bound on a die. -/
def State.boundBins (s : State) (die : Nat) : Nat := s.bins.countP fun b => b.die == die

/-- Binds to bins of every die the spawn entries of an image that no earlier command has bound; `none` if the bins do not suffice (R294,
R384). -/
def State.bindBins (s : State) (ctx : Nat) (x : Image) : Option State :=
  let new := (List.range x.entries.length).filter fun e => !s.bins.any fun b => b.ctx == ctx && b.image == x.addr && b.no == e
  if (List.range Config.dies).any fun d => new != [] && decide (256 < s.boundBins d + new.length) then none
  else
    some { s with bins := s.bins ++ (List.range Config.dies).flatMap fun d => new.map fun e =>
      { die := d, ctx := ctx, image := x.addr, no := e } }

/-- Starts a graph command with its image (R284, R383). -/
def State.startGraph (s : State) (q ctx : Nat) (w : List Word) (x : Image) : State :=
  match s.bindBins ctx x with
  | none => s.refuseCmd q
  | some s =>
    let root (n : Nat) : Bool := !x.edges.any fun e => e.dst == n
    let ns := ((List.range x.nodes.length).zip x.nodes).map fun y =>
      if root y.1 ∧ cmdParam w ≠ 0 then { y.2 with param := cmdParam w } else y.2
    let s := (s.startCmd q 1).supply ctx (cmdBudget w)
    let i := s.fresh
    let g : Graph :=
      { queue := q, ctx := ctx, prio := (s.queue q).prio, image := { x with nodes := ns }
        states := ns.map fun _ => .waiting, results := ns.map fun _ => 0 }
    (({ i.2 with graphs := i.2.graphs.insert i.1 g } : State).walkGraph i.1 (ns.length + 1)).endGraph i.1

/-- R284, R386: reads and checks the image, and walks its nodes. -/
def execCmdGraph (queue : Nat) (s : State) : Out :=
  .next (s.runCmd queue 1 0 fun ctx w =>
    let a := cmdAddr w
    s.cpGuard queue ctx false [(Kind.engRead, a, 64)]
      (match headerOf (s.cpBytes ctx a 64) with
       | none => s.refuseCmd queue
       | some h =>
         let spans := h.tables.map fun t => ((a + t.1) % 2 ^ 64, t.2)
         s.cpGuard queue ctx false (spans.map fun t => (Kind.engRead, t.1, t.2))
           (match s.imageOf ctx a h (spans.map fun t => s.cpBytes ctx t.1 t.2) with
            | none => s.refuseCmd queue
            | some x => s.startGraph queue ctx w x)))

/-! ### Completion of nodes (R286) -/

/-- Work of a node, or of anything launched or spawned from it, is left. -/
def State.nodePending (s : State) (gid n : Nat) : Bool :=
  let mine (os : List (Nat × Nat)) : Bool := os.contains (gid, n)
  s.plantings.any (fun x => x.2.graph == gid && x.2.node == n && x.2.kids == [] && !x.2.spawned && decide (x.2.ended < x.2.clumps)) ||
    s.clumps.any (fun c => mine c.2.origins) || s.aggs.any (fun a => a.reqs.any fun r => mine r.origins) ||
    s.bins.any (fun b => b.all.any fun r => mine r.origins) ||
    s.waiting.any fun w => mine w.origins ||
      (w.saved.isNone && ((s.plantings.getD w.planting {}).kids.drop (w.no / (s.plantings.getD w.planting {}).perChild)).any
        fun k => mine k.origins)

/-- R284, R286: a node completes; the walker reads its result word and resolves its edges. -/
def execNodeCompletion (graph node : Nat) (s : State) : Out :=
  .next (match s.graphs.find? graph with
    | none => s
    | some g =>
      if g.node node ≠ .running ∨ s.nodePending graph node then s
      else
        let mine (p : Planting) : Bool := p.graph == graph && p.node == node && p.kids == [] && !p.spawned
        let r := ((List.find? (fun x => mine x.2) s.plantings).bind fun x => x.2.result).getD 0
        let s := { s with
          graphs := s.graphs.insert graph { g with states := g.states.set node .done, results := g.results.set node r.toNat }
          plantings := s.plantings.filter fun x => !mine x.2 }
        (s.walkGraph graph (g.states.length + 1)).endGraph graph)

end Sys2Proof.Machine
end

