-- ==== Sys2Proof/Machine/Cross.lean ====
section
/-!
DEFINITION. Instructions over the strands of a band, OP 0x16 and 0x17 (R163, R164, R167, R195 to R197), and uniform
arithmetic, OP 0x18 and 0x19 (R168, R198).
-/

namespace Sys2Proof.Machine

/-! ### Reading other lanes -/

/-- A shuffle (R195): each strand reads A of the lane that `src` names for its own home lane and its B. -/
def State.shuffle (s : State) (d a b : BitVec 7) (src : Nat → Word → Nat) : State :=
  s.perLane fun m => [.v d.toNat (s.opA ⟨m.band, src m.lane (s.opB m b)⟩ a)]

/-- Participants of the strand's band in ascending lane, no further than lane `l` (R196). -/
def State.partsUpTo (s : State) (m : Lane) (l : Nat) : List Lane :=
  ((List.range 32).map fun i => (⟨m.band, i⟩ : Lane)).filter fun x => decide (x.lane ≤ l) && (s.parts m).contains x

/-- A reduction over participants, in ascending lane, from the lowest participant's value. -/
def reduceFrom (f : Word → Word → Word) : List Word → Word
  | [] => 0
  | x :: xs => xs.foldl f x

/-- A reduction of A over the participants of each strand's band. -/
def State.bandRed (s : State) (d a : BitVec 7) (f : Word → Word → Word) : State :=
  s.perLane fun m => [.v d.toNat (reduceFrom f ((s.partsUpTo m 31).map fun x => s.opA x a))]

/-- A minimum or maximum in F32 over the participants of each strand's band (R196). The result meets itself once more, so that a NaN
of one participant alone comes out canonical (R34, R185). -/
def State.bandRedF (s : State) (d a : BitVec 7) (f : Num.Fmt → Nat → Nat → Nat) : State :=
  let g (x y : Word) : Word := BitVec.ofNat 32 (f Num.f32 x.toNat y.toNat)
  s.perLane fun m =>
    let r := reduceFrom g ((s.partsUpTo m 31).map fun x => s.opA x a)
    [.v d.toNat (g r r)]

/-- An inclusive prefix over the participants of each strand's band. -/
def State.bandScan (s : State) (d a : BitVec 7) (f : Word → Word → Word) : State :=
  s.perLane fun m => [.v d.toNat (reduceFrom f ((s.partsUpTo m m.lane).map fun x => s.opA x a))]

/-- One level of the tree of R197. -/
def treeLevel : List (Option Word) → List (Option Word)
  | some x :: some y :: r => some (Num.addRne x y) :: treeLevel r
  | some x :: none :: r => some x :: treeLevel r
  | none :: y :: r => y :: treeLevel r
  | r => r

/-- The sum of the tree of R197 over 32 positions. -/
def treeSum (xs : List (Option Word)) : Word :=
  match treeLevel (treeLevel (treeLevel (treeLevel (treeLevel xs)))) with
  | some x :: _ => x
  | _ => 0

/-- `bred.fadd` (R197). -/
def State.bandTree (s : State) (d a : BitVec 7) : State :=
  s.perLane fun m =>
    [.v d.toNat (treeSum ((List.range 32).map fun i =>
      if (s.parts m).contains ⟨m.band, i⟩ then some (s.opA ⟨m.band, i⟩ a) else none))]

/-! ### Uniform arithmetic -/

/-- Lands the band's uniform results that no lane of `ls` waits for: a K-pipe word works on the result of the sheaf before
it (R168), and on old values only within its own strands' switch region (R15). DEDUCED: notes/assumptions/26.md. -/
def Band.settleK (b : Band) (ls : List Nat) : Band := b.landKWhere fun w => !(w.lanes.any ls.contains)

/-- The lanes of the sheaf in a band. -/
def State.lanesOf (s : State) (b : Nat) : List Nat := (s.sh.lanes.filter fun m => m.band == b).map (·.lane)

/-- `settleK` for each band with a participant. DEDUCED: notes/assumptions/26.md. -/
def State.settle (s : State) : State :=
  s.activeBands.foldl (fun t bm => t.updBand s.sh.clump bm.1 fun b => b.settleK (s.lanesOf bm.1)) s

/-- `kD := f(band)` once for each band with a participant (R168). -/
def State.uni (s : State) (d : BitVec 7) (f : Band → Word) : State :=
  let t := s.settle
  t.perBand d.toNat fun b _ => f (t.clp.band b)

/-- `kD := f(kA, kB)`. -/
def State.uni3 (s : State) (d a b : BitVec 7) (f : Word → Word → Word) : State :=
  s.uni d fun x => f (x.ureg a.toNat) (x.ureg b.toNat)

/-- `kD := f(kA, imm)`. -/
def State.uniI (s : State) (d a imm : BitVec 7) (f : Word → Word → Word) : State :=
  s.uni d fun x => f (x.ureg a.toNat) (s.immI imm)

/-- The signed three-way comparison of `kcmpi`. -/
def threeWay (a y : Word) : Word := if a.slt y then 0xFFFFFFFF else if a = y then 0 else 1

/-! ### The instructions -/

/-- R195. -/
def execShfl (d a b : BitVec 7) (s : State) : Out :=
  .next (s.shuffle d a b fun _ y => y.toNat % 32)

/-- R195. -/
def execShflUp (d a b : BitVec 7) (s : State) : Out :=
  .next (s.shuffle d a b fun l y => if y.toNat ≤ l then l - y.toNat else l)

/-- R195. -/
def execShflDn (d a b : BitVec 7) (s : State) : Out :=
  .next (s.shuffle d a b fun l y => if l + y.toNat ≤ 31 then l + y.toNat else l)

/-- R195. -/
def execShflX (d a b : BitVec 7) (s : State) : Out :=
  .next (s.shuffle d a b fun l y => l ^^^ (y.toNat % 32))

/-- R195, once for each band with a participant. -/
def execRdlane (d a : BitVec 7) (b : BitVec 5) (s : State) : Out :=
  .next (s.perBand d.toNat fun x _ => s.opA ⟨x, b.toNat⟩ a)

/-- R195. -/
def execBallot (d : BitVec 7) (a : BitVec 3) (s : State) : Out :=
  .next (s.perLane fun m => [.v d.toNat (((s.parts m).filter fun x => (s.str x).pred a.toNat).foldl
    (fun w x => w ||| (1#32 <<< x.lane)) 0)])

/-- R163: bit 5 of an entry is ZERO, bits [4:0] FROM. -/
def execPerm (d a : BitVec 7) (b : BitVec 3) (s : State) : Out :=
  .next (s.perLane fun m =>
    let e := (s.bnd m).pattern b.toNat m.lane
    [.v d.toNat (if e.getLsbD 5 then 0 else (s.str ⟨m.band, e.toNat % 32⟩).reg a.toNat)])

/-- R163: visible to the next instruction of the band. -/
def execPtab (d : BitVec 3) (a : BitVec 7) (s : State) : Out :=
  .next (s.active.foldl (fun t m =>
    t.updBand s.sh.clump m.band fun x => x.setPattern d.toNat m.lane (((s.str m).reg a.toNat).setWidth 6)) s)

/-- R196. -/
def execBredAdd (d a : BitVec 7) (s : State) : Out :=
  .next (s.bandRed d a (· + ·))

/-- R196. -/
def execBredMin (d a : BitVec 7) (s : State) : Out :=
  .next (s.bandRed d a smin)

/-- R196. -/
def execBredMax (d a : BitVec 7) (s : State) : Out :=
  .next (s.bandRed d a smax)

/-- R197. -/
def execBredFadd (d a : BitVec 7) (s : State) : Out :=
  .next (s.bandTree d a)

/-- R196. -/
def execBredFmin (d a : BitVec 7) (s : State) : Out :=
  .next (s.bandRedF d a Num.fmin)

/-- R196. -/
def execBredFmax (d a : BitVec 7) (s : State) : Out :=
  .next (s.bandRedF d a Num.fmax)

/-- R196. -/
def execScanAdd (d a : BitVec 7) (s : State) : Out :=
  .next (s.bandScan d a (· + ·))

/-- R197. -/
def execScanFadd (d a : BitVec 7) (s : State) : Out :=
  .next (s.bandScan d a Num.addRne)

/-- R198. -/
def execKadd (d a b : BitVec 7) (s : State) : Out :=
  .next (s.uni3 d a b (· + ·))

/-- R198. -/
def execKsub (d a b : BitVec 7) (s : State) : Out :=
  .next (s.uni3 d a b (· - ·))

/-- R198. -/
def execKmul (d a b : BitVec 7) (s : State) : Out :=
  .next (s.uni3 d a b (· * ·))

/-- R198. -/
def execKand (d a b : BitVec 7) (s : State) : Out :=
  .next (s.uni3 d a b (· &&& ·))

/-- R198. -/
def execKor (d a b : BitVec 7) (s : State) : Out :=
  .next (s.uni3 d a b (· ||| ·))

/-- R198. -/
def execKxor (d a b : BitVec 7) (s : State) : Out :=
  .next (s.uni3 d a b (· ^^^ ·))

/-- R198. -/
def execKshl (d a b : BitVec 7) (s : State) : Out :=
  .next (s.uni3 d a b fun x y => shlN x y.toNat)

/-- R198. -/
def execKshr (d a b : BitVec 7) (s : State) : Out :=
  .next (s.uni3 d a b fun x y => shrN x y.toNat)

/-- R198. -/
def execKaddi (d a imm : BitVec 7) (s : State) : Out :=
  .next (s.uniI d a imm (· + ·))

/-- R198. -/
def execKandi (d a imm : BitVec 7) (s : State) : Out :=
  .next (s.uniI d a imm (· &&& ·))

/-- R198. -/
def execKori (d a imm : BitVec 7) (s : State) : Out :=
  .next (s.uniI d a imm (· ||| ·))

/-- R198: the amount is unsigned. -/
def execKshli (d a imm : BitVec 7) (s : State) : Out :=
  .next (s.uni d fun x => shlN (x.ureg a.toNat) imm.toNat)

/-- R198: the amount is unsigned. -/
def execKshri (d a imm : BitVec 7) (s : State) : Out :=
  .next (s.uni d fun x => shrN (x.ureg a.toNat) imm.toNat)

/-- R198. -/
def execKmovi (d imm : BitVec 7) (s : State) : Out :=
  .next (s.uni d fun _ => s.immI imm)

/-- R198. -/
def execKcmpi (d a imm : BitVec 7) (s : State) : Out :=
  .next (s.uniI d a imm threeWay)

end Sys2Proof.Machine
end

