-- ==== Sys2Proof/Machine/Issue.lean ====
section
/-!
DEFINITION. The chooser of a quadrant: ready strands, forming the sheaf, and the gather window (R261 to R264, R267).
-/

namespace Sys2Proof.Machine

/-! ### Engine words (R267) -/

/-- The major opcodes that issue to the E pipe (R17). -/
def engineOps : List Nat := [0x22, 0x23, 0x24, 0x25, 0x2E, 0x2F, 0x30, 0x31, 0x32]

/-- The chain at a program counter value of a clump holds an E-pipe word. -/
def State.engineAt (s : State) (c : Nat) (pc : Word) : Bool :=
  pcSlot pc != 3 && (s.fetchChain c 3 pc []).1.1.any fun x => engineOps.contains (fOp x.2).toNat

/-! ### Ready strands (R261) -/

/-- A strand is ready but for being held at an engine word. -/
def Strand.free (t : Strand) : Bool := t.life == .live && t.park.isNone && !t.marker && t.trap.isNone

/-- Every live strand of a band stands at a program counter value and is ready. -/
def Band.gathered (b : Band) (pc : Word) : Bool := b.strands.all fun x => x.2.life != .live || (x.2.free && x.2.pc == pc)

/-- A band's strands at a program counter value are held: its gather window is open, the chain there holds an engine word, and
neither has the band gathered there nor has its window run out for them. DEDUCED: notes/assumptions/69.md. -/
def State.isHeld (s : State) (c : Nat) (b : Band) (pc : Word) : Bool :=
  match b.held with
  | none => false
  | some h => s.engineAt c pc && !b.gathered pc && !(h.expired && h.pc == pc)

/-- A clump's strands issue: its context has not been stopped, or the clump is draining (R318, R321). -/
def State.issues (s : State) (c : Clump) : Bool :=
  c.place == .resident &&
    (s.mayRun c.ctx || (c.draining.isSome && !c.fallback && ((s.ctx c.ctx).stopping == some 0 || (s.ctx c.ctx).stopping == some 3)))

/-- A strand that the chooser considers. -/
structure Cand where
  clump : Nat
  at_ : Lane
  slot : Nat
  pc : Word
  since : Nat
  due : Bool
  deriving DecidableEq, Repr

/-- The ready strands of a quadrant. DEDUCED: notes/assumptions/69.md. -/
def State.cands (s : State) (core quad : Nat) : List Cand :=
  (s.clumps.filter fun x => x.2.place == .resident && x.2.coreNo == core).flatMap fun x =>
    ((List.range x.2.bands.length).filter fun b => (x.2.band b).quad == quad && (s.issues x.2 || (x.2.band b).begun)).flatMap fun b =>
      (((x.2.band b).strands.filter fun y => y.2.free && !s.isHeld x.1 (x.2.band b) y.2.pc).map fun y =>
        { clump := x.1, at_ := ⟨b, y.1⟩, slot := (x.2.band b).slot, pc := y.2.pc, since := y.2.since, due := decide (63 ≤ y.2.passes) })

/-- The first of two strands in the chooser's order (R262): the greater age, then the lower band slot, then the lower lane. -/
def Cand.older (x y : Cand) : Bool :=
  decide (x.since < y.since) || (x.since == y.since &&
    (decide (x.slot < y.slot) || (x.slot == y.slot && decide (x.at_.lane < y.at_.lane))))

/-- The oldest of some strands. -/
def oldest : List Cand → Option Cand
  | [] => none
  | x :: xs => some (xs.foldl (fun a y => if y.older a then y else a) x)

/-- The chooser's pick: a due strand before any other (R263). -/
def choose (cs : List Cand) : Option Cand := (oldest (cs.filter (·.due))).or (oldest cs)

/-! ### Forming the sheaf (R264) -/

/-- The strand of a lane that joins the sheaf of a clump at a program counter value; while a strand of the lane is due, no other
one does (R263). -/
def joins (cs : List Cand) (x : Cand) (lane : Nat) : Option Cand :=
  let mine := cs.filter fun y => y.at_.lane == lane
  oldest (mine.filter fun y => y.clump == x.clump && y.pc == x.pc && (y.due || !mine.any (·.due)))

/-- The ready strands of other bands that a sheaf passes over: their home lane is taken (R263). -/
def State.passOver (s : State) (cs taken : List Cand) : State :=
  (cs.filter fun y => !taken.contains y && taken.any fun z => z.at_.lane == y.at_.lane).foldl (fun s y =>
    s.updStrand y.clump y.at_ fun t => { t with passes := t.passes + 1 }) s

/-- Forms the sheaf of some strands. -/
def State.form (s : State) (quad : Nat) (cs taken : List Cand) (x : Cand) : State :=
  let c := s.clump x.clump
  let h : Sheaf :=
    { clump := x.clump, die := c.die, core := c.core, quad := quad, at_ := x.pc, pc := x.pc, next := pcNext x.pc
      lanes := taken.map (·.at_) }
  { s.passOver cs taken with sheaf := some h }

/-- Which strands of a band are held now (R267): one that comes to be held stops being ready, so that its count of passes starts anew,
and one that is held no longer becomes ready now (R262, R263). -/
def State.gate (s : State) (c b : Nat) : State :=
  let n := s.slotCount (s.clump c).coreNo (s.band c b).quad
  s.updBand c b fun x =>
    { x with strands := x.strands.map fun y =>
        let h := y.2.free && s.isHeld c x y.2.pc
        (y.1, if h == y.2.held then y.2
              else if h then { y.2 with held := true, passes := 0 }
              else { y.2 with held := false, since := n, passes := 0 }) }

/-- The bands of a quadrant that an issue slot may find held or held no longer. -/
def State.gates (s : State) (core quad : Nat) : State :=
  (s.clumps.filter fun x => x.2.place == .resident && x.2.coreNo == core).foldl (fun s x =>
    (List.range x.2.bands.length).foldl (fun s b =>
      let k := s.band x.1 b
      if k.quad == quad && (k.held.isSome || k.strands.any fun y => y.2.held) then s.gate x.1 b else s) s) s

/-- Picks strands until a sheaf is formed: a band that has not gathered at an engine word is held, and the chooser picks again
(R267). Each pick that fails holds strands, so the number of strands bounds the picks.
DEDUCED: notes/assumptions/69.md. -/
def State.pick (s : State) (core quad : Nat) : Nat → State
  | 0 => s
  | fuel + 1 =>
    let cs := s.cands core quad
    match choose cs with
    | none => s
    | some x =>
      if s.engineAt x.clump x.pc then
        let b := s.band x.clump x.at_.band
        let expired := b.held.any fun h => h.expired && h.pc == x.pc
        if b.gathered x.pc || expired then
          let taken := cs.filter fun y => y.clump == x.clump && y.at_.band == x.at_.band && y.pc == x.pc
          (s.updBand x.clump x.at_.band fun b => { b with held := none }).form quad cs taken x
        else
          ((s.updBand x.clump x.at_.band fun b =>
            { b with held := some (b.held.getD { pc := x.pc, slot := s.slotCount core quad }) }).gate x.clump x.at_.band).pick core quad fuel
      else s.form quad cs ((List.range Config.lanes).filterMap (joins cs x)) x

/-- R262: one issue slot of a quadrant: it is counted, and a sheaf is formed, whose chain issues next.
DEDUCED: notes/assumptions/11.md. -/
def execIssueSlot (die core quad : Nat) (s : State) : Out :=
  let n := coreNo die core
  if Config.dies ≤ die ∨ Config.coresPerDie ≤ core ∨ Config.quads ≤ quad then .next s
  else
    let q := quadNo n quad
    let s := s.gates n quad
    let s := { s with slots := s.slots.put q 0 (s.slots.getD q 0 + 1) }
    .next (s.pick n quad ((s.cands n quad).length + 1))

/-- R267: 256 issue slots after the first of a band's strands was held, the strands there issue without the others. -/
def execGatherWindowExpiry (clump band : Nat) (s : State) : Out :=
  let b := s.band clump band
  .next (match b.held with
    | some h =>
      if h.slot + 256 ≤ s.slotCount (s.clump clump).coreNo b.quad then
        s.updBand clump band fun b => { b with held := some { h with expired := true } }
      else s
    | none => s)

end Sys2Proof.Machine
end

