-- ==== Sys2Proof/Machine/Save.lean ====
section
/-!
DEFINITION. Pre-emption (R318 to R322), rollback (R157), barrier drain (R321) and the context save area (R161, R323 to R326).
-/

namespace Sys2Proof.Machine

/-! ### Rollback (R157, R319) -/

/-- A strand outside the gap returns to its region's head, its live-in registers as they were there.
DEDUCED: notes/assumptions/65.md. -/
def Strand.toHead (t : Strand) : Strand :=
  let link : SMap Word := SMap.put [] 127 0 (t.reg 127)
  { t with pc := t.head, v := t.fast.foldl (fun m x => m.put x.1 0 x.2) link, ctr := t.headCtr, super := t.super.map fun _ => false }

/-- The predicate that the status of a parked WAIT or `sleep` goes to; `pred` gives a monitor's. -/
def ParkOn.statusPred (pred : Nat → Nat) : ParkOn → Option Nat
  | .wait i => some (pred i)
  | .sleep _ d => some d
  | _ => none

/-- A strand in the gap that a word has parked: its word issues again; where a later word of its chain has ended the region, the strand
goes on past the chain, and a status is the spurious one, to the predicate `d` (R157, R299), unless a later slot of the chain has written
it (R15). DEDUCED: notes/assumptions/65.md. -/
def Strand.redoGap (t : Strand) (p : Park) (d : Option Nat) : Strand :=
  if p.next.isSome then
    if p.next = some t.redo then
      let u := match d with
        | some d => t.giveStatus (.p d false)
        | none => t
      { u with park := none, pc := t.redo, spurious := none }
    else { t with park := none, pc := t.redo }
  else { t with park := none }

/-- A strand returns to its rollback point. One that waits for a barrier's phase keeps its token and goes on past the word; a
yield has performed; any other park ends, and its word issues again, a WAIT or `sleep` with the spurious status (R319). A strand that runs
its handler goes back to the handler's region head, or in the gap to the handler's entry (R319), unless a word has ended its region since it
entered the handler, whose effect is not repeated (R130, R157), or a context fault has stopped it (R316). One that is pending restart keeps
its registers (R276). `pred` gives the predicate of a monitor's status. DEDUCED: notes/assumptions/65.md. -/
def Strand.rollBack (t : Strand) (handler : Option Word) (pred : Nat → Nat) : Strand :=
  let u := { t with marker := false, trap := none, aborted := [], fenced := false, got := none, held := false, since := 0, passes := 0 }
  let enter (x : Strand) : Strand := if x.h && !x.stay then { x with pc := handler.getD x.pc } else x
  let clear (x : Strand) : Strand := { x with overruled := false }
  if t.life = .restart then clear { u with park := none, gap := true }
  else if t.life ≠ .live then clear { u with park := none }
  else
    match t.park with
    | some ⟨.barrier _ _, _, _⟩ => clear { u with gap := true, stay := true }
    | some ⟨.yield _, _, next⟩ => clear { u with park := none, gap := true, stay := true, pc := next.getD t.pc }
    | some p =>
      let d := p.on.statusPred pred
      let u := if d.isSome then { u with spurious := some p.word } else u
      clear (if t.gap then enter (u.redoGap p d) else { u with park := none }.toHead)
    | none => clear (if t.gap then enter u else u.toHead)

/-- A strand of a clump that is swapped out: it stays parked, with its registers as they stand, and goes on past its word when the park
ends (R300). DEDUCED: notes/assumptions/47.md. -/
def Strand.swapOut (t : Strand) : Strand := { t with gap := true, since := 0, passes := 0 }

/-! ### Barrier drain (R321) -/

/-- An entry of a drain table (R382): its word, its registers' mask, and its scratchpad range. -/
structure DrainPoint where
  pc : Nat
  mask : Nat
  off : Nat
  len : Nat
  deriving DecidableEq, Repr

/-- The drain table of a clump's kernel; an entry that cannot be read lists nothing. -/
def State.drainTable (s : State) (c : Clump) : List DrainPoint :=
  match c.kernel.dtab with
  | none => []
  | some a => (List.range c.kernel.ndrain).filterMap fun i =>
    match s.translate c.ctx (a + 32 * i) 32 .engRead false with
    | .ok pa _ _ _ _ =>
      some { pc := s.latestNat pa 4, mask := s.latestNat (pa + 4) 16, off := s.latestNat (pa + 20) 4, len := s.latestNat (pa + 24) 4 }
    | _ => none

/-- The drain point at which a strand is parked. DEDUCED: notes/assumptions/67.md. -/
def drainPoint (ds : List DrainPoint) (t : Strand) : Option DrainPoint :=
  match t.park with
  | some ⟨.barrier _ _, w, _⟩ => ds.find? fun d => d.pc == w.toNat
  | _ => none

/-- Every live strand of a clump is parked at a drain point. DEDUCED: notes/assumptions/67.md. -/
def Clump.drainedTo (c : Clump) (ds : List DrainPoint) : Bool :=
  c.bands.all fun b => b.strands.all fun x => x.2.life != .live || (drainPoint ds x.2).isSome

/-- Keeps what the drain table lists: registers by each strand's drain point, and the scratchpad ranges of all of them; a strand that is
pending restart has no drain point and keeps its registers (R276), and one that has ended keeps none.
DEDUCED: notes/assumptions/67.md. -/
def Clump.drainKeep (c : Clump) (ds : List DrainPoint) : Clump :=
  let spans := c.bands.flatMap fun b => b.strands.filterMap fun x => (drainPoint ds x.2).map fun d => (d.off, d.off + d.len)
  let keep (t : Strand) : Strand :=
    match drainPoint ds t, t.life with
    | some d, _ => { t with v := t.v.filter fun y => Nat.testBit d.mask y.1 }
    | none, .restart => t
    | none, _ => { t with v := [], fast := [], super := [] }
  { c.mapStrands keep with drained := true, spad := c.spad.filter fun x => spans.any fun y => decide (y.1 ≤ x.1) && decide (x.1 < y.2) }

/-! ### The save area's records -/

/-- Bytes without poison. -/
def clean (bs : List Byte) : Data := (bs, [])

/-- Bytes all of which are poisoned, or none. -/
def tainted (bs : List Byte) (bad : Bool) : Data := (bs, if bad then List.replicate bs.length true else [])

/-- Joins bytes in order. -/
def joined (ds : List Data) : Data :=
  (ds.flatMap (·.1), if ds.any fun d => d.2 != [] then ds.flatMap fun d => d.2 ++ List.replicate (d.1.length - d.2.length) false else [])

/-- Zero bytes. -/
def zeros (n : Nat) : Data := clean (List.replicate n 0)

/-- Fills up to a multiple of `n` bytes. -/
def padded (n : Nat) (d : Data) : Data := joined [d, zeros ((n - d.1.length % n) % n)]

/-- 32-bit words as bytes. -/
def words4 (xs : List Nat) : Data := clean (xs.flatMap fun x => leBytes 4 (x % 2 ^ 32))

/-- 64-bit words as bytes. -/
def words8 (xs : List Nat) : Data := clean (xs.flatMap fun x => leBytes 8 (x % 2 ^ 64))

/-- One 32-bit value for each lane. -/
def perLane4 (f : Nat → Nat) : Data := words4 ((List.range 32).map f)

/-- One 64-bit value for each lane. -/
def perLane8 (f : Nat → Nat) : Data := words8 ((List.range 32).map f)

/-- The program counter value from which a rolled-back strand goes on. -/
def Strand.rpc (t : Strand) : Nat :=
  match t.park with
  | some p => (p.next.getD t.pc).toNat
  | none => t.pc.toNat

/-- R161: the record of a band whose strands have been rolled back, or which has drained; `regs` is REGS. What LIVEIN holds for a lane in
the gap, and in slots from COUNT on, the spec does not say: the model writes zero (DESIGN CHOICE, notes/assumptions/103.md). -/
def Band.record (b : Band) (regs : Nat) (drained : Bool) : Data :=
  let t (l : Nat) : Strand := b.strand l
  let gaps := (List.range 32).filter fun l => (b.strands.find? l).isSome && (t l).gap
  let full := gaps != [] || drained
  let bad (r : Nat) : Bool := b.regPoison.contains (r / 8)
  joined [words4 [b.liveMask.toNat, regs + (if full then 2 ^ 8 else 0), laneMask gaps, 0],
    perLane4 fun l => (t l).rpc,
    perLane4 fun l => (t l).ridx % 2 ^ 22 + (if gaps.contains l then 2 ^ 31 else 0),
    clean ((List.range 32).map fun l => (t l).p ||| 1),
    perLane4 fun l => (t l).ctr.toNat, zeros 80,
    tainted (perLane4 fun l => ((t l).reg 127).toNat).1 (bad 127),
    clean ((List.range 8).flatMap fun n => (List.range 32).map fun l => (b.pattern n l).setWidth 8),
    words4 ((List.range 64).map fun r => (b.ureg r).toNat),
    joined ((List.range 32).flatMap fun l => (List.range 16).map fun j =>
      match if gaps.contains l then none else (t l).fast[j]? with
      | some x => tainted (leBytes 4 x.2.toNat) (bad x.1)
      | none => zeros 4),
    if full then joined ((List.range regs).map fun r => tainted (perLane4 fun l => ((t l).reg r).toNat).1 (bad r)) else zeros 0]

/-- HSTATE of a lane (R325). -/
def Strand.hstate (t : Strand) : Nat :=
  let h := if t.h then 1 else 0
  match t.life, t.park with
  | .restart, _ => h + 2 * 2
  | .live, some ⟨.barrier n token, _, _⟩ => pack [(0, h), (1, 1), (8, n % 64), (32, token % 2 ^ 32)]
  | _, _ => h

/-- The tape's 128 bytes (R325). -/
def Tape.record (t : Tape) : Data :=
  let site (i : Nat) : Nat := match t.sites.find? i with
    | some x => x.site % 2 ^ 16 + (x.count - 1) % 16 * 2 ^ 16 + x.rank % 16 * 2 ^ 20 + 2 ^ 24
    | none => 0
  padded 128 (joined [words4 [t.word], words4 ((List.range 8).map t.w), words8 [t.cursor], words4 [t.dropped],
    words4 ((List.range 8).map site), words8 [t.expected.toNat, t.top.toNat]])

/-- An unreleased command's 48 bytes (R325). Bits [7:0] of its last 16 hold FN above the low five bits of the opcode
(DEDUCED, notes/assumptions/45.md). -/
def Unreleased.record (u : Unreleased) : Data :=
  let desc := if u.op = 0x22 then (List.range 8).map fun i => ((u.desc[i]?).getD 0).toNat
    else ((u.desc[0]?).getD 0).toNat :: List.replicate 7 0
  joined [words4 desc, words4 [u.fn % 8 * 2 ^ 5 + u.op % 2 ^ 5, u.handle], words8 [u.compl]]

/-- The staging buffer's 16 KiB, in stream order from its oldest byte (DEDUCED, notes/assumptions/45.md). -/
def Tape.stageRecord (t : Tape) : Data :=
  joined [t.data t.stageLo (t.cursor - t.stageLo), zeros (tapeArea - (t.cursor - t.stageLo))]

/-- R325: the extension of a band. -/
def Band.extension (b : Band) : Data :=
  let t (l : Nat) : Strand := b.strand l
  joined [perLane8 fun l => (t l).hstate, perLane4 fun l => (t l).epc.toNat, perLane8 fun l => (t l).tinfo.toNat,
    perLane8 fun l => (t l).arrived.toNat, b.tape.record, words4 [b.unrel.length, 0, 0, 0], joined (b.unrel.map Unreleased.record),
    zeros (48 * (Config.maxUnreleased - b.unrel.length)), zeros (0x0A80 - 0x0A10),
    words8 [match b.restart with
      | some r => r.1.toNat + r.2 % 2 ^ 8 * 2 ^ 32
      | none => 0],
    zeros 120, b.tape.stageRecord, perLane8 fun l => (t l).detail.toNat]

/-- A generator in the layout of its descriptor (R234). -/
def Gen.record (g : Gen) : Data :=
  joined [words8 [g.seed.toNat],
    words4 [pack [(0, g.kind % 8), (3, if g.trans then 1 else 0), (4, g.fmt % 16), (8, g.scope % 8), (11, g.mkind % 4),
        (13, if g.rot then 1 else 0)], g.w.toNat, g.grows.toNat, g.gcols.toNat, g.param.toNat, 0, g.row0.toNat, g.col0.toNat],
    zeros 24]

/-- A barrier's 16 bytes (R324). -/
def Barrier.record (b : Barrier) : Data :=
  words4 [b.phase.toNat, b.count, if b.count = 0 then 0 else b.arrivals, if b.thicket then 1 else 0]

/-- A tile record's 16 bytes (R324). -/
def Tile.record (t : Tile) : Data := words8 [t.desc, pack [(0, t.code), (8, t.off % 2 ^ 12), (20, t.flags.toNat)]]

/-- The progress record (R326). -/
def Clump.progRecord (c : Clump) : Data :=
  match c.prog with
  | none => zeros 128
  | some (p, h, b, _) =>
    joined [words4 ((List.range 16).map p.word),
      words4 [p.m, p.c, h, (c.band b).slot % 256 + (if p.afterLoad then 2 ^ 8 else 0)], zeros 48]

/-- An accumulator's values and flags, and its drain store (R324). -/
def Clump.accRecord (c : Clump) (n : Nat) : Data :=
  let a := c.accs.getD n {}
  tainted (joined [words4 ((List.range 8192).map fun i => (a.vals.getD i 0).toNat), words4 [a.rowFlags.toNat],
    clean (leBytes 32 a.colFlags.toNat), zeros 28]).1 a.poison
def Clump.storeRecord (c : Clump) (n : Nat) : Data :=
  let d := c.stores.getD n {}
  tainted (words4 ((List.range 256).map (fun i => (d.word i).toNat) ++
    (List.range 256).map fun i => (d.bias.getD i 0).toNat)).1 d.poison

/-- Free bytes: what the spec's layout leaves open (DESIGN CHOICE, notes/assumptions/2.md). -/
def State.freeBytes (s : State) : Nat → List Byte × State
  | 0 => ([], s)
  | n + 1 =>
    let x := s.freeValue 8
    let r := State.freeBytes x.2 n
    (BitVec.ofNat 8 x.1 :: r.1, r.2)

/-- A slot in its aligned form: the arrangement of its 128 KiB and of its format record is not given (DEDUCED, notes/assumptions/45.md). -/
def State.slotRecord (s : State) (c : Clump) (n : Nat) : Data × State :=
  let x := s.freeBytes (2 ^ 17)
  let y := x.2.freeBytes 8
  let sl := c.mslots.find? n
  (tainted (x.1 ++ leBytes 32 (match sl with
      | some z => z.colFlags.toNat
      | none => 0) ++ y.1) (sl.any fun z => z.poison), y.2)

/-- Reservation space, poisoned where a poisoned tile owns it. -/
def Clump.resvRecord (c : Clump) : Data :=
  let bad := (c.tiles.filter fun x => x.2.poison).map fun x => (256 * x.2.off, 256 * (x.2.off + x.2.own))
  ((List.range c.kernel.resv).map fun i => c.resv.getD i 0,
    if bad = [] then [] else (List.range c.kernel.resv).map fun i => bad.any fun y => decide (y.1 ≤ i) && decide (i < y.2))

/-- R324: the record of a saved clump. -/
def State.clumpRecord (s : State) (n : Nat) : Data × State :=
  let c := s.clump n
  let k := c.kernel
  let slots := (List.range k.slots).foldl (fun (r : List Data × State) i =>
    let x := r.2.slotRecord c i
    (r.1 ++ [padded 256 x.1], x.2)) (([], s) : List Data × State)
  let accs := List.range k.acc
  let parts := joined (accs.map (fun i => padded 256 (c.accRecord i)) ++ accs.map (fun i => padded 256 (c.storeRecord i)) ++ slots.1 ++
    [padded 256 c.resvRecord, padded 256 (c.engBytes 0 k.spad)] ++
    c.bySlot.map fun b => padded 256 (joined [(c.band b).record k.regs c.drained, (c.band b).extension]))
  let open_ := accs.foldl (fun a i => if (c.accs.getD i {}).chain.isSome then a + 2 ^ i else a) 0
  let shape := pack [(0, k.bands % 2 ^ 8), (8, k.bar % 2 ^ 8), (16, 2 ^ k.acc - 1), (20, 2 ^ k.slots - 1), (24, c.thicket % 4),
    (26, if c.drained then 1 else 0)]
  (joined [words4 [(s.plantingOf n).id, c.no, shape, k.spad, k.resv, open_, if c.prog.isSome then 1 else 0, 0x800 + parts.1.length],
    zeros 224, joined ((List.range 64).map fun i => (c.bars.getD i {}).record), zeros 0,
    joined ((List.range 8).map fun i => (c.tiles.getD i {}).record), joined ((List.range 8).map fun i => (c.gens.getD i {}).record),
    c.progRecord, parts], slots.2)

/-- R323: the header of a save area; `fallback` says that a drain took too long. -/
def State.saveHeader (s : State) (ctx reason n : Nat) (fallback : Bool) : Data :=
  let x := s.ctx ctx
  joined [words4 [1, ctx, reason % 4 + (if fallback then 2 ^ 8 else 0), n], words8 [x.ltime, x.params, x.budget], zeros (0x100 - 0x28)]

/-- Writes bytes to a physical address of the host's choosing, poison with them. -/
def State.saveAt (s : State) (pa : Nat) (d : Data) : State := ((s.agentWrite s.horizon pa d.1).2).carryPoison pa d

/-- Writes a clump's record, and notes where it lies. DEDUCED: notes/assumptions/46.md. -/
def State.saveRecord (s : State) (pa c : Nat) : State :=
  let r := s.clumpRecord c
  (r.2.saveAt pa r.1).updClump c fun k => { k with record := some (pa, r.1.1.length) }

/-- The first 4 KiB boundary past a record. -/
def past4 (pa n : Nat) : Nat := (pa + n + 4095) / 4096 * 4096

/-- Writes clump records one after another, each on a 4 KiB boundary; one that is lost stays where it is. -/
def State.saveRecords (s : State) : Nat → List Nat → State
  | _, [] => s
  | pa, c :: cs =>
    if s.recordLost c then s.saveRecords pa cs
    else
      let s := s.saveRecord pa c
      s.saveRecords (((s.clump c).record.map fun r => past4 r.1 r.2).getD pa) cs

/-! ### When a clump or context is settled -/

/-- Nothing of a strand is under way: its results have landed, its requests on the CXL.io path have performed, and no trap is being
delivered. DEDUCED: notes/assumptions/66.md. -/
def Strand.settledFor (t : Strand) : Bool := t.out == [] && t.host == [] && !(t.trap.isSome && t.park.isNone)

/-- Nothing of a band is under way: results and spilled chunks have landed, and no tape instruction that has begun is left (R254). -/
def Band.atRest (b : Band) : Bool :=
  b.kout == [] && b.engOut == [] && b.tape.spill == [] && !b.begun && b.strands.all fun x => x.2.settledFor

/-- A sequencer. -/
def Op.isMgemm (o : Op) : Bool :=
  match o.kind with
  | .mgemm _ => true
  | _ => false

/-- A save does not wait for the operation to end: a sequencer stops at its boundary (R232), an `mwait` issues again (R219), and what the
save itself writes of a tape may be due. -/
def Op.stops (o : Op) : Bool :=
  o.paused.isNone && (o.isMgemm || match o.kind with
    | .mwait _ => true
    | .close => true
    | _ => false)

/-- Nothing of a clump is under way but at most one sequencer, which stands at a boundary, and bands that wait in `mwait`.
DEDUCED: notes/assumptions/66.md. -/
def State.clumpSettled (s : State) (c : Nat) : Bool :=
  let ops := s.ops.filter fun o => o.clump == c
  (s.clump c).bands.all Band.atRest && decide ((ops.filter Op.isMgemm).length ≤ 1) && ops.all Op.stops

/-! ### Saving a context (R318, R319) -/

/-- Takes an operation that stops out of those in flight: a sequencer leaves its progress (R232), and its ranges and lines are released. -/
def State.stopOp (s : State) (o : Op) : State :=
  let s := match o.kind with
    | .mgemm p => (s.addHeld o.clump p.acc p.held.length p.held).updClump o.clump fun k =>
        { k with prog := some ({ p with held := [] }, o.handle.getD 0, o.band, o.scope) }
    | _ => s
  let s := ((s.unlock o.id).dropReqs o.id).updClump o.clump fun k => { k with absent := k.absent.filter fun x => x.2 != o.id }
  { s with ops := s.ops.filter fun x => x.id != o.id }

/-- The operations of a clump that a save does not wait for stop. -/
def State.stopSequencer (s : State) (c : Nat) : State :=
  (s.ops.filter fun o => o.clump == c && o.stops).foldl State.stopOp s

/-- The predicate that a monitor's status goes to. -/
def State.monitorPred (s : State) (i : Nat) : Nat := ((s.coh.monitors.find? i).map (·.d)).getD 0

/-- Saves a clump by rollback, or by barrier drain; one that was swapped out comes from its record, and stays as it is where that is lost.
DEDUCED: notes/assumptions/66.md. -/
def State.saveClump (s : State) (c : Nat) : State :=
  if s.recordLost c then s.updClump c fun k => { k with place := .saved } else
  let s := (s.restoreClump c).stopSequencer c
  let k := s.clump c
  let k := if k.draining.isSome && !k.fallback then k.drainKeep (s.drainTable k) else { k with drained := false }
  let k := k.mapStrands fun t => t.rollBack (s.plantingOf c).handler s.monitorPred
  s.updClump c fun _ =>
    { k with place := .saved, parkedSince := none, draining := none, fallback := false
             ltime := if k.place = .resident then s.cts k.coreNo else k.ltime
             bands := k.bands.map fun b => { b with held := none } }

/-- The predictors of the open tapes of a context's clumps, which are in memory (R254): the clump, the band, and a write.
DEDUCED: notes/assumptions/66.md. -/
def State.tapePreds (s : State) (cs : List Nat) : List (Nat × Nat × Nat × Data) :=
  cs.flatMap fun c => (List.range (s.clump c).bands.length).flatMap fun b =>
    if (s.band c b).tape.mode = 0 then [] else (s.band c b).tape.predWrites.map fun x => (c, b, x)

/-- Writes the predictors of open tapes to memory; a refusal without replay closes its tape (R254). -/
def State.writePreds (s : State) (ctx : Nat) (cs : List Nat) : State :=
  (s.tapePreds cs).foldl (fun s x =>
    if (s.band x.1 x.2.1).tape.mode = 0 then s
    else
      match s.engWrite (s.tapeTraffic ctx x.1 x.2.1 0 false) x.2.2.1 x.2.2.2 false with
      | (.ok _, s) => s
      | (.error va, s) => s.failTape x.1 x.2.1 va) s

/-- The first of those writes that meets a replayable fault, with its band, or a page that is being pulled: an operation of the band's tape
then waits for the host's answer (R254). -/
def State.predsPause (s : State) (ctx : Nat) (cs : List Nat) : Option (Nat × Nat × EngX) :=
  (s.tapePreds cs).findSome? fun x =>
    (s.engPause ctx [(Kind.engWrite, x.2.2.1, x.2.2.2.1.length)]).map fun y => (x.1, x.2.1, y)

/-- Cache lines of a context that is put away (R102): in keep-in-place mode they stay; in lease-check mode leased lines do. -/
def State.putAway (s : State) (ctx : Nat) : State :=
  if Nat.testBit (s.ctx ctx).params 31 then s.dropLines ctx fun l => l.st == .lease else s

/-- A stopped context comes back at once: after a pre-emption for higher-priority work, or where its budget has been supplied
meanwhile. DEDUCED: notes/assumptions/47.md. -/
def State.comeBack (s : State) (ctx reason : Nat) : State :=
  if reason = 0 ∨ (reason = 1 ∧ !(s.ctx ctx).broke) then s.resume ctx else s

/-- The fault record of a context that a fault has stopped (R316). -/
def State.faultRecord (s : State) (ctx : Nat) : State :=
  match (s.ctx ctx).record with
  | none => s
  | some (a, b, c, d) =>
    ((s.agentWrite s.horizon (s.ctx ctx).snap (bytesOf [a, b, c, d, s.time, 0, 0, 0])).2.updCtx ctx fun x =>
      { x with record := none }).irq (ctxVector ctx 2)

/-- The largest clock of any core that a context ran on (R102). -/
def State.ctxTime (s : State) (ctx : Nat) (cs : List Nat) : Nat :=
  cs.foldl (fun t c => Nat.max t (if (s.clump c).place = .resident then s.cts (s.clump c).coreNo else (s.clump c).ltime)) (s.ctx ctx).ltime

/-- Saves a settled context. DEDUCED: notes/assumptions/47.md. -/
def State.saveContext (s : State) (ctx reason : Nat) : State :=
  let cs := (s.clumps.filter fun x => x.2.ctx == ctx && x.2.place != .saved).map (·.1)
  let fallback := cs.any fun c => (s.clump c).fallback
  let s := s.writePreds ctx cs
  let s := s.updCtx ctx fun x => { x with ltime := s.ctxTime ctx cs, away := true, stopping := none }
  let all := (s.clumps.filter fun x => x.2.ctx == ctx).map (·.1)
  -- a clump that waited to come back is restored before the area is written anew
  let s := all.foldl (fun s c => if cs.contains c then s.saveClump c else s.restoreClump c) s
  let s := { s with
    waiting := s.waiting.filter fun w => !(w.saved.any all.contains)
    coh := { s.coh with monitors := s.coh.monitors.filter fun x => x.2.ctx != ctx
                        waiting := s.coh.waiting.filter fun w => w.ctx != ctx } }
  let s := s.putAway ctx
  let s := s.saveAt (s.ctx ctx).save (s.saveHeader ctx reason (all.filter fun c => !s.recordLost c).length fallback)
  let s := s.saveRecords ((s.ctx ctx).save + 0x1000) all
  (s.faultRecord ctx).comeBack ctx reason

/-! ### Swap-out (R300) -/

/-- Where the record of a clump that is swapped out goes: past the records of the context's other clumps in its save area. -/
def State.swapBase (s : State) (ctx : Nat) : Nat :=
  (s.clumps.filter fun x => x.2.ctx == ctx).foldl (fun a x => Nat.max a ((x.2.record.map fun r => past4 r.1 r.2).getD 0))
    ((s.ctx ctx).save + 0x1000)

/-- Swaps a clump out: its record is written, and its monitors, timers and barriers stay. DEDUCED: notes/assumptions/47.md. -/
def State.swapOut (s : State) (c : Nat) : State :=
  let ctx := (s.clump c).ctx
  let s := (s.writePreds ctx [c]).stopSequencer c
  let s := s.updClump c fun k => { k.mapStrands Strand.swapOut with drained := false }
  (s.saveRecord (s.swapBase ctx) c).updClump c fun k => { k with place := .swapped, parkedSince := none, ltime := s.cts k.coreNo }

/-- R300, R318: a clump that has been fully parked long enough, and of which nothing is under way, is swapped out, with its peer if it is
part of a thicket. The host must have assigned the context a save area. -/
def execClumpSwapOut (clump : Nat) (s : State) : Out :=
  let ctx := (s.clump clump).ctx
  let cs := clump :: ((s.clump clump).peer.filter fun p => (s.clumps.find? p).isSome).toList
  .next (if (s.ctx ctx).save = 0 ∨ !(cs.all fun c => s.longParked c && s.clumpSettled c) then s
    else
      match s.predsPause ctx cs with
      | some x => s.holdClose x.1 x.2.1 x.2.2
      | none => cs.foldl State.swapOut s)

/-! ### Pre-emption -/

/-- A clump of a kernel that declares barrier drain is saved so when the request allows it (R321). -/
def Clump.drains (c : Clump) (reason : Nat) : Bool := c.kernel.drain && c.kernel.dtab.isSome && (reason == 0 || reason == 3)

/-- A clump has drained, or is saved by rollback. -/
def State.drainedOr (s : State) (reason c : Nat) : Bool :=
  let k := s.clump c
  !k.drains reason || k.fallback || k.place != .resident || k.drainedTo (s.drainTable k)

/-- Work of a higher priority than every clump of a context waits, fits nowhere, and would fit on an empty core (R318).
DESIGN CHOICE: notes/assumptions/59.md. -/
def State.outranked (s : State) (ctx : Nat) : Bool :=
  let mine := s.clumps.filter fun x => x.2.ctx == ctx && x.2.place == .resident
  mine != [] && s.waiting.any fun w =>
    s.ctxOf w != ctx && s.mayRun (s.ctxOf w) && !s.entryLost w && (s.shapes w).all (fun x => x.1.placeable x.2) && !s.fitsSomewhere w &&
      mine.all fun x => decide ((s.plantings.getD x.2.planting {}).prio < w.prio)

/-- Clumps of a stopped context begin to drain; for a request that allows no drain, none does. -/
def State.beginDrain (s : State) (ctx reason : Nat) : State :=
  { s with clumps := s.clumps.map fun x =>
      if x.2.ctx == ctx && x.2.place == .resident then
        (x.1, { x.2 with draining := if x.2.drains reason then some (x.2.draining.getD s.cycle) else none })
      else x }

/-- R318: the next stage of a context's pre-emption: the command processor asks for one, clumps begin to drain, or the context,
once all of it has settled, is saved. DESIGN CHOICE: notes/assumptions/59.md. -/
def execPreemption (ctx : Nat) (s : State) : Out :=
  .next (match (s.ctx ctx).stopping with
    | none => if s.outranked ctx then s.requestPreempt ctx 0 else s
    | some r =>
      let s := s.beginDrain ctx r
      let cs := (s.clumps.filter fun x => x.2.ctx == ctx && x.2.place != .saved).map (·.1)
      if s.sheaf.any (fun h => cs.contains h.clump) || !cs.all (fun c => s.clumpSettled c && s.drainedOr r c) then s
      else
        match s.predsPause ctx cs with
        | some x => s.holdClose x.1 x.2.1 x.2.2
        | none => s.saveContext ctx r)

/-- R321: a clump that has not drained within 2^20 cycles is saved by rollback. -/
def execDrainFallbackTimeout (clump : Nat) (s : State) : Out :=
  let c := s.clump clump
  .next (match c.draining with
    | some t =>
      if t + 2 ^ 20 ≤ s.cycle ∧ !c.drainedTo (s.drainTable c) then s.updClump clump fun k => { k with fallback := true } else s
    | none => s)

end Sys2Proof.Machine
end

