-- ==== Sys2Proof/Machine/Module.lean ====
section
/-!
DEFINITION. Module reset, firmware, keys, management, clock and power (R365 to R373), partitions and failures (R357, R358), and
extension words (R19 to R22).
-/

namespace Sys2Proof.Machine

/-! ### Extension words (R19 to R22) -/

/-- R20: an IMMEXT word has no effect of its own; the next word of its chain carries its field. -/
def execImmext (_ : BitVec 22) (s : State) : Out := .next s

/-- R21: a QUAL word has no effect of its own; the next word of its chain carries its fields. -/
def execQual (_ _ : BitVec 1) (_ _ : BitVec 3) (_ : BitVec 2) (_ _ : BitVec 1) (_ : BitVec 2) (_ : BitVec 3) (s : State) : Out :=
  .next s

/-- R22: a REGEXT word has no effect of its own; the next word of its chain carries its fields. -/
def execRegext (_ _ : BitVec 7) (_ : BitVec 8) (s : State) : Out := .next s

/-! ### Reset and firmware (R365, R366) -/

/-- Memory of the module itself, which a bring-up writes with zero (R366): the stacks and the second tier. -/
def ownMemory (pa : Nat) : Bool :=
  decide (pa < 2 ^ 40) || (decide (secondBase ≤ pa) && decide (pa < secondEnd)) || (decide (2 ^ 44 ≤ pa) && decide (pa < 2 ^ 45))

/-- Memory that a module reset leaves: what lies elsewhere. -/
def State.otherMemory (s : State) : Memory := s.mem.filter fun x => !ownMemory x.1

/-- A Mortas port trains, with a link of free width, or stays down (R366). DESIGN CHOICE: notes/assumptions/2.md. -/
def State.trainPort (s : State) (p : Nat) : State :=
  let x := s.freeValue 9
  { x.2 with ctl := { x.2.ctl with pstat := x.2.ctl.pstat.put p 0 (if x.1 % 2 = 1 then 1 + x.1 / 2 * 2 ^ 8 else 0) } }

/-- Bring-up of a verified image: it is measured, with values that the spec does not give, and the ports train (R366).
DESIGN CHOICE: notes/assumptions/2.md. -/
def State.bringUp (s : State) : State :=
  let x := (List.range 4).foldl (fun (r : List Nat × State) _ => let v := r.2.freeValue 512; (r.1 ++ [v.1], v.2)) ([], s)
  (List.range 24).foldl State.trainPort { x.2 with fw := { x.2.fw with meas := x.1, bringUp := true } }

/-- The state after a module reset: what happens outside the module goes on, and the signature index is kept (R368).
DEDUCED: notes/assumptions/70.md. -/
def State.afterReset (s : State) (ok : Bool) : State :=
  { State.reset with
    mem := s.otherMemory, agenda := s.agenda, free := s.free, uid := s.uid
    poison := s.poison.filter fun g => !ownMemory (64 * g)
    fw := { sigIndex := s.fw.sigIndex, recovery := !ok, bringUp := false } }

/-- R365, R366: the image that is staged, or the one in force, is verified; bring-up follows, or recovery.
DEDUCED: notes/assumptions/70.md. -/
def execModuleReset (verified : Bool) (s : State) : Out :=
  let ok := s.fw.staged.getD verified
  .next (if ok then (s.afterReset true).bringUp else s.afterReset false)

/-- R365: an update stages an image for the next module reset; in recovery the part that serves updates does not run. -/
def execFirmwareUpdate (valid : Bool) (s : State) : Out :=
  .next (if s.fw.recovery then s
    else { s with fw := { s.fw with staged := some valid, messages := s.fw.messages + 1 } })

/-- R365: in recovery, the host delivers an image, which the next module reset verifies.
DEDUCED: notes/assumptions/70.md. -/
def execRecoveryImageDelivery (valid : Bool) (s : State) : Out :=
  .next (if s.fw.recovery then { s with fw := { s.fw with staged := some valid } } else s)

/-! ### Identity, keys and management (R367, R368, R373) -/

/-- R368: an SPDM request is answered: signed with the next one-time index, or with an error once all are spent.
DEDUCED: notes/assumptions/73.md. -/
def execSpdmRequest (s : State) : Out :=
  .next { s with fw := { s.fw with sigIndex := Nat.min (s.fw.sigIndex + 1) 65536, messages := s.fw.messages + 1 } }

/-- R373: a platform-monitoring request is answered by the untrusted part. DEDUCED: notes/assumptions/79.md. -/
def execPldmPlatformMonitoring (s : State) : Out :=
  .next (if s.fw.recovery then s else { s with fw := { s.fw with messages := s.fw.messages + 1 } })

/-- Zeroes memory, and whatever the caches held of it; cached translations of its pages go (R356, R367). -/
def State.zeroWhere (s : State) (hit : Nat → Bool) : State :=
  { s with
    mem := s.mem.filter fun x => !hit x.1
    poison := s.poison.filter fun g => !hit (64 * g)
    coh := { s.coh with
      home := s.coh.home.filter fun x => !hit (128 * x.1)
      l1 := s.coh.l1.filter fun x => !hit (128 * (x.1 % 2 ^ 45))
      tlb := s.coh.tlb.filter fun t => let pa := ptePa t.leaf.toNat; !(hit pa || hit (pa + t.size - 1)) } }

/-- The memory that a key slot covers beyond the channels of its set: the GiB of the second tier that the region map gives it.
DESIGN CHOICE: notes/assumptions/72.md. -/
def keyCovers (slot pa : Nat) : Bool :=
  decide (secondBase ≤ pa) && decide (pa < secondEnd) && regionSlot ((pa - secondBase) / 2 ^ 30) == slot

/-- R367: a slot is loaded only when no channel that it covers has an owner; the memory it covers is zeroed first.
DESIGN CHOICE: notes/assumptions/72.md. -/
def execKeySlotLoad (slot key : Nat) (s : State) : Out :=
  .next (if 512 ≤ slot ∨ (slot ≤ 16 ∧ (List.range 256).any fun g => s.ctl.owner.getD g 0 == slot) then s
    else
      let s := s.zeroWhere (keyCovers slot)
      { s with fw := { s.fw with keys := s.fw.keys.insert slot key } })

/-! ### Clock and power (R372) -/

/-- R372: the arithmetic clock steps by 20 MHz, between 400 and 940 MHz; %time goes on from where it stands. -/
def execClockThrottle (up : Bool) (s : State) : Out :=
  let num := s.baseNs * s.mhz + (s.cycle - s.baseCycle) * 1000 * s.baseDen
  let den := s.baseDen * s.mhz
  .next { s with baseNs := num / Nat.gcd num den, baseDen := den / Nat.gcd num den, baseCycle := s.cycle
                 mhz := if up then Nat.min 940 (s.mhz + 20) else Nat.max 400 (s.mhz - 20) }

/-- Stops a context as a context fault does, under a code that the spec does not give (DESIGN CHOICE, notes/assumptions/2.md). One that
is saved and away already has its fault record at once. -/
def State.stopHot (s : State) (ctx : Nat) : State :=
  if (s.ctx ctx).faulted.isSome then s
  else
    let x := s.freeValue 8
    let t := x.2.updCtx ctx fun k => { k with faulted := some x.1, record := some (x.1, 0, 0, 0) }
    if (s.ctx ctx).away then t.faultRecord ctx else t.updCtx ctx fun k => { k with stopping := some 2 }

/-- R372: every context stops as a context fault, and once all of them are saved the compute dies power down.
DEDUCED: notes/assumptions/73.md. -/
def execThermalShutdown (s : State) : Out :=
  .next (if !s.fw.hot then
      (List.range 16).foldl State.stopHot { s with fw := { s.fw with hot := true } }
    else if (List.range 16).all fun c => (s.ctx c).away then { s with fw := { s.fw with powered := false } }
    else s)

/-! ### Partitions and failures (R357, R358) -/

/-- How many channels of a module of the partition its host has given to the shared pool (R349): a free value, since this module is
not told by any rule (DESIGN CHOICE, notes/assumptions/2.md). -/
def State.drawPool (s : State) (n : Nat) : State :=
  let x := s.freeValue 9
  { x.2 with ctl := { x.2.ctl with pools := x.2.ctl.pools.put n 0 (Nat.min x.1 256) } }

/-- R357: the fabric manager assigns the module its number in a partition, the partition's size, and ports, whose links are up; the
width of a link is left open (DESIGN CHOICE, notes/assumptions/2.md), as are the shared pools of the other modules (R349). An
assignment that no partition can have is not made, and none is in recovery, where the part that management runs through is not
started (R365, R373). DEDUCED: notes/assumptions/71.md. -/
def execPartitionBuild (chip psize : Nat) (ports : List Nat) (s : State) : Out :=
  .next (if psize ≤ chip ∨ 576 < psize ∨ ports.any (24 ≤ ·) ∨ s.fw.recovery then s
    else
      let s := { s with ctl := { s.ctl with chip := chip, psize := psize, pstat := [], gone := [], pools := [] } }
      ports.foldl (fun s p =>
        let x := s.freeValue 8
        { x.2 with ctl := { x.2.ctl with pstat := x.2.ctl.pstat.put p 0 (3 + x.1 * 2 ^ 8) } }) ((List.range psize).foldl State.drawPool s))

/-- A module of the partition is out of reach: its window's pages are lost, and with them the pages being pulled from it (R69). -/
def State.loseModule (s : State) (n : Nat) : State :=
  if n = s.ctl.chip ∨ s.ctl.psize ≤ n then s
  else
    let from_ (m : Migration) : Bool := match s.ctl.place m.old with
      | .remote k => k == n
      | _ => false
    let dead := s.dram.migrations.filter from_
    let s := { s with
      ctl := { s.ctl with gone := addOnce s.ctl.gone n }
      dram := { s.dram with migrations := s.dram.migrations.filter (fun m => !from_ m)
                            lost := s.dram.lost ++ dead.map fun m => (m.new, m.size) } }
    if dead = [] then s
    else s.wakeWhere fun k => match k with
      | .migrating _ => true
      | _ => false

/-- R358: a module fails. -/
def execModuleFailure (module : Nat) (s : State) : Out := .next (s.loseModule module)

/-- R358: a port fails; with no other port of the partition up, no route to any other module remains.
DEDUCED: notes/assumptions/71.md. -/
def execMortasPortFailure (port : Nat) (s : State) : Out :=
  let x := s.ctl.pstat.getD port 0
  let s := { s with ctl := { s.ctl with pstat := s.ctl.pstat.put port 0 (x - x % 2) } }
  .next (if s.ctl.pstat.any fun y => y.2 % 4 == 3 then s else (List.range s.ctl.psize).foldl State.loseModule s)

end Sys2Proof.Machine
end

