-- ==== Sys2Proof/Machine/Spad.lean ====
section
/-!
DEFINITION. Scratchpad loads and stores, OP 0x20 (R134 to R136).
-/

namespace Sys2Proof.Machine

/-- A trap that reports a scratchpad offset. -/
def spadTrap (c : Cause) (o : Nat) (detail : Nat := 0) : Trap := { cause := c, addr := o, detail := detail }

/-- Alignment and bounds of an access of `n` bytes (R135). -/
def State.spadCheck (s : State) (o n : Nat) : Option Trap :=
  if o % n ≠ 0 then some (spadTrap .misaligned o)
  else if s.clp.inSpad o n then none else some (spadTrap .spadBounds o)

/-- What a parked load of the chain at hand has read already. -/
def Strand.gotAt (t : Strand) (o n : Nat) : Option Nat :=
  t.got.bind fun x => if x.1 = o ∧ x.2.1 = n then some x.2.2 else none

/-- A strand's scratchpad load; one that needs an absent line parks. In a chain of several words the whole chain waits for the strand,
since no word of it may take effect if the load then traps (R311). DEDUCED: notes/assumptions/81.md. -/
def State.spadLoadLane (s : State) (m : Lane) (o n t : Nat) : State :=
  match s.spadCheck o n with
  | some x => s.trap m x
  | none =>
    match (s.str m).gotAt o n with
    | some x => s.updStr m fun y => y.push (loadWrites t n false x)
    | none =>
    if s.clp.absentIn o n then (if s.sh.solo then s.parkAt m (.spad o n t) else s.hold m (.spad o n t))
    else if s.clp.spadBad o n then s.trap m (spadTrap .poison o)
    else s.updStr m fun x => x.push (loadWrites t n false (s.clp.spadNat o n))

/-- A strand's scratchpad store. -/
def State.spadStoreLane (s : State) (m : Lane) (o n t : Nat) : State :=
  match s.spadCheck o n with
  | some x => s.trap m x
  | none =>
    match s.lockedFor s.coreOf s.ctxNo (some s.sh.clump) o n true with
    | some l => s.trap m (spadTrap .rangeConflict o l.detail)
    | none =>
      let x := s.storeValue m t n
      s.updClump s.sh.clump fun c => { c with spad := writeSpadFrom c.spad o (leBytes n x) }

/-- A scratchpad load by each active strand. -/
def State.spadLoad (s : State) (t base : BitVec 7) (off : BitVec 6) (n : Nat) : State :=
  s.eachLane fun m u => u.spadLoadLane m (s.addrS m base off n).toNat n t.toNat

/-- A scratchpad store by each active strand. -/
def State.spadStore (s : State) (t base : BitVec 7) (off : BitVec 6) (n : Nat) : State :=
  s.eachLane fun m u => u.spadStoreLane m (s.addrS m base off n).toNat n t.toNat

/-- R135. -/
def execLdSp (t base : BitVec 7) (off : BitVec 6) (sz : BitVec 2) (s : State) : Out := .next (s.spadLoad t base off (sizeOf sz))

/-- R135. -/
def execStSp (t base : BitVec 7) (off : BitVec 6) (sz : BitVec 2) (s : State) : Out := .next (s.spadStore t base off (sizeOf sz))

/-- R135. -/
def execLdSpQ (t base : BitVec 7) (off : BitVec 6) (s : State) : Out := .next (s.spadLoad t base off 16)

/-- R135. -/
def execStSpQ (t base : BitVec 7) (off : BitVec 6) (s : State) : Out := .next (s.spadStore t base off 16)

/-- R135: a load parked on absent lines reads them once they are present; its result is then a short-latency one. A chain of several
words that waited for the load issues then. DEDUCED: notes/assumptions/81.md. -/
def execSpadParkedLoadComplete (clump band lane : Nat) (s : State) : Out :=
  let m : Lane := ⟨band, lane⟩
  .next (match (s.strand clump m).park with
    | some ⟨.spad o n t, _, next⟩ =>
      let c := s.clump clump
      if c.absentIn o n then s
      else if c.spadBad o n then s.deliver clump m (spadTrap .poison o) (s.strand clump m).pc
      else
        (s.updStrand clump m fun x =>
          if next.isSome then x.push (loadWrites t n false (c.spadNat o n))
          else { x with got := some (o, n, c.spadNat o n) }).unpark clump m
    | _ => s)

end Sys2Proof.Machine
end

