-- ==== Sys2Proof/Machine/Sys.lean ====
section
/-!
DEFINITION. The SYS instructions, OP 0x2D (R334 to R336).
-/

namespace Sys2Proof.Machine

/-- The 14-bit code of `trap` and `brk` in fields A and B. -/
def sysCode (a b : BitVec 7) : Nat := a.toNat * 128 + b.toNat

/-- R335: a user trap after the chain. -/
def execTrap (a b : BitVec 7) (s : State) : Out :=
  .next (s.eachLane fun m u => u.afterChain m (.trap { cause := .userTrap, addr := sysCode a b }))

/-- R335: a user trap for the strands whose tested value is not zero. -/
def execTrapIf (d a : BitVec 7) (s : State) : Out :=
  .next (s.eachLane fun m u =>
    let x := (s.opA m a).toNat
    if x = 0 then u else u.afterChain m (.trap { cause := .userTrap, addr := x * 2 ^ 24 + d.toNat }))

/-- R335: a breakpoint, or, while host debugging is enabled, a context fault. -/
def execBrk (a b : BitVec 7) (s : State) : Out :=
  let t : Trap := { cause := .breakpoint, addr := sysCode a b }
  .next (s.eachLane fun m u => u.afterChain m (if (s.ctx s.ctxNo).debug then .debug t else .trap t))

/-- The strand waits, before it goes on, until the results that it has outstanding have landed; the chain's other words still read
the values from before the chain (R15). -/
def State.settleLane (s : State) (m : Lane) : State :=
  s.afterChain m (.land (s.str m).out.length none ((s.bnd m).kout.filter fun w => w.lanes.contains m.lane))

/-- A time read once the strand's earlier accesses have performed and its results have landed. -/
def State.readTime (s : State) (d : BitVec 7) (x : Nat) : State :=
  s.eachLane fun m u =>
    if (s.str m).host != [] then u.hold m (.fence 6 0 [])
    else (u.settleLane m).updStr m fun t => t.push (writePair d.toNat (BitVec.ofNat 64 x))

/-- R335: %time. -/
def execRdtime (d : BitVec 7) (s : State) : Out := .next (s.readTime d s.time)

/-- R335: %clock, likewise. -/
def execRdclk (d : BitVec 7) (s : State) : Out := .next (s.readTime d s.cycle)

/-- The first word that is no extension word from a program counter value on; a chain has at most three words. -/
def State.wordAt (s : State) (c : Nat) : Nat → Word → Fetched × State
  | 0, pc => s.fetchWord c pc
  | n + 1, pc =>
    match s.fetchWord c pc with
    | (.word w, s) => if fOp w == 0x3F then s.wordAt c n (pcNext pc) else (.word w, s)
    | r => r

/-- Selector 1: %epc and the word there; where there is no such word, the spec states no value.
DESIGN CHOICE: notes/assumptions/2.md. -/
def State.epcLane (s : State) (m : Lane) (d : Nat) : State :=
  let epc := (s.str m).epc
  match s.wordAt s.sh.clump 2 epc with
  | (.word w, s) => s.updStr m fun t => t.push [.v d epc, .v (d + 1) w]
  | (.absent va level pte base size, s) => s.parkFault m va level pte base size Kind.fetch.code Kind.fetch.code
  | (.wait va, s) => s.hold m (.migrating va)
  | (.fault _, s) =>
    let x := s.freeValue 32
    x.2.updStr m fun t => t.push [.v d epc, .v (d + 1) (BitVec.ofNat 32 x.1)]

/-- R335: reads trap state. -/
def execTrapinfo (d b : BitVec 7) (s : State) : Out :=
  .next (match b.toNat with
    | 0 => s.perLane fun m => writePair d.toNat (s.str m).tinfo
    | 1 => s.eachLane fun m u => u.epcLane m d.toNat
    | _ => s.perLane fun m => writePair d.toNat (s.str m).detail)

/-- R335: returns to %epc, in the gap with the slot map cleared. -/
def execEret (s : State) : Out :=
  .next (s.eachLane fun m u =>
    (u.updStr m fun t => { t with h := false, gap := true, fast := [], super := [] }).moveTo m (s.str m).epc)

/-- R335, R316: stops the context with the value of the lowest lane that halts. -/
def execHalt (a : BitVec 7) (s : State) : Out := .next (s.eachLane fun m u => u.afterChain m (.halt (s.opA m a)))

end Sys2Proof.Machine
end

