-- ==== Sys2Proof/Machine/Dispatch.lean ====
section
/-!
DEFINITION. The dispatch: one arm for each constructor of the instruction type.
-/

namespace Sys2Proof.Machine

def exec (i : Instr) (s : State) : Host.Outcome State Fault Refusal :=
  match i with
  | .issueSlot die core quad => Sys2Proof.Machine.execIssueSlot die core quad s
  | .gatherWindowExpiry clump band => Sys2Proof.Machine.execGatherWindowExpiry clump band s
  | .shortLatencyResultReturn clump band lane idx => Sys2Proof.Machine.execShortLatencyResultReturn clump band lane idx s
  | .engineResultLand clump band idx => Sys2Proof.Machine.execEngineResultLand clump band idx s
  | .trapDelivery clump band lane => Sys2Proof.Machine.execTrapDelivery clump band lane s
  | .coreClockTick core extra cycles => Sys2Proof.Machine.execCoreClockTick core extra cycles s
  | .l2Eviction line => Sys2Proof.Machine.execL2Eviction line s
  | .sharerFilterEviction region cluster => Sys2Proof.Machine.execSharerFilterEviction region cluster s
  | .tokenBucketRefill slice ctx => Sys2Proof.Machine.execTokenBucketRefill slice ctx s
  | .portIdleDetect slice ctx => Sys2Proof.Machine.execPortIdleDetect slice ctx s
  | .portRequestServe slice => Sys2Proof.Machine.execPortRequestServe slice s
  | .waitMonitorWake idx => Sys2Proof.Machine.execWaitMonitorWake idx s
  | .clumpSwapOut clump => Sys2Proof.Machine.execClumpSwapOut clump s
  | .waitBudgetExhausted ctx => Sys2Proof.Machine.execWaitBudgetExhausted ctx s
  | .sleepExpiry clump band lane => Sys2Proof.Machine.execSleepExpiry clump band lane s
  | .yieldExpiry clump band lane => Sys2Proof.Machine.execYieldExpiry clump band lane s
  | .clumpPlacement idx die core => Sys2Proof.Machine.execClumpPlacement idx die core s
  | .clumpEnd clump => Sys2Proof.Machine.execClumpEnd clump s
  | .nodeCompletion graph node => Sys2Proof.Machine.execNodeCompletion graph node s
  | .bandRestart clump band => Sys2Proof.Machine.execBandRestart clump band s
  | .aggregationWindowClose die idx => Sys2Proof.Machine.execAggregationWindowClose die idx s
  | .spawnBinTimerExpiry die idx => Sys2Proof.Machine.execSpawnBinTimerExpiry die idx s
  | .sqtailDoorbell queue value => Sys2Proof.Machine.execSqtailDoorbell queue value s
  | .commandAccept queue => Sys2Proof.Machine.execCommandAccept queue s
  | .cmdNop queue => Sys2Proof.Machine.execCmdNop queue s
  | .cmdGraph queue => Sys2Proof.Machine.execCmdGraph queue s
  | .cmdSignal queue => Sys2Proof.Machine.execCmdSignal queue s
  | .cmdModeSwitch queue => Sys2Proof.Machine.execCmdModeSwitch queue s
  | .cmdWaitValue queue => Sys2Proof.Machine.execCmdWaitValue queue s
  | .waitValueSatisfied queue => Sys2Proof.Machine.execWaitValueSatisfied queue s
  | .commandCompletion queue => Sys2Proof.Machine.execCommandCompletion queue s
  | .chcmdApply value => Sys2Proof.Machine.execChcmdApply value s
  | .channelChangeProceed => Sys2Proof.Machine.execChannelChangeProceed s
  | .channelZeroingComplete => Sys2Proof.Machine.execChannelZeroingComplete s
  | .hstatClear value => Sys2Proof.Machine.execHstatClear value s
  | .sqrefClear queue value => Sys2Proof.Machine.execSqrefClear queue value s
  | .resolveRetry ctx base len => Sys2Proof.Machine.execResolveRetry ctx base len s
  | .resolveAbort ctx base len => Sys2Proof.Machine.execResolveAbort ctx base len s
  | .invalRequest ctx base len => Sys2Proof.Machine.execInvalRequest ctx base len s
  | .invalidationComplete ctx => Sys2Proof.Machine.execInvalidationComplete ctx s
  | .cctlPreempt ctx => Sys2Proof.Machine.execCctlPreempt ctx s
  | .cctlResume ctx => Sys2Proof.Machine.execCctlResume ctx s
  | .cctlDiscard ctx => Sys2Proof.Machine.execCctlDiscard ctx s
  | .cctlDebugEnable ctx => Sys2Proof.Machine.execCctlDebugEnable ctx s
  | .cctlDebugDisable ctx => Sys2Proof.Machine.execCctlDebugDisable ctx s
  | .windowEnable win value => Sys2Proof.Machine.execWindowEnable win value s
  | .windowDisable win value => Sys2Proof.Machine.execWindowDisable win value s
  | .controlSpaceWrite offset size value => Sys2Proof.Machine.execControlSpaceWrite offset size value s
  | .preemption ctx => Sys2Proof.Machine.execPreemption ctx s
  | .drainFallbackTimeout clump => Sys2Proof.Machine.execDrainFallbackTimeout clump s
  | .faultQueuePost ctx => Sys2Proof.Machine.execFaultQueuePost ctx s
  | .migrationRequest ctx va src => Sys2Proof.Machine.execMigrationRequest ctx va src s
  | .chunkPullLand mig chunk ok => Sys2Proof.Machine.execChunkPullLand mig chunk ok s
  | .rowRefresh channel bank => Sys2Proof.Machine.execRowRefresh channel bank s
  | .thermalBandSample stack hot => Sys2Proof.Machine.execThermalBandSample stack hot s
  | .bankCommandAccept group => Sys2Proof.Machine.execBankCommandAccept group s
  | .bankCommandExecute channel bank => Sys2Proof.Machine.execBankCommandExecute channel bank s
  | .bankRedTree op perm => Sys2Proof.Machine.execBankRedTree op perm s
  | .copyCompletion op => Sys2Proof.Machine.execCopyCompletion op s
  | .spadParkedLoadComplete clump band lane => Sys2Proof.Machine.execSpadParkedLoadComplete clump band lane s
  | .engineIssueAfterLock clump band => Sys2Proof.Machine.execEngineIssueAfterLock clump band s
  | .regionTableFill clump band lane => Sys2Proof.Machine.execRegionTableFill clump band lane s
  | .tileLoadComplete op => Sys2Proof.Machine.execTileLoadComplete op s
  | .slotLoadComplete op => Sys2Proof.Machine.execSlotLoadComplete op s
  | .matrixStepRetire op => Sys2Proof.Machine.execMatrixStepRetire op s
  | .drainComplete op => Sys2Proof.Machine.execDrainComplete op s
  | .mgemmSequenceStep op => Sys2Proof.Machine.execMgemmSequenceStep op s
  | .gsetDescriptorRead op => Sys2Proof.Machine.execGsetDescriptorRead op s
  | .tapeChunkReadback clump band => Sys2Proof.Machine.execTapeChunkReadback clump band s
  | .tapeSpillLand clump band => Sys2Proof.Machine.execTapeSpillLand clump band s
  | .fenceComplete clump band lane => Sys2Proof.Machine.execFenceComplete clump band lane s
  | .windowContribution win loc bytes => Sys2Proof.Machine.execWindowContribution win loc bytes s
  | .windowGenerationEnd win => Sys2Proof.Machine.execWindowGenerationEnd win s
  | .mortasPortFailure port => Sys2Proof.Machine.execMortasPortFailure port s
  | .moduleFailure module => Sys2Proof.Machine.execModuleFailure module s
  | .partitionBuild chip psize ports => Sys2Proof.Machine.execPartitionBuild chip psize ports s
  | .hostCxlMemAccess decoder offset bytes => Sys2Proof.Machine.execHostCxlMemAccess decoder offset bytes s
  | .hostSnoop line bytes => Sys2Proof.Machine.execHostSnoop line bytes s
  | .softError kind place idx => Sys2Proof.Machine.execSoftError kind place idx s
  | .moduleReset verified => Sys2Proof.Machine.execModuleReset verified s
  | .firmwareUpdate valid => Sys2Proof.Machine.execFirmwareUpdate valid s
  | .spdmRequest => Sys2Proof.Machine.execSpdmRequest s
  | .keySlotLoad slot key => Sys2Proof.Machine.execKeySlotLoad slot key s
  | .clockThrottle up => Sys2Proof.Machine.execClockThrottle up s
  | .thermalShutdown => Sys2Proof.Machine.execThermalShutdown s
  | .windowRegistrationComplete win => Sys2Proof.Machine.execWindowRegistrationComplete win s
  | .atomicopRoutingEnable enable => Sys2Proof.Machine.execAtomicopRoutingEnable enable s
  | .pldmPlatformMonitoring => Sys2Proof.Machine.execPldmPlatformMonitoring s
  | .recoveryImageDelivery valid => Sys2Proof.Machine.execRecoveryImageDelivery valid s
  | .nop => Sys2Proof.Machine.execNop s
  | .mov d a => Sys2Proof.Machine.execMov d a s
  | .movc d a => Sys2Proof.Machine.execMovc d a s
  | .wrc d a => Sys2Proof.Machine.execWrc d a s
  | .elect d => Sys2Proof.Machine.execElect d s
  | .amask d => Sys2Proof.Machine.execAmask d s
  | .add d a b => Sys2Proof.Machine.execAdd d a b s
  | .sub d a b => Sys2Proof.Machine.execSub d a b s
  | .addc d a b => Sys2Proof.Machine.execAddc d a b s
  | .subb d a b => Sys2Proof.Machine.execSubb d a b s
  | .min d a b => Sys2Proof.Machine.execMin d a b s
  | .max d a b => Sys2Proof.Machine.execMax d a b s
  | .minn d a b => Sys2Proof.Machine.execMinn d a b s
  | .maxn d a b => Sys2Proof.Machine.execMaxn d a b s
  | .addi d a imm => Sys2Proof.Machine.execAddi d a imm s
  | .rsubi d a imm => Sys2Proof.Machine.execRsubi d a imm s
  | .mini d a imm => Sys2Proof.Machine.execMini d a imm s
  | .maxi d a imm => Sys2Proof.Machine.execMaxi d a imm s
  | .minni d a imm => Sys2Proof.Machine.execMinni d a imm s
  | .maxni d a imm => Sys2Proof.Machine.execMaxni d a imm s
  | .andi d a imm => Sys2Proof.Machine.execAndi d a imm s
  | .ori d a imm => Sys2Proof.Machine.execOri d a imm s
  | .mulLo d a b => Sys2Proof.Machine.execMulLo d a b s
  | .mulHi d a b => Sys2Proof.Machine.execMulHi d a b s
  | .mulHin d a b => Sys2Proof.Machine.execMulHin d a b s
  | .madLo d a b => Sys2Proof.Machine.execMadLo d a b s
  | .madHi d a b => Sys2Proof.Machine.execMadHi d a b s
  | .div d a b => Sys2Proof.Machine.execDiv d a b s
  | .divn d a b => Sys2Proof.Machine.execDivn d a b s
  | .rem d a b => Sys2Proof.Machine.execRem d a b s
  | .and d a b => Sys2Proof.Machine.execAnd d a b s
  | .or d a b => Sys2Proof.Machine.execOr d a b s
  | .xor d a b => Sys2Proof.Machine.execXor d a b s
  | .andn d a b => Sys2Proof.Machine.execAndn d a b s
  | .orn d a b => Sys2Proof.Machine.execOrn d a b s
  | .xnor d a b => Sys2Proof.Machine.execXnor d a b s
  | .not d a => Sys2Proof.Machine.execNot d a s
  | .shl d a b => Sys2Proof.Machine.execShl d a b s
  | .shr d a b => Sys2Proof.Machine.execShr d a b s
  | .sra d a b => Sys2Proof.Machine.execSra d a b s
  | .rotl d a b => Sys2Proof.Machine.execRotl d a b s
  | .rotr d a b => Sys2Proof.Machine.execRotr d a b s
  | .shlD d a b => Sys2Proof.Machine.execShlD d a b s
  | .shrD d a b => Sys2Proof.Machine.execShrD d a b s
  | .sraD d a b => Sys2Proof.Machine.execSraD d a b s
  | .shlImm d a imm => Sys2Proof.Machine.execShlImm d a imm s
  | .shrImm d a imm => Sys2Proof.Machine.execShrImm d a imm s
  | .sraImm d a imm => Sys2Proof.Machine.execSraImm d a imm s
  | .rotlImm d a imm => Sys2Proof.Machine.execRotlImm d a imm s
  | .rotrImm d a imm => Sys2Proof.Machine.execRotrImm d a imm s
  | .shlDImm d a imm => Sys2Proof.Machine.execShlDImm d a imm s
  | .shrDImm d a imm => Sys2Proof.Machine.execShrDImm d a imm s
  | .sraDImm d a imm => Sys2Proof.Machine.execSraDImm d a imm s
  | .clz d a => Sys2Proof.Machine.execClz d a s
  | .ctz d a => Sys2Proof.Machine.execCtz d a s
  | .popc d a => Sys2Proof.Machine.execPopc d a s
  | .brev d a => Sys2Proof.Machine.execBrev d a s
  | .bfe d a b => Sys2Proof.Machine.execBfe d a b s
  | .bfen d a b => Sys2Proof.Machine.execBfen d a b s
  | .bfi d a b => Sys2Proof.Machine.execBfi d a b s
  | .sext d a b => Sys2Proof.Machine.execSext d a b s
  | .cmpEq d a b => Sys2Proof.Machine.execCmpEq d a b s
  | .cmpNe d a b => Sys2Proof.Machine.execCmpNe d a b s
  | .cmpLt d a b => Sys2Proof.Machine.execCmpLt d a b s
  | .cmpLe d a b => Sys2Proof.Machine.execCmpLe d a b s
  | .cmpLtn d a b => Sys2Proof.Machine.execCmpLtn d a b s
  | .cmpLen d a b => Sys2Proof.Machine.execCmpLen d a b s
  | .test d a b => Sys2Proof.Machine.execTest d a b s
  | .cmpEqImm d a imm => Sys2Proof.Machine.execCmpEqImm d a imm s
  | .cmpNeImm d a imm => Sys2Proof.Machine.execCmpNeImm d a imm s
  | .cmpLtImm d a imm => Sys2Proof.Machine.execCmpLtImm d a imm s
  | .cmpLeImm d a imm => Sys2Proof.Machine.execCmpLeImm d a imm s
  | .cmpLtnImm d a imm => Sys2Proof.Machine.execCmpLtnImm d a imm s
  | .cmpLenImm d a imm => Sys2Proof.Machine.execCmpLenImm d a imm s
  | .testImm d a imm => Sys2Proof.Machine.execTestImm d a imm s
  | .pand d a b => Sys2Proof.Machine.execPand d a b s
  | .por d a b => Sys2Proof.Machine.execPor d a b s
  | .pxor d a b => Sys2Proof.Machine.execPxor d a b s
  | .pnot d a => Sys2Proof.Machine.execPnot d a s
  | .pmov d a => Sys2Proof.Machine.execPmov d a s
  | .vset d a => Sys2Proof.Machine.execVset d a s
  | .voteAny d a => Sys2Proof.Machine.execVoteAny d a s
  | .voteAll d a => Sys2Proof.Machine.execVoteAll d a s
  | .sel d a b p => Sys2Proof.Machine.execSel d a b p s
  | .addD d a b => Sys2Proof.Machine.execAddD d a b s
  | .subD d a b => Sys2Proof.Machine.execSubD d a b s
  | .lea1 d a b => Sys2Proof.Machine.execLea1 d a b s
  | .lea2 d a b => Sys2Proof.Machine.execLea2 d a b s
  | .lea4 d a b => Sys2Proof.Machine.execLea4 d a b s
  | .lea8 d a b => Sys2Proof.Machine.execLea8 d a b s
  | .lea16 d a b => Sys2Proof.Machine.execLea16 d a b s
  | .mulWide d a b => Sys2Proof.Machine.execMulWide d a b s
  | .movi d imm => Sys2Proof.Machine.execMovi d imm s
  | .fadd d a b => Sys2Proof.Machine.execFadd d a b s
  | .fsub d a b => Sys2Proof.Machine.execFsub d a b s
  | .fmul d a b => Sys2Proof.Machine.execFmul d a b s
  | .fmin d a b => Sys2Proof.Machine.execFmin d a b s
  | .fmax d a b => Sys2Proof.Machine.execFmax d a b s
  | .fdiff d a b => Sys2Proof.Machine.execFdiff d a b s
  | .fcopysign d a b => Sys2Proof.Machine.execFcopysign d a b s
  | .frnd d a => Sys2Proof.Machine.execFrnd d a s
  | .fma d a b => Sys2Proof.Machine.execFma d a b s
  | .fms d a b => Sys2Proof.Machine.execFms d a b s
  | .fnma d a b => Sys2Proof.Machine.execFnma d a b s
  | .fnms d a b => Sys2Proof.Machine.execFnms d a b s
  | .faddH2 d a b => Sys2Proof.Machine.execFaddH2 d a b s
  | .fmulH2 d a b => Sys2Proof.Machine.execFmulH2 d a b s
  | .fmaH2 d a b => Sys2Proof.Machine.execFmaH2 d a b s
  | .faddB2 d a b => Sys2Proof.Machine.execFaddB2 d a b s
  | .fmulB2 d a b => Sys2Proof.Machine.execFmulB2 d a b s
  | .fmaB2 d a b => Sys2Proof.Machine.execFmaB2 d a b s
  | .fminH2 d a b => Sys2Proof.Machine.execFminH2 d a b s
  | .fmaxH2 d a b => Sys2Proof.Machine.execFmaxH2 d a b s
  | .fcmpEq d a b => Sys2Proof.Machine.execFcmpEq d a b s
  | .fcmpNe d a b => Sys2Proof.Machine.execFcmpNe d a b s
  | .fcmpLt d a b => Sys2Proof.Machine.execFcmpLt d a b s
  | .fcmpLe d a b => Sys2Proof.Machine.execFcmpLe d a b s
  | .fcmpUn d a b => Sys2Proof.Machine.execFcmpUn d a b s
  | .fclass d a b => Sys2Proof.Machine.execFclass d a b s
  | .rcp d a => Sys2Proof.Machine.execRcp d a s
  | .rsqrt d a => Sys2Proof.Machine.execRsqrt d a s
  | .sqrt d a => Sys2Proof.Machine.execSqrt d a s
  | .exp2 d a => Sys2Proof.Machine.execExp2 d a s
  | .log2 d a => Sys2Proof.Machine.execLog2 d a s
  | .sinpi d a => Sys2Proof.Machine.execSinpi d a s
  | .cospi d a => Sys2Proof.Machine.execCospi d a s
  | .tanh d a => Sys2Proof.Machine.execTanh d a s
  | .cvt d a dst rnd src => Sys2Proof.Machine.execCvt d a dst rnd src s
  | .pkF8 d a b => Sys2Proof.Machine.execPkF8 d a b s
  | .pkF4 d a b => Sys2Proof.Machine.execPkF4 d a b s
  | .pkI8 d a b => Sys2Proof.Machine.execPkI8 d a b s
  | .pkI4 d a b => Sys2Proof.Machine.execPkI4 d a b s
  | .unpkF8 d a b => Sys2Proof.Machine.execUnpkF8 d a b s
  | .unpkF4 d a b => Sys2Proof.Machine.execUnpkF4 d a b s
  | .unpkI8 d a b => Sys2Proof.Machine.execUnpkI8 d a b s
  | .unpkI4 d a b => Sys2Proof.Machine.execUnpkI4 d a b s
  | .dot8I4 d a b => Sys2Proof.Machine.execDot8I4 d a b s
  | .dot8N4 d a b => Sys2Proof.Machine.execDot8N4 d a b s
  | .dot8I4n4 d a b => Sys2Proof.Machine.execDot8I4n4 d a b s
  | .dot4I8 d a b => Sys2Proof.Machine.execDot4I8 d a b s
  | .dot4N8 d a b => Sys2Proof.Machine.execDot4N8 d a b s
  | .dot4F8a d a b => Sys2Proof.Machine.execDot4F8a d a b s
  | .dot4F8b d a b => Sys2Proof.Machine.execDot4F8b d a b s
  | .dot2B16 d a b => Sys2Proof.Machine.execDot2B16 d a b s
  | .shfl d a b => Sys2Proof.Machine.execShfl d a b s
  | .shflUp d a b => Sys2Proof.Machine.execShflUp d a b s
  | .shflDn d a b => Sys2Proof.Machine.execShflDn d a b s
  | .shflX d a b => Sys2Proof.Machine.execShflX d a b s
  | .rdlane d a b => Sys2Proof.Machine.execRdlane d a b s
  | .ballot d a => Sys2Proof.Machine.execBallot d a s
  | .perm d a b => Sys2Proof.Machine.execPerm d a b s
  | .ptab d a => Sys2Proof.Machine.execPtab d a s
  | .bredAdd d a => Sys2Proof.Machine.execBredAdd d a s
  | .bredMin d a => Sys2Proof.Machine.execBredMin d a s
  | .bredMax d a => Sys2Proof.Machine.execBredMax d a s
  | .bredFadd d a => Sys2Proof.Machine.execBredFadd d a s
  | .bredFmin d a => Sys2Proof.Machine.execBredFmin d a s
  | .bredFmax d a => Sys2Proof.Machine.execBredFmax d a s
  | .scanAdd d a => Sys2Proof.Machine.execScanAdd d a s
  | .scanFadd d a => Sys2Proof.Machine.execScanFadd d a s
  | .kadd d a b => Sys2Proof.Machine.execKadd d a b s
  | .ksub d a b => Sys2Proof.Machine.execKsub d a b s
  | .kmul d a b => Sys2Proof.Machine.execKmul d a b s
  | .kand d a b => Sys2Proof.Machine.execKand d a b s
  | .kor d a b => Sys2Proof.Machine.execKor d a b s
  | .kxor d a b => Sys2Proof.Machine.execKxor d a b s
  | .kshl d a b => Sys2Proof.Machine.execKshl d a b s
  | .kshr d a b => Sys2Proof.Machine.execKshr d a b s
  | .kaddi d a imm => Sys2Proof.Machine.execKaddi d a imm s
  | .kandi d a imm => Sys2Proof.Machine.execKandi d a imm s
  | .kori d a imm => Sys2Proof.Machine.execKori d a imm s
  | .kshli d a imm => Sys2Proof.Machine.execKshli d a imm s
  | .kshri d a imm => Sys2Proof.Machine.execKshri d a imm s
  | .kmovi d imm => Sys2Proof.Machine.execKmovi d imm s
  | .kcmpi d a imm => Sys2Proof.Machine.execKcmpi d a imm s
  | .ldB t base off pol => Sys2Proof.Machine.execLdB t base off pol s
  | .ldH t base off pol => Sys2Proof.Machine.execLdH t base off pol s
  | .ldW t base off pol => Sys2Proof.Machine.execLdW t base off pol s
  | .ldD t base off pol => Sys2Proof.Machine.execLdD t base off pol s
  | .ldsB t base off pol => Sys2Proof.Machine.execLdsB t base off pol s
  | .ldsH t base off pol => Sys2Proof.Machine.execLdsH t base off pol s
  | .stB t base off pol => Sys2Proof.Machine.execStB t base off pol s
  | .stH t base off pol => Sys2Proof.Machine.execStH t base off pol s
  | .stW t base off pol => Sys2Proof.Machine.execStW t base off pol s
  | .stD t base off pol => Sys2Proof.Machine.execStD t base off pol s
  | .ldQ t base off pol => Sys2Proof.Machine.execLdQ t base off pol s
  | .stQ t base off pol => Sys2Proof.Machine.execStQ t base off pol s
  | .ldSvW t base off => Sys2Proof.Machine.execLdSvW t base off s
  | .ldSvQ t base off => Sys2Proof.Machine.execLdSvQ t base off s
  | .atomAdd d a b => Sys2Proof.Machine.execAtomAdd d a b s
  | .atomMin d a b => Sys2Proof.Machine.execAtomMin d a b s
  | .atomMax d a b => Sys2Proof.Machine.execAtomMax d a b s
  | .atomAnd d a b => Sys2Proof.Machine.execAtomAnd d a b s
  | .atomOr d a b => Sys2Proof.Machine.execAtomOr d a b s
  | .atomXor d a b => Sys2Proof.Machine.execAtomXor d a b s
  | .atomXchg d a b => Sys2Proof.Machine.execAtomXchg d a b s
  | .atomIncw d a b => Sys2Proof.Machine.execAtomIncw d a b s
  | .cas d a b => Sys2Proof.Machine.execCas d a b s
  | .casD d a b => Sys2Proof.Machine.execCasD d a b s
  | .casQ d a b => Sys2Proof.Machine.execCasQ d a b s
  | .redAdd a b => Sys2Proof.Machine.execRedAdd a b s
  | .redFadd a b => Sys2Proof.Machine.execRedFadd a b s
  | .atomFadd d a b => Sys2Proof.Machine.execAtomFadd d a b s
  | .redMin a b => Sys2Proof.Machine.execRedMin a b s
  | .redMax a b => Sys2Proof.Machine.execRedMax a b s
  | .ldSp t base off sz => Sys2Proof.Machine.execLdSp t base off sz s
  | .stSp t base off sz => Sys2Proof.Machine.execStSp t base off sz s
  | .ldSpQ t base off => Sys2Proof.Machine.execLdSpQ t base off s
  | .stSpQ t base off => Sys2Proof.Machine.execStSpQ t base off s
  | .fence => Sys2Proof.Machine.execFence s
  | .fenceE => Sys2Proof.Machine.execFenceE s
  | .fenceH => Sys2Proof.Machine.execFenceH s
  | .fenceSw => Sys2Proof.Machine.execFenceSw s
  | .cinv a => Sys2Proof.Machine.execCinv a s
  | .cwb a => Sys2Proof.Machine.execCwb a s
  | .prefetch pol a => Sys2Proof.Machine.execPrefetch pol a s
  | .leaseRenew d a => Sys2Proof.Machine.execLeaseRenew d a s
  | .cpG2s d a b => Sys2Proof.Machine.execCpG2s d a b s
  | .cpS2g d a b => Sys2Proof.Machine.execCpS2g d a b s
  | .cpG2g d a b => Sys2Proof.Machine.execCpG2g d a b s
  | .cpGather d a b => Sys2Proof.Machine.execCpGather d a b s
  | .cpScatter d a b => Sys2Proof.Machine.execCpScatter d a b s
  | .cpWait d a => Sys2Proof.Machine.execCpWait d a s
  | .cpPoll d a => Sys2Proof.Machine.execCpPoll d a s
  | .cpQueue d a b => Sys2Proof.Machine.execCpQueue d a b s
  | .binCount d a b => Sys2Proof.Machine.execBinCount d a b s
  | .binPatch d a b => Sys2Proof.Machine.execBinPatch d a b s
  | .engRelease d => Sys2Proof.Machine.execEngRelease d s
  | .binRead d a b => Sys2Proof.Machine.execBinRead d a b s
  | .swpReg d a => Sys2Proof.Machine.execSwpReg d a s
  | .swpUnreg a => Sys2Proof.Machine.execSwpUnreg a s
  | .swpPos d a b => Sys2Proof.Machine.execSwpPos d a b s
  | .swpWait d a => Sys2Proof.Machine.execSwpWait d a s
  | .swpQueue d a b => Sys2Proof.Machine.execSwpQueue d a b s
  | .swpStat d a => Sys2Proof.Machine.execSwpStat d a s
  | .bankTbl d a b => Sys2Proof.Machine.execBankTbl d a b s
  | .bankLut d a => Sys2Proof.Machine.execBankLut d a s
  | .bankBcast d a b => Sys2Proof.Machine.execBankBcast d a b s
  | .bankRed d a b => Sys2Proof.Machine.execBankRed d a b s
  | .bankSync d a b => Sys2Proof.Machine.execBankSync d a b s
  | .bankClr d a => Sys2Proof.Machine.execBankClr d a s
  | .waitEq d a b => Sys2Proof.Machine.execWaitEq d a b s
  | .waitNe d a b => Sys2Proof.Machine.execWaitNe d a b s
  | .waitGeu d a b => Sys2Proof.Machine.execWaitGeu d a b s
  | .waitMask d a b => Sys2Proof.Machine.execWaitMask d a b s
  | .yield => Sys2Proof.Machine.execYield s
  | .sleep d a => Sys2Proof.Machine.execSleep d a s
  | .wake a => Sys2Proof.Machine.execWake a s
  | .barInit a b => Sys2Proof.Machine.execBarInit a b s
  | .barArrive d a => Sys2Proof.Machine.execBarArrive d a s
  | .barWait a b => Sys2Proof.Machine.execBarWait a b s
  | .barSync a => Sys2Proof.Machine.execBarSync a s
  | .barArriveT d a => Sys2Proof.Machine.execBarArriveT d a s
  | .barSyncT a => Sys2Proof.Machine.execBarSyncT a s
  | .barTest d a b => Sys2Proof.Machine.execBarTest d a b s
  | .br neg p disp slot => Sys2Proof.Machine.execBr neg p disp slot s
  | .jmpr a => Sys2Proof.Machine.execJmpr a s
  | .callr a => Sys2Proof.Machine.execCallr a s
  | .ret => Sys2Proof.Machine.execRet s
  | .brx a b => Sys2Proof.Machine.execBrx a b s
  | .call neg p disp slot => Sys2Proof.Machine.execCall neg p disp slot s
  | .exit => Sys2Proof.Machine.execExit s
  | .exitNext d a => Sys2Proof.Machine.execExitNext d a s
  | .spawn a b => Sys2Proof.Machine.execSpawn a b s
  | .launch a b => Sys2Proof.Machine.execLaunch a b s
  | .result d a => Sys2Proof.Machine.execResult d a s
  | .region d a b => Sys2Proof.Machine.execRegion d a b s
  | .trap a b => Sys2Proof.Machine.execTrap a b s
  | .trapIf d a => Sys2Proof.Machine.execTrapIf d a s
  | .brk a b => Sys2Proof.Machine.execBrk a b s
  | .rdtime d => Sys2Proof.Machine.execRdtime d s
  | .rdclk d => Sys2Proof.Machine.execRdclk d s
  | .trapinfo d b => Sys2Proof.Machine.execTrapinfo d b s
  | .eret => Sys2Proof.Machine.execEret s
  | .halt a => Sys2Proof.Machine.execHalt a s
  | .topen a => Sys2Proof.Machine.execTopen a s
  | .tclose d => Sys2Proof.Machine.execTclose d s
  | .trec d a n1 p => Sys2Proof.Machine.execTrec d a n1 p s
  | .tbr a p => Sys2Proof.Machine.execTbr a p s
  | .trev => Sys2Proof.Machine.execTrev s
  | .tpop d a n1 p => Sys2Proof.Machine.execTpop d a n1 p s
  | .tmark a b => Sys2Proof.Machine.execTmark a b s
  | .tstat d which => Sys2Proof.Machine.execTstat d which s
  | .tres d a => Sys2Proof.Machine.execTres d a s
  | .trel a => Sys2Proof.Machine.execTrel a s
  | .tld d a => Sys2Proof.Machine.execTld d a s
  | .tscale d a => Sys2Proof.Machine.execTscale d a s
  | .tinfo d a => Sys2Proof.Machine.execTinfo d a s
  | .mload d a b => Sys2Proof.Machine.execMload d a b s
  | .mma d a colq slot => Sys2Proof.Machine.execMma d a colq slot s
  | .mmaPair d a colq slot => Sys2Proof.Machine.execMmaPair d a colq slot s
  | .mmag d a colq slot => Sys2Proof.Machine.execMmag d a colq slot s
  | .mmagPair d a colq slot => Sys2Proof.Machine.execMmagPair d a colq slot s
  | .mzero d => Sys2Proof.Machine.execMzero d s
  | .mgemm d a b => Sys2Proof.Machine.execMgemm d a b s
  | .mwait a => Sys2Proof.Machine.execMwait a s
  | .mbegin d => Sys2Proof.Machine.execMbegin d s
  | .mend d => Sys2Proof.Machine.execMend d s
  | .mdrain d a b => Sys2Proof.Machine.execMdrain d a b s
  | .mst a b => Sys2Proof.Machine.execMst a b s
  | .mact d a b => Sys2Proof.Machine.execMact d a b s
  | .mloadg d a => Sys2Proof.Machine.execMloadg d a s
  | .gset d a => Sys2Proof.Machine.execGset d a s
  | .gseed d a => Sys2Proof.Machine.execGseed d a s
  | .gread d a b => Sys2Proof.Machine.execGread d a b s
  | .gscope d a => Sys2Proof.Machine.execGscope d a s
  | .immext imm => Sys2Proof.Machine.execImmext imm s
  | .qual gen neg p scope order ub ua cache rm => Sys2Proof.Machine.execQual gen neg p scope order ub ua cache rm s
  | .regext e f mode => Sys2Proof.Machine.execRegext e f mode s

end Sys2Proof.Machine
end

