-- ==== Sys2Proof/Machine/Load.lean ====
section
/-!
DEFINITION. What loading a program from outside the module leaves (DEDUCED, notes/assumptions/11.md): one resident clump whose 32
strands form the sheaf that issues next.
-/

namespace Sys2Proof.Machine

/-- Where the loaded code segment lies, physical and virtual. -/
def loadBase : Nat := 0x10000

/-- The kernel of a loaded program, granted every resource of a core. DEDUCED: notes/assumptions/11.md. -/
def loadKernel : Kernel :=
  { codeBase := loadBase, codeLen := 0x10000, bands := 1, regs := 128, bar := 64, acc := 4, slots := 2, thicket := true,
    spad := 0x10000 }

/-- A band of 32 live strands at program counter 0. -/
def loadBand : Band := { strands := (List.range 32).map fun l => (l, {}) }

/-- The clump of a loaded program. DEDUCED: notes/assumptions/11.md. -/
def loadClump : Clump := { planting := 1, kernel := loadKernel, thicket := 1, bands := [loadBand] }

/-- The sheaf of the loaded clump's strands at program counter 0. -/
def loadSheaf : Sheaf :=
  { clump := 1, die := 0, core := 0, quad := 0, at_ := 0, pc := 0, next := 1, lanes := (List.range 32).map fun l => ⟨0, l⟩ }

/-- The word stored at the loaded code segment, its page translated (a 1 GiB leaf at virtual and physical 0 that may be
written and executed), its clump resident and its sheaf formed. DEDUCED: notes/assumptions/11.md. -/
def State.loadWord (s : State) (w : Nat) : State :=
  { s with
    mem := s.mem.writeNat loadBase 4 w
    sheaf := some loadSheaf
    clumps := s.clumps.insert 1 loadClump
    plantings := s.plantings.insert 1 { kernel := loadKernel }
    uid := Nat.max s.uid 2
    coh := { s.coh with tlb := ⟨0, 0, 2 ^ 30, 0x33⟩ :: s.coh.tlb } }

end Sys2Proof.Machine
end

