-- ==== Sys2Proof/Machine/Scheduler.lean ====
section
/-!
DEFINITION. The event that happens when the state's own list of events is empty: a default order of the module's units
(DESIGN CHOICE, notes/assumptions/1.md). The spec fixes no order between them.
-/

namespace Sys2Proof.Machine

/-- Events that need the compute dies: issue, placement, and accesses at the home slices (R372). -/
def needsDies : Instr → Bool
  | .issueSlot _ _ _ => true
  | .clumpPlacement _ _ _ => true
  | .hostCxlMemAccess _ _ _ => true
  | .hostSnoop _ _ => true
  | .windowContribution _ _ _ => true
  | .windowGenerationEnd _ => true
  | _ => false

/-- Events of a strand. -/
def strandEvents (c b : Nat) (x : Nat × Strand) : List Instr :=
  (if x.2.out = [] then [] else [.shortLatencyResultReturn c b x.1 0]) ++
    (if x.2.host = [] then [] else [.shortLatencyResultReturn c b (64 + x.1) 0]) ++
    (if x.2.trap.isSome then [.trapDelivery c b x.1] else []) ++
    match x.2.park with
    | some p => match p.on with
      | .spad _ _ _ => [.spadParkedLoadComplete c b x.1]
      | .sleep _ _ => [.sleepExpiry c b x.1]
      | .yield _ => [.yieldExpiry c b x.1]
      | .fence _ _ _ => [.fenceComplete c b x.1]
      | .regionMiss _ => [.regionTableFill c b x.1]
      | _ => []
    | none => []

/-- Events of a band. -/
def bandEvents (c : Nat) (x : Nat × Band) : List Instr :=
  x.2.strands.flatMap (strandEvents c x.1) ++
    (if x.2.kout = [] then [] else [.shortLatencyResultReturn c x.1 32 0]) ++
    ((List.range x.2.engOut.length).map fun i => .engineResultLand c x.1 i) ++
    (if x.2.held.isSome then [.gatherWindowExpiry c x.1] else []) ++
    [.bandRestart c x.1, .tapeChunkReadback c x.1, .tapeSpillLand c x.1]

/-- Events of the clumps. -/
def State.clumpEvents (s : State) : List Instr :=
  s.clumps.flatMap fun x =>
    ((List.range x.2.bands.length).zip x.2.bands).flatMap (bandEvents x.1) ++ [.clumpEnd x.1, .clumpSwapOut x.1, .drainFallbackTimeout x.1]

/-- The event that completes an operation. -/
def Op.event (o : Op) : List Instr :=
  match o.kind with
  | .copy _ _ => [.copyCompletion o.id]
  | .tload _ _ => [.tileLoadComplete o.id]
  | .tscale _ _ => [.tileLoadComplete o.id]
  | .mload _ _ _ => [.slotLoadComplete o.id]
  | .mloadg _ _ _ _ => [.slotLoadComplete o.id]
  | .step _ _ _ _ _ _ => [.matrixStepRetire o.id]
  | .sum _ _ => [.matrixStepRetire o.id]
  | .mwait _ => [.matrixStepRetire o.id]
  | .drain _ _ _ _ => [.drainComplete o.id]
  | .mact _ _ _ => [.drainComplete o.id]
  | .mgemm _ => [.mgemmSequenceStep o.id]
  | .gset _ _ => [.gsetDescriptorRead o.id]
  | .bank _ _ _ _ _ _ _ _ _ => [.bankRedTree o.id []]
  -- the events of its band, clump or sweep bring these on
  | .pend _ => []
  | .queue _ _ => []
  | .tape _ _ => []
  | .close => []

/-- Events of the memory system. -/
def State.memEvents (s : State) : List Instr :=
  (s.coh.monitors.map fun x => .waitMonitorWake x.1) ++
    (s.coh.waiting.flatMap fun r => [.portRequestServe r.slice, .tokenBucketRefill r.slice r.ctx]) ++
    ((List.range s.dram.migrations.length).zip s.dram.migrations).flatMap (fun x => x.2.left.map fun c => .chunkPullLand x.1 c true) ++
    (s.dram.port.map fun x => .bankCommandAccept x.1) ++
    (s.dram.queue.map fun x => .bankCommandExecute (x.1 / 32) (x.1 % 32)) ++
    (s.ctl.windows.flatMap fun x => [.windowRegistrationComplete x.1, .windowGenerationEnd x.1])

/-- Events of the command processor. -/
def State.commandEvents (s : State) : List Instr :=
  (s.ctl.queues.flatMap fun x =>
    [.commandAccept x.1, .cmdNop x.1, .cmdGraph x.1, .cmdSignal x.1, .cmdModeSwitch x.1, .cmdWaitValue x.1, .waitValueSatisfied x.1,
     .commandCompletion x.1]) ++
    (s.graphs.flatMap fun x => (List.range x.2.states.length).map fun n => .nodeCompletion x.1 n) ++
    ((List.range s.aggs.length).flatMap fun i => (List.range Config.dies).map fun d => .aggregationWindowClose d i) ++
    ((List.range s.bins.length).flatMap fun i => (List.range Config.dies).map fun d => .spawnBinTimerExpiry d i) ++
    [.channelChangeProceed, .channelZeroingComplete] ++ (if s.fw.hot then [.thermalShutdown] else [])

/-- The first place where the first waiting entry that fits goes. -/
def State.placeEvents (s : State) : List Instr :=
  (((List.range s.waiting.length).zip s.waiting).findSome? fun x =>
    if s.mayRun (s.ctxOf x.2) && s.isNext x.1 x.2 then
      (List.range (Config.dies * Config.coresPerDie)).findSome? fun n =>
        let d := n / Config.coresPerDie
        let c := n % Config.coresPerDie
        if (s.fitsAt x.2 d c).isSome then some (.clumpPlacement x.1 d c) else none
    else none).toList

/-- Events of the contexts; a stopped context comes to be saved. -/
def ctxEvents : List Instr :=
  (List.range 16).flatMap fun c => [.waitBudgetExhausted c, .faultQueuePost c, .invalidationComplete c, .preemption c]

/-- Bands that wait at issue issue again. -/
def State.retryEvents (s : State) : List Instr :=
  s.clumps.flatMap fun x => (List.range x.2.bands.length).map fun b => .engineIssueAfterLock x.1 b

/-- An event changes the state. DESIGN CHOICE: notes/assumptions/1.md. -/
def State.acts (s : State) (e : Instr) : Bool :=
  match exec e s with
  | .next t => t != s
  | _ => true

/-- Issue slots that have not been used in the cycles so far, of quadrants with a ready strand or one that counts them. -/
def State.slotEvents (s : State) : List Instr :=
  ((s.clumps.filter fun x => x.2.place == .resident).flatMap fun x =>
      (x.2.bands.filter fun b => s.issues x.2 || b.begun).map fun b => (x.2.die, x.2.core, b.quad)).dedup.filterMap fun q =>
    let n := coreNo q.1 q.2.1
    let yields := s.clumps.any fun x => x.2.coreNo == n && x.2.bands.any fun b => b.quad == q.2.2 &&
      (b.held.isSome || b.strands.any fun y => match y.2.park with
        | some ⟨.yield _, _, _⟩ => true
        | _ => false)
    if s.slotCount n q.2.2 ≤ s.cycle ∧ (yields ∨ s.cands n q.2.2 ≠ []) then some (.issueSlot q.1 q.2.1 q.2.2) else none

/-- A row refresh that is due, while a sweep is registered (R56): the nominal times of the band in force of each stack.
DEDUCED: notes/assumptions/34.md. -/
def State.refreshEvents (s : State) : List Instr :=
  if s.dram.sweeps = [] then []
  else
    ((List.range 8192).find? fun b => decide (s.dram.pass.getD b 0 * 2 ^ 16 + s.dram.row.getD b 0 < s.nominalDue (b / 32 % 16))).toList.map fun b =>
      .rowRefresh (b / 32) (b % 32)

/-- The default next event: the first that changes something; where none does, a cycle passes.
DESIGN CHOICE: notes/assumptions/1.md. -/
def State.nextEvent (s : State) : Instr :=
  let quiet := s.clumpEvents ++ s.ops.flatMap Op.event ++ (s.late.map fun w => .copyCompletion w.id) ++ s.memEvents ++ s.commandEvents ++ s.placeEvents ++ ctxEvents ++ s.retryEvents
  (((quiet.find? s.acts).or (s.slotEvents.head?)).or (s.refreshEvents.head?)).getD (.coreClockTick 0 0 1)

end Sys2Proof.Machine
end

