-- ==== Sys2Proof/Machine/Step.lean ====
section
/-!
DEFINITION. One step of the machine: the chain of a sheaf that has been formed issues; otherwise the next event happens.
-/

namespace Sys2Proof.Machine

/-- One event: a row of the table that is no event has no sheaf to act on, and changes nothing.
DESIGN CHOICE: notes/assumptions/1.md. DEDUCED: notes/assumptions/76.md. -/
def State.happen (s : State) (e : Instr) : Host.Outcome State Fault Refusal := if e.isEvent then exec e s else .next s

/-- One step. Once the compute dies are powered down, what needs them is a fault; the rest of the module goes on (R372).
DEDUCED: notes/assumptions/73.md. -/
noncomputable def step (s : State) : Host.Outcome State Fault Refusal :=
  match s.sheaf, s.agenda with
  | some _, _ => if s.fw.powered then s.issue exec else .fault .poweredDown
  | none, e :: r => if s.fw.powered || !needsDies e then ({ s with agenda := r }).happen e else .fault .poweredDown
  | none, [] => s.happen s.nextEvent

/-- The state with an instruction's word stored where the next step fetches its instruction: what the host's load of a
program, the placement of a clump and the choice of an issue slot would leave (DEDUCED, notes/assumptions/11.md). -/
def State.withFetchWord (s : State) (nbits w : Nat) : State := s.loadWord (w % 2 ^ nbits)

end Sys2Proof.Machine
end

