-- ==== Sys2Proof/Safety.lean ====
section
/-!
DEFINITION. The terms in which claims speak of a state: which strands it lists, when a sheaf is well formed, what a step
leaves unchanged, and the invariant that every step keeps.
-/

namespace Sys2Proof.Machine

/-- The state lists a strand: its clump, its band in the clump, its lane in the band. -/
structure State.Lists (s : State) (c : Nat) (m : Lane) : Prop where
  clump : (s.clumps.find? c).isSome
  band : m.band < (s.clump c).bands.length
  lane : ((s.band c m.band).strands.find? m.lane).isSome

/-- A sheaf is being issued (R11): its strands are distinct, and the state lists each. -/
structure State.Formed (s : State) : Prop where
  sheaf : s.sheaf.isSome
  nodup : s.sh.lanes.Nodup
  lists : ∀ m ∈ s.sh.lanes, s.Lists s.sh.clump m

/-- Two clumps differ at most in their strands. -/
structure Clump.SameBut (k k' : Clump) : Prop where
  own : k' = { k with bands := k'.bands }
  length : k'.bands.length = k.bands.length
  bands : ∀ b, k'.band b = { k.band b with strands := (k'.band b).strands }

/-- Two states differ at most in their strands: memory, every context, control space, the memory system, engines, and of each
clump and band everything but its strands are the same. -/
structure State.OnlyStrands (s t : State) : Prop where
  rest : t = { s with clumps := t.clumps }
  clumps : ∀ c, (s.clump c).SameBut (t.clump c)

/-- `t` is `s` with results outstanding (R14): each strand on which the word at hand acts has `ws` pending, to land later;
every other strand, and everything else, is unchanged. -/
structure State.Gives (s t : State) (ws : Lane → List RegWrite) : Prop where
  acts : ∀ m ∈ s.active, t.str m = (s.str m).push (ws m)
  others : ∀ c m, (c ≠ s.sh.clump ∨ m ∉ s.active) → t.strand c m = s.strand c m
  frame : s.OnlyStrands t

/-- `t` is `s` with each strand on which the word at hand acts changed by `f`, and nothing else. -/
structure State.Changes (s t : State) (f : Lane → Strand → Strand) : Prop where
  acts : ∀ m ∈ s.active, t.str m = f m (s.str m)
  others : ∀ c m, (c ≠ s.sh.clump ∨ m ∉ s.active) → t.strand c m = s.strand c m
  frame : s.OnlyStrands t

/-- `t` is `s` with each band that has a participant (R167) changed by `f`, and nothing else. -/
structure State.ChangesBands (s t : State) (f : Nat → List Lane → Band → Band) : Prop where
  acts : ∀ x ∈ s.activeBands, t.clp.band x.1 = f x.1 x.2 (s.clp.band x.1)
  others : ∀ c b, (c ≠ s.sh.clump ∨ ∀ x ∈ s.activeBands, x.1 ≠ b) → t.band c b = s.band c b
  rest : t = { s with clumps := t.clumps }
  clumps : ∀ c, t.clump c = { s.clump c with bands := (t.clump c).bands }

/-- The keys of a sparse map rise strictly. -/
def Sorted {α : Type} (m : SMap α) : Prop := SMap.wfFrom (fun _ => true) 0 m = true

/-- The invariant of the memory system, which every step keeps: memory is in its canonical form, and so are the lists of L1
copies, of their bytes and of what homes know; a core that holds an owned copy of a line is the owner that the line's home knows,
so that a line has at most one owned copy (R94); the words of an owned copy that its owner has not written are as they are at
home; and cached translations are of whole pages. -/
structure State.Inv (s : State) : Prop where
  memory : s.mem.wf = true
  copies : Sorted s.coh.l1
  homes : Sorted s.coh.home
  data : ∀ core line l, line < 2 ^ 45 → s.l1 core line = some l → Sorted l.data
  owner : ∀ core line l, line < 2 ^ 45 → s.l1 core line = some l → l.st = .own → (s.homeLine line).owner = some core
  clean : ∀ core line l, line < 2 ^ 45 → s.l1 core line = some l → l.st = .own →
    ∀ i < 128, i / 4 ∉ l.dirty → l.data.getD i 0 = s.mem.read (128 * line + i)
  pages : ∀ x ∈ s.coh.tlb, x.va % 2 ^ 16 = 0

end Sys2Proof.Machine
end

