-- ==== Sys2Proof/Certificates/Slice0/Obligations.lean ====
section
/-!
DEFINITION. The statements for the provers, each with the rule of spec/ that it formalises.
-/

namespace Sys2Proof.Claims
open Sys2Proof.Machine

/-- An instruction completes: `exec` answers a next state, of which `P` holds. -/
def Completes (i : Instr) (s : State) (P : State → Prop) : Prop := ∃ t, exec i s = .next t ∧ P t

/-- A signed number cut to 32 bits, and its least and greatest values. -/
def cut (x : Int) : Word := BitVec.ofInt 32 x
def leastI : Int := -(2 ^ 31)
def greatestI : Int := 2 ^ 31 - 1

/-- The immediate of format I as a number: IMM7, or the 29 bits of IMMEXT and IMM7, sign-extended (R20, R174). -/
def immValue (s : State) (i : BitVec 7) : Int :=
  match s.sh.ext.imm with
  | none => i.toInt
  | some h => (h ++ i : BitVec 29).toInt

/-- The words of OP 0x01 (R174) in the order of FN, with their results from A and B. -/
def addWords (d a b : BitVec 7) : List (Instr × (Word → Word → Word)) :=
  [(.add d a b, fun x y => BitVec.ofNat 32 (x.toNat + y.toNat)),
   (.sub d a b, fun x y => cut (x.toInt - y.toInt)),
   (.addc d a b, fun x y => if 2 ^ 32 ≤ x.toNat + y.toNat then 1 else 0),
   (.subb d a b, fun x y => if x.toNat < y.toNat then 1 else 0),
   (.min d a b, fun x y => cut (min x.toInt y.toInt)),
   (.max d a b, fun x y => cut (max x.toInt y.toInt)),
   (.minn d a b, fun x y => BitVec.ofNat 32 (min x.toNat y.toNat)),
   (.maxn d a b, fun x y => BitVec.ofNat 32 (max x.toNat y.toNat))]

/-- Format I words of OP 0x02, from A and the immediate's number. -/
def withImmediate (d a i : BitVec 7) : List (Instr × (Word → Int → Word)) :=
  [(.addi d a i, fun x n => cut (x.toInt + n)),
   (.rsubi d a i, fun x n => cut (n - x.toInt)),
   (.mini d a i, fun x n => cut (min x.toInt n)),
   (.maxi d a i, fun x n => cut (max x.toInt n)),
   (.minni d a i, fun x n => BitVec.ofNat 32 (min x.toNat (cut n).toNat)),
   (.maxni d a i, fun x n => BitVec.ofNat 32 (max x.toNat (cut n).toNat)),
   (.andi d a i, fun x n => x &&& cut n),
   (.ori d a i, fun x n => x ||| cut n)]

/-- The words of OP 0x03 (R175, R176) in the order of FN, with their results from D, A and B. -/
def multiplyWords (d a b : BitVec 7) : List (Instr × (Word → Word → Word → Word)) :=
  [(.mulLo d a b, fun _ x y => cut (x.toInt * y.toInt)),
   (.mulHi d a b, fun _ x y => cut (x.toInt * y.toInt / 2 ^ 32)),
   (.mulHin d a b, fun _ x y => BitVec.ofNat 32 (x.toNat * y.toNat / 2 ^ 32)),
   (.madLo d a b, fun z x y => cut (z.toInt + x.toInt * y.toInt)),
   (.madHi d a b, fun z x y => cut (z.toInt + x.toInt * y.toInt / 2 ^ 32)),
   (.div d a b, fun _ x y => if y = 0 then 0xFFFFFFFF else cut (x.toInt.tdiv y.toInt)),
   (.divn d a b, fun _ x y => if y = 0 then 0xFFFFFFFF else BitVec.ofNat 32 (x.toNat / y.toNat)),
   (.rem d a b, fun _ x y => if y = 0 then x else cut (x.toInt.tmod y.toInt))]

/-- The three-register words of R177 in the order of FN, with their results. -/
def logicWords (d a b : BitVec 7) : List (Instr × (Word → Word → Word)) :=
  [(.and d a b, fun x y => x &&& y),
   (.or d a b, fun x y => x ||| y),
   (.xor d a b, fun x y => x ^^^ y),
   (.andn d a b, fun x y => x &&& ~~~y),
   (.orn d a b, fun x y => x ||| ~~~y),
   (.xnor d a b, fun x y => ~~~(x ^^^ y))]

/-- The shifts and rotates of a word (R178) in the order of FN: the register form, the immediate form, and the result for an
amount. -/
def shiftWords (d a b : BitVec 7) : List (Instr × Instr × (Word → Nat → Word)) :=
  [(.shl d a b, .shlImm d a b, fun x n => if 32 ≤ n then 0 else BitVec.ofNat 32 (x.toNat * 2 ^ n)),
   (.shr d a b, .shrImm d a b, fun x n => BitVec.ofNat 32 (x.toNat / 2 ^ n)),
   (.sra d a b, .sraImm d a b, fun x n => cut (x.toInt / 2 ^ (min n 31))),
   (.rotl d a b, .rotlImm d a b, fun x n => x.rotateLeft (n % 32)),
   (.rotr d a b, .rotrImm d a b, fun x n => x.rotateRight (n % 32))]

/-- The shifts of a pair, from FN 5 on. -/
def pairShifts (d a b : BitVec 7) : List (Instr × Instr × (DWord64 → Nat → DWord64)) :=
  [(.shlD d a b, .shlDImm d a b, fun x n => if 64 ≤ n then 0 else x <<< n),
   (.shrD d a b, .shrDImm d a b, fun x n => BitVec.ofNat 64 (x.toNat / 2 ^ n)),
   (.sraD d a b, .sraDImm d a b, fun x n => BitVec.ofInt 64 (x.toInt / 2 ^ (min n 63)))]

/-- The field of R179 that B selects: its position, and its length within the word. -/
def fieldAt (b : Word) : Nat × Nat :=
  let pos := b.toNat % 2 ^ 8
  (pos, min (pos + b.toNat / 2 ^ 8 % 2 ^ 8) 32 - pos)

/-- The field's bits as an unsigned number. -/
def fieldBits (a b : Word) : Nat := a.toNat / 2 ^ (fieldAt b).1 % 2 ^ (fieldAt b).2

/-- The words of OP 0x07 (R179) in the order of FN, with their results from D, A and B; the first four have no B. -/
def bitWords (d a b : BitVec 7) : List (Instr × (Word → Word → Word → Word)) :=
  [(.clz d a, fun _ x _ => BitVec.ofNat 32 (if x = 0 then 32 else 31 - x.toNat.log2)),
   (.ctz d a, fun _ x _ => BitVec.ofNat 32 (((List.range 32).findIdx? fun i => x.getLsbD i).getD 32)),
   (.popc d a, fun _ x _ => BitVec.ofNat 32 ((List.range 32).countP fun i => x.getLsbD i)),
   (.brev d a, fun _ x _ => x.reverse),
   (.bfe d a b, fun _ x y => if (fieldAt y).2 = 0 then 0 else
      if 2 ^ ((fieldAt y).2 - 1) ≤ fieldBits x y then cut ((fieldBits x y : Int) - 2 ^ (fieldAt y).2)
      else BitVec.ofNat 32 (fieldBits x y)),
   (.bfen d a b, fun _ x y => BitVec.ofNat 32 (fieldBits x y)),
   (.bfi d a b, fun z x y => BitVec.ofNat 32 ((List.range 32).foldl (fun n i =>
      n + (if (if (fieldAt y).1 ≤ i ∧ i < (fieldAt y).1 + (fieldAt y).2 then x.getLsbD (i - (fieldAt y).1) else z.getLsbD i)
        then 2 ^ i else 0)) 0)),
   (.sext d a b, fun _ x y => cut ((BitVec.ofNat (y.toNat % 32 + 1) x.toNat).toInt))]

/-- The words of OP 0x0C (R183) in the order of FN, with their results from the pairs and the words in A and B. -/
def addressWords (d a b : BitVec 7) : List (Instr × (DWord64 → DWord64 → Word → Word → DWord64)) :=
  let scaled (k : Int) (x : DWord64) (y : Word) : DWord64 := BitVec.ofInt 64 (x.toInt + y.toInt * k)
  [(.addD d a b, fun x y _ _ => BitVec.ofNat 64 (x.toNat + y.toNat)),
   (.subD d a b, fun x y _ _ => BitVec.ofInt 64 (x.toInt - y.toInt)),
   (.lea1 d a b, fun x _ _ y => scaled 1 x y),
   (.lea2 d a b, fun x _ _ y => scaled 2 x y),
   (.lea4 d a b, fun x _ _ y => scaled 4 x y),
   (.lea8 d a b, fun x _ _ y => scaled 8 x y),
   (.lea16 d a b, fun x _ _ y => scaled 16 x y),
   (.mulWide d a b, fun _ _ x y => BitVec.ofInt 64 (x.toInt * y.toInt))]

/-- The conditions of R180 on A and the second operand. -/
def conditions : List ((BitVec 3 → BitVec 7 → BitVec 7 → Instr) × (BitVec 3 → BitVec 7 → BitVec 7 → Instr) ×
    (Word → Word → Bool)) :=
  [(.cmpEq, .cmpEqImm, fun x y => decide (x = y)),
   (.cmpNe, .cmpNeImm, fun x y => decide (x ≠ y)),
   (.cmpLt, .cmpLtImm, fun x y => decide (x.toInt < y.toInt)),
   (.cmpLe, .cmpLeImm, fun x y => decide (x.toInt ≤ y.toInt)),
   (.cmpLtn, .cmpLtnImm, fun x y => decide (x.toNat < y.toNat)),
   (.cmpLen, .cmpLenImm, fun x y => decide (x.toNat ≤ y.toNat)),
   (.test, .testImm, fun x y => decide (x &&& y ≠ 0))]

/-- The participants of a strand's band: the strands of the sheaf in it whose guard is true (R167). -/
def participants (s : State) (m : Lane) : List Lane := s.active.filter fun x => x.band == m.band

/-- The word with bit `l` set for each lane `l` of a list. -/
def maskOf (ls : List Lane) : Word := ls.foldl (fun w x => w ||| (1#32 <<< x.lane)) 0

/-- The predicate words of R181 that write a predicate, by FN, with their results. -/
def predicateWords (s : State) (d a b : BitVec 3) : List (BitVec 3 × Instr × (Lane → Bool)) :=
  let p (m : Lane) (n : BitVec 3) : Bool := (s.str m).pred n.toNat
  [(0, .pand d a b, fun m => p m a && p m b),
   (1, .por d a b, fun m => p m a || p m b),
   (2, .pxor d a b, fun m => p m a != p m b),
   (3, .pnot d a, fun m => !p m a),
   (4, .pmov d a, fun m => p m a),
   (6, .voteAny d a, fun m => decide (∃ x ∈ participants s m, p x a = true)),
   (7, .voteAll d a, fun m => decide (∀ x ∈ participants s m, p x a = true))]

/-- `elect`, `amask` and `ballot`, with their results (R173, R195). -/
def bandWords (s : State) (d a : BitVec 3) (v : BitVec 7) : List (Instr × (Lane → List RegWrite)) :=
  [(.elect d, fun m => [.p d.toNat (decide (∀ x ∈ participants s m, m.lane ≤ x.lane))]),
   (.amask v, fun m => [.v v.toNat (maskOf (participants s m))]),
   (.ballot v a, fun m => [.v v.toNat (maskOf ((participants s m).filter fun x => (s.str x).pred a.toNat))])]

/-- The two words of a pair, the low word in the even register. -/
def pairWrites (d : BitVec 7) (x : DWord64) : List RegWrite :=
  [.v d.toNat (BitVec.ofNat 32 x.toNat), .v (d.toNat + 1) (BitVec.ofNat 32 (x.toNat / 2 ^ 32))]

/-- A word of format A with CH and SW zero, its fields in place (R9, R16), and one of format I. -/
def formatA (op : BitVec 6) (d a b : BitVec 7) (fn : BitVec 3) : BitVec 32 := 0#2 ++ op ++ d ++ a ++ b ++ fn
def formatI (op : BitVec 6) (d a : BitVec 7) (fn : BitVec 3) (imm : BitVec 7) : BitVec 32 := 0#2 ++ op ++ d ++ a ++ fn ++ imm

/-- A word decodes to an instruction that issues to V, whatever its extension words; or no instruction has it, so that it is
illegal (R25). -/
def IsV (w : BitVec 32) (i : Instr) : Prop := decode w = .ok ⟨false, false, i⟩ ∧ ∀ x, (sigOf x i).pipe = .v
def IsIllegal (w : BitVec 32) : Prop := ∃ e, decode w = .error e

/-- An instruction accepts no rounding mode, and neither a uniform A nor a uniform B (R21). -/
def NoRm (i : Instr) : Prop := ∀ x k th, x.qual = true → x.rm ≠ 0 → legal x k th i = false
def NoUniform (i : Instr) : Prop := ∀ x k th, x.qual = true → x.ua = true ∨ x.ub = true → legal x k th i = false

/-- A list of words in the order of FN is encoded from a function on: each issues to V and accepts no rounding mode. -/
def Encodes (is : List Instr) (word : BitVec 3 → BitVec 32) (from_ : Nat) : Prop :=
  ∀ n i, is[n]? = some i → IsV (word (BitVec.ofNat 3 (from_ + n))) i ∧ NoRm i

/-- An instruction is illegal whatever its extension words and its clump. -/
def NeverLegal (i : Instr) : Prop := ∀ x k th, legal x k th i = false

/-- Each strand on which a word acts gets its result in D. -/
def ResultIn (i : Instr) (s : State) (d : BitVec 7) (f : Lane → Word) : Prop :=
  Completes i s fun t => s.Gives t fun m => [.v d.toNat (f m)]

/-- Each strand on which a word acts gets its result in the pair D. -/
def PairIn (i : Instr) (s : State) (d : BitVec 7) (f : Lane → DWord64) : Prop :=
  Completes i s fun t => s.Gives t fun m => pairWrites d (f m)

end Sys2Proof.Claims

open Sys2Proof Sys2Proof.Machine Sys2Proof.Claims

/-- R174, R177, sums, differences, minima and maxima, and logic: their encodings, their pipe, and their results; an immediate is
IMM7 or the 29 bits with IMMEXT, sign-extended. -/
def Obligations.AddAndLogicWords : Prop :=
  (∀ (s : State) (d a b : BitVec 7), s.Formed →
    (∀ x ∈ addWords d a b ++ logicWords d a b, ResultIn x.1 s d fun m => x.2 (s.opA m a) (s.opB m b)) ∧
    (∀ x ∈ withImmediate d a b, ResultIn x.1 s d fun m => x.2 (s.opA m a) (immValue s b)) ∧
    ResultIn (.not d a) s d fun m => ~~~(s.opA m a)) ∧
  (∀ (d a b : BitVec 7), Encodes ((addWords d a b).map (·.1)) (formatA 0x01 d a b) 0 ∧
    Encodes ((withImmediate d a b).map (·.1)) (fun fn => formatI 0x02 d a fn b) 0 ∧
    Encodes ((logicWords d a b).map (·.1)) (formatA 0x04 d a b) 0 ∧ IsV (formatA 0x04 d a 0 6) (.not d a) ∧
    (b ≠ 0 → IsIllegal (formatA 0x04 d a b 6)) ∧ IsIllegal (formatA 0x04 d a b 7)) ∧
  decode 0x01060410 = .ok ⟨false, false, .add 3 1 2⟩ ∧ decode 0x01080412 = .ok ⟨false, false, .addc 4 1 2⟩ ∧
  decode 0x04080412 = .ok ⟨false, false, .xor 4 1 2⟩

/-- R175, R176, products, quotients and remainders: their encodings, their pipe, and their results, with the fixed results of a
division by zero and of signed overflow. -/
def Obligations.MultiplyWords : Prop :=
  (∀ (s : State) (d a b : BitVec 7), s.Formed → ∀ x ∈ multiplyWords d a b,
    ResultIn x.1 s d fun m => x.2 (s.opD m d) (s.opA m a) (s.opB m b)) ∧
  (∀ (d a b : BitVec 7), Encodes ((multiplyWords d a b).map (·.1)) (formatA 0x03 d a b) 0) ∧
  decode 0x030A0415 = .ok ⟨false, false, .div 5 1 2⟩

/-- R178, R179, shifts, rotates, bit counts and bit fields: their encodings, their pipe, and their results; a pair shift names even
registers. -/
def Obligations.ShiftAndBitFieldWords : Prop :=
  (∀ (s : State) (d a b : BitVec 7), s.Formed →
    (∀ x ∈ shiftWords d a b, (ResultIn x.1 s d fun m => x.2.2 (s.opA m a) (s.opB m b).toNat) ∧
      ResultIn x.2.1 s d fun m => x.2.2 (s.opA m a) b.toNat) ∧
    (∀ x ∈ pairShifts d a b, (PairIn x.1 s d fun m => x.2.2 (s.opA64 m a) (s.opB m b).toNat) ∧
      PairIn x.2.1 s d fun m => x.2.2 (s.opA64 m a) b.toNat) ∧
    ∀ x ∈ bitWords d a b, ResultIn x.1 s d fun m => x.2 (s.opD m d) (s.opA m a) (s.opB m b)) ∧
  (∀ (d a b : BitVec 7), Encodes ((shiftWords d a b).map (·.1)) (formatA 0x05 d a b) 0 ∧
    Encodes ((shiftWords d a b).map (·.2.1)) (fun fn => formatI 0x06 d a fn b) 0 ∧
    Encodes ((pairShifts d a b).map (·.1)) (formatA 0x05 d a b) 5 ∧
    Encodes ((pairShifts d a b).map (·.2.1)) (fun fn => formatI 0x06 d a fn b) 5 ∧
    (d.toNat % 2 = 1 ∨ a.toNat % 2 = 1 → ∀ x ∈ pairShifts d a b, NeverLegal x.1 ∧ NeverLegal x.2.1) ∧
    Encodes (((bitWords d a b).take 4).map (·.1)) (formatA 0x07 d a 0) 0 ∧
    Encodes (((bitWords d a b).drop 4).map (·.1)) (formatA 0x07 d a b) 4) ∧
  decode 0x060C0402 = .ok ⟨false, false, .shlImm 6 1 2⟩ ∧ decode 0x050C2016 = .ok ⟨false, false, .shrD 6 8 2⟩ ∧
  decode 0x07060414 = .ok ⟨false, false, .bfe 3 1 2⟩

/-- R180, R181, R182, compares, predicates, votes and `sel`: their encodings, their pipe, what they accept, and their results; p0
reads true and a write to it is discarded. -/
def Obligations.CompareAndPredicateWords : Prop :=
  (∀ (s : State) (d a b p : BitVec 3) (v x y : BitVec 7), s.Formed →
    (∀ c ∈ conditions,
      (Completes (c.1 d x y) s fun t => s.Gives t fun m => [.p d.toNat (c.2.2 (s.opA m x) (s.opB m y))]) ∧
      (Completes (c.2.1 d x y) s fun t => s.Gives t fun m => [.p d.toNat (c.2.2 (s.opA m x) (cut (immValue s y)))])) ∧
    (∀ w ∈ predicateWords s d a b, (Completes w.2.1 s fun t => s.Gives t fun m => [.p d.toNat (w.2.2 m)]) ∧ NoRm w.2.1 ∧
      NoUniform w.2.1 ∧ (w.1.toNat < 3 ∨ b = 0 → IsV (formatA 0x0A (0#4 ++ d) (0#4 ++ a) (0#4 ++ b) w.1) w.2.1)) ∧
    (ResultIn (.vset v a) s v fun m => if (s.str m).pred a.toNat then 1 else 0) ∧
    NoRm (.vset v a) ∧ NoUniform (.vset v a) ∧ IsV (formatA 0x0A v (0#4 ++ a) 0 5) (.vset v a) ∧
    (ResultIn (.sel v x y p) s v fun m => if (s.str m).pred p.toNat then s.opA m x else s.opB m y) ∧
    NoRm (.sel v x y p) ∧ IsV (formatA 0x0B v x y p) (.sel v x y p)) ∧
  (∀ (d : BitVec 3) (a b : BitVec 7), Encodes (conditions.map fun c => c.1 d a b) (formatA 0x08 (0#4 ++ d) a b) 0 ∧
    Encodes (conditions.map fun c => c.2.1 d a b) (fun fn => formatI 0x09 (0#4 ++ d) a fn b) 0) ∧
  (∀ (d a b : BitVec 7) (fn : BitVec 3),
    (8 ≤ d.toNat ∨ fn = 7 → IsIllegal (formatA 0x08 d a b fn) ∧ IsIllegal (formatI 0x09 d a fn b)) ∧
    ((fn ≠ 5 ∧ 8 ≤ d.toNat) ∨ 8 ≤ a.toNat ∨ 8 ≤ b.toNat ∨ (3 ≤ fn.toNat ∧ b ≠ 0) → IsIllegal (formatA 0x0A d a b fn))) ∧
  (∀ (x : Strand) v, x.apply (.p 0 v) = x ∧ x.pred 0 = true) ∧
  decode 0x08040412 = .ok ⟨false, false, .cmpLt 2 1 2⟩ ∧ decode 0x09020800 = .ok ⟨false, false, .cmpEqImm 1 2 0⟩ ∧
  decode 0x0A060410 = .ok ⟨false, false, .pand 3 1 2⟩ ∧ decode 0x0A040406 = .ok ⟨false, false, .voteAny 2 1⟩ ∧
  decode 0x0B0A0413 = .ok ⟨false, false, .sel 5 1 2 3⟩

/-- R183, R184, address arithmetic, the wide product and `movi`: their encodings, their pipe, and their results; D is an even pair,
and `movi` takes 17 bits, or 39 with IMMEXT. -/
def Obligations.AddressWords : Prop :=
  (∀ (s : State) (d a b : BitVec 7) (l : BitVec 17), s.Formed →
    (∀ x ∈ addressWords d a b, PairIn x.1 s d fun m => x.2 (s.opA64 m a) (s.opB64 m b) (s.opA m a) (s.opB m b)) ∧
    ResultIn (.movi d l) s d fun _ => cut (match s.sh.ext.imm with
      | none => l.toInt
      | some h => (h ++ l : BitVec 39).toInt)) ∧
  (∀ (d a b : BitVec 7) (l : BitVec 17), Encodes ((addressWords d a b).map (·.1)) (formatA 0x0C d a b) 0 ∧
    (d.toNat % 2 = 1 → ∀ x ∈ addressWords d a b, NeverLegal x.1) ∧ IsV (0#2 ++ 0x0D#6 ++ d ++ l) (.movi d l)) ∧
  decode 0x0C0C180C = .ok ⟨false, false, .lea4 6 6 1⟩ ∧ decode 0xBF003FE0 = .ok ⟨true, false, .immext 0x3FE0⟩ ∧
  decode 0x0D020000 = .ok ⟨false, false, .movi 1 0⟩ ∧ cut (0x3FE0#22 ++ 0#17).toInt = 0x7FC00000

namespace Sys2Proof.Claims
open Sys2Proof.Machine
open Sys2Proof.Machine.Num (Fmt Val)

/-- The F32 words of R185, R186 and R193, with the exact value of each before its one rounding. -/
def floatWords (s : State) (d a b : BitVec 7) : List (Instr × (Lane → Val)) :=
  let x (m : Lane) : Val := Machine.Num.ofF32 (s.opA m a)
  let y (m : Lane) : Val := Machine.Num.ofF32 (s.opB m b)
  let z (m : Lane) : Val := Machine.Num.ofF32 (s.opD m d)
  let sum := Machine.Num.add s.sh.ext.rm
  let dot (f : Fmt) (m : Lane) : Val :=
    (List.range (32 / f.width)).foldl (fun v i => sum v
      (Machine.Num.mul (Machine.Num.decode f ((s.opA m a).toNat / 2 ^ (f.width * i) % 2 ^ f.width))
        (Machine.Num.decode f ((s.opB m b).toNat / 2 ^ (f.width * i) % 2 ^ f.width)))) (z m)
  [(.fadd d a b, fun m => sum (x m) (y m)),
   (.fsub d a b, fun m => sum (x m) (Machine.Num.neg (y m))),
   (.fmul d a b, fun m => Machine.Num.mul (x m) (y m)),
   (.fdiff d a b, fun m => if Machine.Num.isNan (x m) || Machine.Num.isNan (y m) then .nan
      else if Machine.Num.lt (y m) (x m) then sum (x m) (Machine.Num.neg (y m)) else .fin false 0 0),
   (.fma d a b, fun m => sum (Machine.Num.mul (x m) (y m)) (z m)),
   (.fms d a b, fun m => sum (Machine.Num.mul (x m) (y m)) (Machine.Num.neg (z m))),
   (.fnma d a b, fun m => sum (Machine.Num.neg (Machine.Num.mul (x m) (y m))) (z m)),
   (.fnms d a b, fun m => sum (Machine.Num.neg (Machine.Num.mul (x m) (y m))) (Machine.Num.neg (z m))),
   (.dot4F8a d a b, dot Machine.Num.f8a),
   (.dot4F8b d a b, dot Machine.Num.f8b),
   (.dot2B16 d a b, dot Machine.Num.b16)]

/-- The paired words of R187 that round, with the exact value of a half `h`. -/
def pairedWords (s : State) (d a b : BitVec 7) : List (Instr × Fmt × (Lane → (Word → Nat) → Val)) :=
  let sum := Machine.Num.add s.sh.ext.rm
  let v (f : Fmt) (h : Word → Nat) (w : Word) : Val := Machine.Num.decode f (h w)
  let three (f : Fmt) : List (Lane → (Word → Nat) → Val) :=
    [fun m h => sum (v f h (s.opA m a)) (v f h (s.opB m b)),
     fun m h => Machine.Num.mul (v f h (s.opA m a)) (v f h (s.opB m b)),
     fun m h => sum (Machine.Num.mul (v f h (s.opA m a)) (v f h (s.opB m b))) (v f h (s.opD m d))]
  ([.faddH2 d a b, .fmulH2 d a b, .fmaH2 d a b].zip ((three Machine.Num.f16).map fun g => (Machine.Num.f16, g))) ++
    ([.faddB2 d a b, .fmulB2 d a b, .fmaB2 d a b].zip ((three Machine.Num.b16).map fun g => (Machine.Num.b16, g)))

/-- The F32 and F16 words of R185 and R187 that choose an operand, or a sign, and do not round. -/
def choosingWords (d a b : BitVec 7) : List (Instr × (Word → Word → Word)) :=
  let halves (f : Nat → Nat → Nat) (x y : Word) : Word :=
    BitVec.ofNat 32 (f (x.toNat % 2 ^ 16) (y.toNat % 2 ^ 16) + f (x.toNat / 2 ^ 16) (y.toNat / 2 ^ 16) * 2 ^ 16)
  [(.fmin d a b, fun x y => BitVec.ofNat 32 (Machine.Num.fmin Machine.Num.f32 x.toNat y.toNat)),
   (.fmax d a b, fun x y => BitVec.ofNat 32 (Machine.Num.fmax Machine.Num.f32 x.toNat y.toNat)),
   (.fcopysign d a b, fun x y => if Machine.Num.isNan (Machine.Num.ofF32 x) then 0x7FC00000
      else BitVec.ofNat 32 (x.toNat % 2 ^ 31 + y.toNat / 2 ^ 31 * 2 ^ 31)),
   (.fminH2 d a b, halves (Machine.Num.fmin Machine.Num.f16)),
   (.fmaxH2 d a b, halves (Machine.Num.fmax Machine.Num.f16))]

/-- The F32 conditions of R188. -/
def floatConditions (d : BitVec 3) (a b : BitVec 7) : List (Instr × (Word → Word → Bool)) :=
  let v := Machine.Num.ofF32
  [(.fcmpEq d a b, fun x y => Machine.Num.eq (v x) (v y)),
   (.fcmpNe d a b, fun x y => !Machine.Num.eq (v x) (v y)),
   (.fcmpLt d a b, fun x y => Machine.Num.lt (v x) (v y)),
   (.fcmpLe d a b, fun x y => Machine.Num.lt (v x) (v y) || Machine.Num.eq (v x) (v y)),
   (.fcmpUn d a b, fun x y => Machine.Num.isNan (v x) || Machine.Num.isNan (v y)),
   (.fclass d a b, fun x y => y.getLsbD (Machine.Num.classBit x))]

/-- The functions of R189. -/
def functions (d a : BitVec 7) : List (Instr × Machine.Num.Fun) :=
  [(.rcp d a, .rcp), (.rsqrt d a, .rsqrt), (.sqrt d a, .sqrt), (.exp2 d a, .exp2), (.log2 d a, .log2), (.sinpi d a, .sinpi),
   (.cospi d a, .cospi), (.tanh d a, .tanh)]

/-- The special operands of R45: the function, the operand and the result. -/
def specialOperands : List (Machine.Num.Fun × Word × Word) :=
  [(.rcp, 0x80000000, 0xFF800000), (.rcp, 0, 0x7F800000), (.rcp, 0xFF800000, 0x80000000), (.rcp, 0x7F800000, 0),
   (.rsqrt, 0x80000000, 0xFF800000), (.rsqrt, 0, 0x7F800000), (.rsqrt, 0xFF800000, 0x7FC00000), (.rsqrt, 0x7F800000, 0),
   (.sqrt, 0x80000000, 0x80000000), (.sqrt, 0, 0), (.sqrt, 0xFF800000, 0x7FC00000), (.sqrt, 0x7F800000, 0x7F800000),
   (.exp2, 0x80000000, 0x3F800000), (.exp2, 0, 0x3F800000), (.exp2, 0xFF800000, 0), (.exp2, 0x7F800000, 0x7F800000),
   (.log2, 0x80000000, 0xFF800000), (.log2, 0, 0xFF800000), (.log2, 0xFF800000, 0x7FC00000), (.log2, 0x7F800000, 0x7F800000),
   (.sinpi, 0x80000000, 0x80000000), (.sinpi, 0, 0), (.sinpi, 0xFF800000, 0x7FC00000), (.sinpi, 0x7F800000, 0x7FC00000),
   (.cospi, 0x80000000, 0x3F800000), (.cospi, 0, 0x3F800000), (.cospi, 0xFF800000, 0x7FC00000), (.cospi, 0x7F800000, 0x7FC00000),
   (.tanh, 0x80000000, 0x80000000), (.tanh, 0, 0), (.tanh, 0xFF800000, 0xBF800000), (.tanh, 0x7F800000, 0x3F800000)]

/-- The draw of a strand whose counter stands at `c` (R42): the upper 24 bits of the generator hash under g0's effective seed. -/
def drawn (s : State) (m : Lane) (c : Word) : Nat :=
  let g := s.clp.gens.getD 0 {}
  (Machine.Num.hash (Machine.Num.effSeed g.seed (s.scopeId s.sh.clump m g.scope)) (BitVec.ofNat 32 (32 * m.band + m.lane)) c).toNat / 2 ^ 8

/-- A finite value is not an integer. -/
def fractional : Val → Bool
  | .fin _ n e => decide (e < 0) && n % 2 ^ (-e).toNat != 0
  | _ => false

/-- Element `i` of width `w` of a word, unsigned and signed. -/
def element (w i : Nat) (x : Word) : Int := (x.toNat / 2 ^ (w * i) % 2 ^ w : Nat)
def signedElement (w i : Nat) (x : Word) : Int :=
  if element w i x < 2 ^ (w - 1) then element w i x else element w i x - 2 ^ w

/-- The integer dot products of R193: elements, and the product of one pair. -/
def integerDots (d a b : BitVec 7) : List (Instr × Nat × (Nat → Word → Word → Int)) :=
  [(.dot8I4 d a b, 8, fun i x y => signedElement 4 i x * signedElement 4 i y),
   (.dot8N4 d a b, 8, fun i x y => element 4 i x * element 4 i y),
   (.dot8I4n4 d a b, 8, fun i x y => signedElement 4 i x * element 4 i y),
   (.dot4I8 d a b, 4, fun i x y => signedElement 8 i x * signedElement 8 i y),
   (.dot4N8 d a b, 4, fun i x y => element 8 i x * element 8 i y)]

/-- A number held to a range. -/
def held (lo hi x : Int) : Int := if x < lo then lo else if hi < x then hi else x

/-- A format of `cvt`: floating-point, or integer by its width and whether it is signed. -/
inductive Form where
  | float (f : Fmt)
  | integer (w : Nat) (signed : Bool)
  deriving DecidableEq, Repr

/-- The formats of R28 by code, from 0 on. -/
def forms : List Form :=
  [.float Machine.Num.f32, .float Machine.Num.f16, .float Machine.Num.b16, .integer 32 true, .integer 32 false,
   .float Machine.Num.f8a, .float Machine.Num.f8b, .integer 64 true, .float Machine.Num.f4, .integer 8 true, .integer 8 false,
   .integer 16 true, .integer 16 false, .integer 64 false]

/-- The least and the greatest number of an integer format. -/
def leastOf (w : Nat) (signed : Bool) : Int := if signed then -(2 ^ (w - 1)) else 0
def greatestOf (w : Nat) (signed : Bool) : Int := if signed then 2 ^ (w - 1) - 1 else 2 ^ w - 1

/-- The number that the low bits of an operand stand for in an integer format. -/
def numberOf (w : Nat) (signed : Bool) (x : DWord64) : Int :=
  let n : Int := (x.toNat % 2 ^ w : Nat)
  if signed ∧ 2 ^ (w - 1) ≤ n then n - 2 ^ w else n

/-- The conversion of R191, by rounding code, with stochastic rounding's draw `u`: the bits of the result, and whether the conversion
is inexact. Codes 6 and 7 are rne and rtz that saturate. -/
def converted (src dst : Form) (code u : Nat) (x : DWord64) : Nat × Bool :=
  let mode := if code = 6 then 0 else if code = 7 then 1 else code
  let sat := decide (6 ≤ code)
  let bits (w : Nat) (n : Int) : Nat := (n % 2 ^ w).toNat
  match src, dst with
  | .float f, .float t =>
    let n := x.toNat % 2 ^ f.width
    if f = t then (if Machine.Num.isNan (Machine.Num.decode f n) then t.nan else n, false)
    else Machine.Num.roundCore t mode u sat (Machine.Num.decode f n)
  | .float f, .integer w g =>
    match Machine.Num.decode f (x.toNat % 2 ^ f.width) with
    | .nan => (bits w (greatestOf w g), false)
    | .inf neg => (bits w (if neg then leastOf w g else greatestOf w g), false)
    | .fin neg n e =>
      let k := (Machine.Num.roundInt mode u neg n e).1
      let r := held (leastOf w g) (greatestOf w g) k
      (bits w r, fractional (.fin neg n e) || decide (r ≠ k))
  | .integer v h, .float t => Machine.Num.roundCore t mode u sat (Machine.Num.ofInt (numberOf v h x))
  | .integer v h, .integer w g =>
    let n := numberOf v h x
    (bits w (if sat then held (leastOf w g) (greatestOf w g) n else n), false)

/-- The packing and unpacking words of R192 that do not round, under the U bit (bit 1) and the format bit (bit 0) of MODE8. -/
def packingWords (mode : BitVec 8) (d a b : BitVec 7) : List (Instr × (Word → Word → Word → Word)) :=
  let u := mode.getLsbD 1
  let f8 := if mode.getLsbD 0 then Machine.Num.f8b else Machine.Num.f8a
  let sat (w : Nat) (x : Word) : Nat :=
    ((if u then held 0 (2 ^ w - 1) x.toInt else held (-(2 ^ (w - 1))) (2 ^ (w - 1) - 1) x.toInt) % 2 ^ w).toNat
  let pack (w : Nat) (z x y : Word) : Word :=
    BitVec.ofNat 32 (z.toNat / 2 ^ (2 * w) + sat w x * 2 ^ (32 - 2 * w) + sat w y * 2 ^ (32 - w))
  let unpack (w : Nat) (x y : Word) : Word :=
    let i := y.toNat % (32 / w)
    cut (if u then element w i x else signedElement w i x)
  let widen (f : Fmt) (x y : Word) : Word :=
    Machine.Num.rneF32 (Machine.Num.decode f (x.toNat / 2 ^ (f.width * (y.toNat % (32 / f.width))) % 2 ^ f.width))
  [(.pkI8 d a b, pack 8), (.pkI4 d a b, pack 4), (.unpkI8 d a b, fun _ => unpack 8), (.unpkI4 d a b, fun _ => unpack 4),
   (.unpkF8 d a b, fun _ => widen f8), (.unpkF4 d a b, fun _ => widen Machine.Num.f4)]

end Sys2Proof.Claims

/-- R36, R41, R42, R44, R46, R185, R186, R193: an F32 result is the exact value rounded once in the word's mode; stochastic
rounding moves the strand's counter when it draws; nothing else changes. -/
def Sys2Proof.Claims.FloatArithmetic : Prop :=
  ∀ (s : State) (d a b : BitVec 7), s.Formed → ∀ x ∈ floatWords s d a b,
    Completes x.1 s fun t => s.Changes t fun m y =>
      let r := s.roundAt m Machine.Num.f32 s.sh.ext.rm false y.ctr (x.2 m)
      { y.push [.v d.toNat (BitVec.ofNat 32 r.1)] with ctr := r.2 }

/-- R187: each half of a paired result is rounded on its own, the low half first; `frnd` rounds to an integral value (R185), and takes
one draw in stochastic rounding where its operand is not one (R42). -/
def Sys2Proof.Claims.PairedHalvesAndFrnd : Prop :=
  ∀ (s : State) (d a b : BitVec 7), s.Formed →
    (∀ x ∈ pairedWords s d a b, Completes x.1 s fun t => s.Changes t fun m y =>
      let lo := s.roundAt m x.2.1 s.sh.ext.rm false y.ctr (x.2.2 m fun w => w.toNat % 2 ^ 16)
      let hi := s.roundAt m x.2.1 s.sh.ext.rm false lo.2 (x.2.2 m fun w => w.toNat / 2 ^ 16)
      { y.push [.v d.toNat (BitVec.ofNat 32 (lo.1 + hi.1 * 2 ^ 16))] with ctr := hi.2 }) ∧
    (Completes (.frnd d a) s fun t => s.Changes t fun m y =>
      let x := Machine.Num.ofF32 (s.opA m a)
      let u := if s.sh.ext.rm = 5 then drawn s m y.ctr else 0
      { y.push [.v d.toNat (Machine.Num.rneF32 (match x with
          | .fin g n e => .fin g (Machine.Num.roundInt s.sh.ext.rm u g n e).1.natAbs 0
          | x => x))] with
        ctr := if s.sh.ext.rm = 5 ∧ fractional x then y.ctr + 1 else y.ctr })

/-- Two statements of one subject: `FloatArithmetic` and `PairedHalvesAndFrnd`. -/
def Obligations.FloatWords : Prop := Claims.FloatArithmetic ∧ Claims.PairedHalvesAndFrnd

/-- R34, R185, R187, R188: minima, maxima, signs, compares and classes of floating-point words. -/
def Sys2Proof.Claims.FloatChoicesAndCompares : Prop :=
  ∀ (s : State) (d a b : BitVec 7) (p : BitVec 3), s.Formed →
    (∀ x ∈ choosingWords d a b, Completes x.1 s fun t => s.Gives t fun m => [.v d.toNat (x.2 (s.opA m a) (s.opB m b))]) ∧
    (∀ x ∈ floatConditions p a b, Completes x.1 s fun t => s.Gives t fun m => [.p p.toNat (x.2 (s.opA m a) (s.opB m b))])

/-- R45, R189: a transcendental gives one of the two values allowed to it, whichever the device takes, and exactly the value of
the table for a special operand. That the values allowed to `sinpi` and `cospi` have the sign that they do where they are zeros is the
model's choice (notes/assumptions/21.md). -/
def Sys2Proof.Claims.Transcendentals : Prop :=
  (∀ (s : State) (d a : BitVec 7), s.Formed → ∀ x ∈ functions d a,
    Completes x.1 s fun t => s.Gives t fun m => [.v d.toNat (Machine.Num.Fun.eval x.2 (s.opA m a))]) ∧
  (∀ (f : Machine.Num.Fun) (x : Word), Machine.Num.Fun.eval f x = BitVec.ofNat 32 (f.allowed x).1 ∨
    Machine.Num.Fun.eval f x = BitVec.ofNat 32 (f.allowed x).2) ∧
  (∀ x ∈ specialOperands, Machine.Num.Fun.eval x.1 x.2.1 = x.2.2)

/-- Two statements of one subject: `FloatChoicesAndCompares` and `Transcendentals`. Their choice of the model: notes/assumptions/21.md. -/
def Obligations.FloatChoicesAndFunctions : Prop := Claims.FloatChoicesAndCompares ∧ Claims.Transcendentals

/-- R190 to R193: conversions in every rounding code, packing and integer dot products. An infinity or a NaN takes no draw: that is the
model's choice (notes/assumptions/89.md). -/
def Obligations.ConversionsAndPacking : Prop :=
  ∀ (s : State) (d a b : BitVec 7) (dst : BitVec 4) (rnd src : BitVec 3), s.Formed →
    (∀ x ∈ packingWords s.sh.ext.mode d a b,
      Completes x.1 s fun t => s.Gives t fun m => [.v d.toNat (x.2 (s.opD m d) (s.opA m a) (s.opB m b))]) ∧
    (∀ x ∈ integerDots d a b, Completes x.1 s fun t => s.Gives t fun m =>
      [.v d.toNat (cut ((List.range x.2.1).foldl (fun n i => n + x.2.2 i (s.opA m a) (s.opB m b)) (s.opD m d).toInt))]) ∧
    (∀ x ∈ [(Instr.pkF8 d a b, if s.sh.ext.mode.getLsbD 0 then Machine.Num.f8b else Machine.Num.f8a), (Instr.pkF4 d a b, Machine.Num.f4)],
      Completes x.1 s fun t => s.Changes t fun m y =>
        let lo := s.roundAt m x.2 s.sh.ext.rm (s.sh.ext.mode.getLsbD 2) y.ctr (Machine.Num.ofF32 (s.opA m a))
        let hi := s.roundAt m x.2 s.sh.ext.rm (s.sh.ext.mode.getLsbD 2) lo.2 (Machine.Num.ofF32 (s.opB m b))
        { y.push [.v d.toNat (packInto x.2.width (s.opD m d) lo.1 hi.1)] with ctr := hi.2 }) ∧
    (14 ≤ dst.toNat → NeverLegal (.cvt d a dst rnd src)) ∧
    (∀ f g, forms[src.toNat]? = some f → forms[dst.toNat]? = some g →
      Completes (.cvt d a dst rnd src) s fun t => s.Changes t fun m y =>
        let r := converted f g rnd.toNat (if rnd = 5 then drawn s m y.ctr else 0)
          (if src = 7 then s.opA64 m a else (s.opA m a).setWidth 64)
        { y.push (if dst = 7 ∨ dst = 13 then pairWrites d (BitVec.ofNat 64 r.1) else [.v d.toNat (BitVec.ofNat 32 r.1)]) with
          ctr := if rnd = 5 ∧ r.2 then y.ctr + 1 else y.ctr })

namespace Sys2Proof.Claims
open Sys2Proof.Machine

/-- The shuffles of R195: the lane that a strand in lane `l` reads from, for the value `n` of its B operand. -/
def shuffles (d a b : BitVec 7) : List (Instr × (Nat → Word → Nat)) :=
  [(.shfl d a b, fun _ n => n.toNat % 32),
   (.shflUp d a b, fun l n => if n.toNat ≤ l then l - n.toNat else l),
   (.shflDn d a b, fun l n => if l + n.toNat ≤ 31 then l + n.toNat else l),
   (.shflX d a b, fun l n => Nat.xor l (n.toNat % 32))]

/-- The values of A of the participants of a strand's band in lanes 0 to `l`, in ascending lane. -/
def valuesUpTo (s : State) (m : Lane) (l : Nat) (a : BitVec 7) : List Word :=
  ((List.range (l + 1)).filter fun i => decide (⟨m.band, i⟩ ∈ participants s m)).map fun i => s.opA ⟨m.band, i⟩ a

/-- The integer reductions and the scans of R196, over the participants in lanes 0 to 31, or to the strand's own lane; the first value alone
passes through. -/
noncomputable def reductions (d a : BitVec 7) : List (Instr × Bool × (Word → Word → Word)) :=
  [(.bredAdd d a, false, fun x y => BitVec.ofNat 32 (x.toNat + y.toNat)),
   (.bredMin d a, false, fun x y => cut (min x.toInt y.toInt)),
   (.bredMax d a, false, fun x y => cut (max x.toInt y.toInt)),
   (.scanAdd d a, true, fun x y => BitVec.ofNat 32 (x.toNat + y.toNat)),
   (.scanFadd d a, true, Machine.Num.addRne)]

/-- The minimum and maximum in F32; a NaN result is the canonical one (R34, R185). -/
noncomputable def floatReductions (d a : BitVec 7) : List (Instr × (Word → Word → Word)) :=
  [(.bredFmin d a, fun x y => BitVec.ofNat 32 (Machine.Num.fmin Machine.Num.f32 x.toNat y.toNat)),
   (.bredFmax d a, fun x y => BitVec.ofNat 32 (Machine.Num.fmax Machine.Num.f32 x.toNat y.toNat))]

/-- A value folded from the first of a list on; 0 for an empty one. -/
def folded (f : Word → Word → Word) : List Word → Word
  | [] => 0
  | v :: vs => vs.foldl f v

/-- One level of the tree of R197 over `2 n` positions. -/
def pairUp (x : Nat → Option Word) : Nat → Option Word := fun j =>
  match x (2 * j), x (2 * j + 1) with
  | some a, some b => some (Machine.Num.addRne a b)
  | some a, none => some a
  | none, b => b

/-- The uniform words of R198, from the band's uniform registers. -/
noncomputable def uniformWords (s : State) (d a b : BitVec 7) : List (Instr × (Band → Word)) :=
  let x (k : Band) : Word := k.ureg a.toNat
  let y (k : Band) : Word := k.ureg b.toNat
  let n : Int := immValue s b
  [(.kadd d a b, fun k => BitVec.ofNat 32 ((x k).toNat + (y k).toNat)),
   (.ksub d a b, fun k => cut ((x k).toInt - (y k).toInt)),
   (.kmul d a b, fun k => BitVec.ofNat 32 ((x k).toNat * (y k).toNat)),
   (.kand d a b, fun k => x k &&& y k),
   (.kor d a b, fun k => x k ||| y k),
   (.kxor d a b, fun k => x k ^^^ y k),
   (.kshl d a b, fun k => if 32 ≤ (y k).toNat then 0 else BitVec.ofNat 32 ((x k).toNat * 2 ^ (y k).toNat)),
   (.kshr d a b, fun k => BitVec.ofNat 32 ((x k).toNat / 2 ^ (y k).toNat)),
   (.kaddi d a b, fun k => cut ((x k).toInt + n)),
   (.kandi d a b, fun k => x k &&& cut n),
   (.kori d a b, fun k => x k ||| cut n),
   (.kshli d a b, fun k => if 32 ≤ b.toNat then 0 else BitVec.ofNat 32 ((x k).toNat * 2 ^ b.toNat)),
   (.kshri d a b, fun k => BitVec.ofNat 32 ((x k).toNat / 2 ^ b.toNat)),
   (.kmovi d b, fun _ => cut n),
   (.kcmpi d a b, fun k => if (x k).toInt < n then 0xFFFFFFFF else if (x k).toInt = n then 0 else 1)]

/-- The control registers of R29: number, and value for a strand. -/
def controlRegisters (s : State) (m : Lane) : List (Nat × Nat) :=
  let c := s.clp
  let b := s.bnd m
  let p := s.plantingOf s.sh.clump
  [(0x00, m.lane), (0x01, b.slot), (0x02, m.band), (0x03, b.quad), (0x04, c.no), (0x05, c.core), (0x06, c.die),
   (0x07, s.ctl.chip), (0x08, p.id), (0x09, c.node), (0x0A, s.cycle), (0x0B, s.time), (0x0C, b.tape.word),
   (0x0D, (s.str m).tinfo.toNat), (0x0E, (s.ctx c.ctx).budget), (0x0F, c.ctx), (0x10, p.prio), (0x11, b.liveMask.toNat),
   (0x12, (s.str m).epc.toNat), (0x13, c.thicket), (0x14, c.kernel.regs)]

end Sys2Proof.Claims

/-- R162, R163, R167, R173, R195: the election, masks and ballots over a band's participants, and words that read other lanes. A pattern-table write is in the table at once, other entries stay, and
nothing else of any band or strand changes. -/
def Obligations.CrossLane : Prop :=
  ∀ (s : State) (d a b : BitVec 7) (l : BitVec 5) (n p : BitVec 3), s.Formed →
    (∀ x ∈ bandWords s n p d, Completes x.1 s fun t => s.Gives t x.2) ∧
    (∀ x ∈ shuffles d a b, Completes x.1 s fun t => s.Gives t fun m =>
      [.v d.toNat (s.opA ⟨m.band, x.2 m.lane (s.opB m b)⟩ a)]) ∧
    (s.sh.lanes ≠ [] → Completes (.rdlane d a l) s fun t => s.ChangesBands t fun c _ k =>
      { k with kout := k.kout ++ [⟨d.toNat, s.opA ⟨c, l.toNat⟩ a, s.lanesOf c⟩] }) ∧
    (Completes (.perm d a n) s fun t => s.Gives t fun m =>
      let e := (s.bnd m).pattern n.toNat m.lane
      [.v d.toNat (if 32 ≤ e.toNat then 0 else (s.str ⟨m.band, e.toNat % 32⟩).reg a.toNat)]) ∧
    (Completes (.ptab n a) s fun t =>
      (∀ m ∈ s.active, (t.bnd m).pattern n.toNat m.lane = BitVec.ofNat 6 ((s.str m).reg a.toNat).toNat) ∧
      (∀ c b k i, i < 32 → (c ≠ s.sh.clump ∨ k ≠ n.toNat ∨ ⟨b, i⟩ ∉ s.active) →
        (t.band c b).pattern k i = (s.band c b).pattern k i) ∧
      (t = { s with clumps := t.clumps }) ∧
      ∀ c b, t.band c b = { s.band c b with ptab := (t.band c b).ptab })

/-- R167, R196, R197: reductions and prefixes over a band's participants, and the tree of `bred.fadd`. -/
def Obligations.BandReductions : Prop :=
  ∀ (s : State) (d a : BitVec 7), s.Formed → (∀ m ∈ s.sh.lanes, m.lane < 32) →
    (∀ x ∈ reductions d a, Completes x.1 s fun t => s.Gives t fun m =>
      [.v d.toNat (folded x.2.2 (valuesUpTo s m (if x.2.1 then m.lane else 31) a))]) ∧
    (∀ x ∈ floatReductions d a, Completes x.1 s fun t => s.Gives t fun m =>
      let r := folded x.2 (valuesUpTo s m 31 a)
      [.v d.toNat (if Machine.Num.isNan (Machine.Num.ofF32 r) then 0x7FC00000 else r)]) ∧
    (Completes (.bredFadd d a) s fun t => s.Gives t fun m =>
      let x (i : Nat) : Option Word := if ⟨m.band, i⟩ ∈ participants s m then some (s.opA ⟨m.band, i⟩ a) else none
      [.v d.toNat (((pairUp (pairUp (pairUp (pairUp (pairUp x))))) 0).getD 0)])

/-- R14, R15, R168, R198: a uniform word works on the results that no strand of its sheaf waits for, and its own result is
outstanding once in each band with a participant. -/
def Sys2Proof.Claims.UniformWords : Prop :=
  ∀ (s : State) (d a b : BitVec 7), s.Formed → s.sh.lanes ≠ [] → ∀ x ∈ uniformWords s d a b,
    Completes x.1 s fun t => s.ChangesBands t fun c _ k =>
      let k' := k.settleK (s.lanesOf c)
      { k' with kout := k'.kout ++ [⟨d.toNat, x.2 k', s.lanesOf c⟩] }

/-- R29, R169, R170: `mov` copies a register; `movc` reads each control register, 64 bits from the four that are wide and 32 bits from the others; `wrc`
writes %epc, the one control register that can be written; `nop` changes nothing (R31). -/
def Sys2Proof.Claims.ControlRegisters : Prop :=
  ∀ (s : State) (d a n : BitVec 7), s.Formed →
    (n.toNat ≤ 0x14 → Completes (.movc d n) s fun t => s.Gives t fun m =>
      let x := (((controlRegisters s m).find? fun r => r.1 == n.toNat).map (·.2)).getD 0
      if n.toNat ∈ [0x0A, 0x0B, 0x0D, 0x0E] then pairWrites d (BitVec.ofNat 64 x) else [.v d.toNat (BitVec.ofNat 32 x)]) ∧
    (ResultIn (.mov d a) s d fun m => s.opA m a) ∧
    (Completes (.wrc 0x12 a) s fun t => s.Changes t fun m x => { x with epc := s.opA m a }) ∧
    exec .nop s = .next s

/-- Two statements of one subject: `UniformWords` and `ControlRegisters`. That a uniform word works on the results of other sheaves, which
land first (`settleK`), and on old values within its own strands' switch region, is the model's choice (notes/assumptions/26.md), not a
sentence of R15 or R168. -/
def Obligations.UniformAndControlWords : Prop := Claims.UniformWords ∧ Claims.ControlRegisters

namespace Sys2Proof.Claims
open Sys2Proof.Machine

/-- One strand acts: the sheaf's other strands, if any, have a false guard (R23). -/
structure Alone (s : State) (m : Lane) : Prop where
  formed : s.Formed
  one : s.active = [m]

/-- `t` is `s` but for what the memory system holds: memory, L1 copies, directories, clocks, translations, port tokens; an eviction
takes a free value. -/
structure MemoryOnly (s t : State) : Prop where
  rest : t = { s with mem := t.mem, coh := t.coh, free := t.free }
  canonical : t.mem.wf = true

/-- Every byte of memory, at each physical address (R328: 52 bits), has the same latest value in two states. -/
def SameBytes (s t : State) : Prop := ∀ a < 2 ^ 52, t.latest a = s.latest a

/-- A thread access of `n` bytes at `va` reaches memory at `pa`, in a page whose HOME field is `home` (R104, R244, R331): it is
aligned, its translation succeeds, and it conflicts with no range lock, open tape or bank table. -/
structure Reaches (s : State) (va n : Nat) (k : Kind) (pa home : Nat) : Prop where
  aligned : va % n = 0
  leaf : ∃ e base size pin, s.translate s.ctxNo va n k = .ok pa e base size pin ∧ pteHome e = home
  unlocked : s.conflict s.coreOf s.ctxNo va n k.writes = none
  noTable : k.writes = true → s.lutAt s.coreOf s.ctxNo pa = none
  memory : s.ctl.place pa ≠ .control

/-- A page on the CXL.io path: HOME 11 over host-attached memory (R128). -/
def OnIo (s : State) (pa home : Nat) : Prop := home = 3 ∧ s.ctl.place pa = .host

/-- The offsets and sizes of the requests in which an access of `n` bytes travels on that path: 8 bytes at most (R87). -/
def hostSpans (n : Nat) : List (Nat × Nat) := if n ≤ 8 then [(0, n)] else [(0, 8), (8, n - 8)]

/-- A strand that has sent requests on the CXL.io path: they follow those that it has outstanding, and an acquire holds its later words
until they are complete (R108). -/
def sent (s : State) (x : Strand) (qs : List (Nat × HostAct)) (group : Option (Nat × Nat) := none) : Strand :=
  let acq := s.sh.ext.order % 2 == 1
  { x with host := x.host ++ qs.map (fun q => { pa := q.1, act := q.2, acq := acq, group := group }), marker := x.marker || acq }

/-- The operations of a strand's band that are accepted and not complete. -/
def bandOps (s : State) (m : Lane) : List Nat :=
  (s.ops.filter fun o => o.clump == s.sh.clump && o.band == m.band && o.kind != .close).map (·.id)

/-- No engine operation of a strand's band is left, and none of their writes within a scope has still to perform (R113, R124). -/
def EnginesDone (s : State) (m : Lane) (scope : Nat) : Prop :=
  bandOps s m = [] ∧ ∀ w ∈ s.late, w.clump = s.sh.clump → w.band = m.band → scope < w.need

/-- Nothing holds a release of a strand at a scope (R105, R108, R126): the engines are done, and at system scope no request of the strand
is on the CXL.io path. -/
def NothingToRelease (s : State) (m : Lane) (scope : Nat) : Prop :=
  EnginesDone s m scope ∧ (scope = 6 → (s.str m).host = [])

/-- The scope in force for an access: system scope counts for host-attached memory alone (R105). -/
def scopeAt (s : State) (pa : Nat) : Nat := if s.ctl.place pa = .host then s.sh.ext.scope else min s.sh.ext.scope 5

/-- An access at `pa` is no release, or one that nothing holds. -/
def MayRelease (s : State) (m : Lane) (pa : Nat) : Prop := 2 ≤ s.sh.ext.order → NothingToRelease s m (scopeAt s pa)

/-- The enabled reduction window at an address is a word window, if there is one: its memory is ordinary memory for loads, stores and
atomics (R360). -/
def Ordinary (s : State) (pa : Nat) : Prop := ∀ n w, s.windowAt pa = some (n, w) → w.kind = 0

/-- A disabled window of F32 sums lies at an address (R364). -/
def IdleSum (s : State) (pa : Nat) : Prop :=
  ∃ w ∈ s.ctl.windows, w.2.on = false ∧ w.2.kind = 1 ∧ w.2.base ≤ pa ∧ pa < w.2.base + w.2.len

/-- The slice of a physical address has a token for the sheaf's context (R100). -/
def HasToken (s : State) (pa : Nat) : Prop := s.noToken (s.ctl.homeSlice pa) s.ctxNo = false

/-- The copy that a load reads where it stands (R91, R95, R99): a tracked copy of this context in this core's L1, or a lease that
lasts for the words read, unless the policy asks for ownership; then the value may be older than the latest. -/
def copyRead (s : State) (pa n pol home cache : Nat) : Option L1Line :=
  if home = 1 ∨ home = 3 then none
  else match s.l1 s.coreOf (pa / 128) with
    | none => none
    | some l =>
      let pol := if pol = 0 ∧ s.monitored (pa / 128) then 1 else pol
      let t := (wordsOf pa n).foldl (fun a w => max a (l.wts.getD w l.base)) (s.cts s.coreOf)
      if l.ctx ≠ s.ctxNo ∨ pol = 0 then none
      else match l.st with
        | .own => none
        | .shared => some l
        | .lease => if cache = 3 ∨ pol = 3 ∨ ∃ w ∈ wordsOf pa n, l.rts.getD w l.base < t then none else some l

/-- The number that a load of `n` bytes finds. -/
def loadedValue (s : State) (pa n pol home cache : Nat) : Nat :=
  match copyRead s pa n pol home cache with
  | some l => leNat (l.bytes (pa % 128) n)
  | none => s.latestNat pa n

/-- The registers that a loaded number of `n` bytes is written to (R104, R106). -/
def loadedWords (t : BitVec 7) (n : Nat) (signed : Bool) (x : Nat) : List RegWrite :=
  if n < 4 ∧ signed ∧ 2 ^ (8 * n - 1) ≤ x % 2 ^ (8 * n) then [.v t.toNat (cut ((x % 2 ^ (8 * n) : Nat) - 2 ^ (8 * n) : Int))]
  else if n < 4 then [.v t.toNat (BitVec.ofNat 32 (x % 2 ^ (8 * n)))]
  else (List.range (n / 4)).map fun i => .v (t.toNat + i) (BitVec.ofNat 32 (x / 2 ^ (32 * i)))

/-- The loads: bytes, and whether the value is sign-extended. -/
noncomputable def loads (t base : BitVec 7) (off : BitVec 6) (pol : BitVec 2) : List (Instr × Nat × Bool) :=
  [(.ldB t base off pol, 1, false), (.ldH t base off pol, 2, false), (.ldW t base off pol, 4, false),
   (.ldD t base off pol, 8, false), (.ldsB t base off pol, 1, true), (.ldsH t base off pol, 2, true),
   (.ldQ t base off pol, 16, false)]

/-- The stores and their bytes. -/
noncomputable def stores (t base : BitVec 7) (off : BitVec 6) (pol : BitVec 2) : List (Instr × Nat) :=
  [(.stB t base off pol, 1), (.stH t base off pol, 2), (.stW t base off pol, 4), (.stD t base off pol, 8),
   (.stQ t base off pol, 16)]

/-- Byte `i` that a strand stores from registers `t` on. -/
def storedByte (s : State) (m : Lane) (t : BitVec 7) (i : Nat) : Byte :=
  BitVec.ofNat 8 (((s.str m).reg (t.toNat + i / 4)).toNat / 2 ^ (8 * (i % 4)))

/-- A strand's region ends at the word at hand (R156, R157): it is in the gap, or will be once the word that has parked it performs;
where an earlier word of the chain has parked it, its rollback point has moved past the chain. -/
def endsRegion (s : State) (x : Strand) : Strand :=
  match x.park with
  | none => { x with gap := true, stay := true, spurious := none }
  | some p => if p.word = s.sh.pc then x else { x with gap := true, redo := s.sh.next, stay := true, spurious := none }

/-- The number of `n` bytes as a signed number. -/
def signedOf (n x : Nat) : Int := if 2 ^ (8 * n - 1) ≤ x then (x : Int) - 2 ^ (8 * n) else x

/-- The updates of R107 and R109: bytes, the new value from the old one and B, whether the old value is returned to D, and the
function's name. -/
noncomputable def updates (s : State) (d a b : BitVec 7) : List (Instr × Nat × (Nat → Nat → Nat) × Bool × AtomFn) :=
  let n := if s.sh.ext.mode.getLsbD 1 then 8 else 4
  let less (x y : Nat) : Bool := if s.sh.ext.mode.getLsbD 0 then decide (x ≤ y) else decide (signedOf n x ≤ signedOf n y)
  let sum (o x : Nat) : Nat := (Machine.Num.addRne (BitVec.ofNat 32 o) (BitVec.ofNat 32 x)).toNat
  [(.atomAdd d a b, n, fun o x => (o + x) % 2 ^ (8 * n), true, .add),
   (.atomMin d a b, n, fun o x => if less o x then o else x, true, .min),
   (.atomMax d a b, n, fun o x => if less o x then x else o, true, .max),
   (.atomAnd d a b, n, fun o x => o &&& x, true, .and),
   (.atomOr d a b, n, fun o x => o ||| x, true, .or),
   (.atomXor d a b, n, fun o x => o ^^^ x, true, .xor),
   (.atomXchg d a b, n, fun _ x => x, true, .xchg),
   (.atomIncw d a b, 4, fun o x => if x ≤ o then 0 else o + 1, true, .incw),
   (.atomFadd d a b, 4, sum, true, .fadd),
   (.redAdd a b, n, fun o x => (o + x) % 2 ^ (8 * n), false, .add),
   (.redFadd a b, 4, sum, false, .fadd),
   (.redMin a b, n, fun o x => if less o x then o else x, false, .min),
   (.redMax a b, n, fun o x => if less o x then x else o, false, .max)]

/-- The compare-and-swap words and their bytes. -/
noncomputable def swaps (d a b : BitVec 7) : List (Instr × Nat) := [(.cas d a b, 4), (.casD d a b, 8), (.casQ d a b, 16)]

/-- Byte `i` of a number. -/
def byteOf (x i : Nat) : Byte := BitVec.ofNat 8 (x / 2 ^ (8 * i))

/-- A strand's update of `n` bytes at `pa` by `f` has performed: the old value is returned, the new one is the latest, other
bytes are as they were, and the strand's region ends. -/
def Updated (s t : State) (pa n : Nat) (f : Nat → Nat) (ws : Nat → List RegWrite) : Prop :=
  ∃ u, MemoryOnly s u ∧ u.Changes t (fun _ x => endsRegion s (x.push (ws (s.latestNat pa n)))) ∧
    ∀ a < 2 ^ 52, t.latest a = if pa ≤ a ∧ a < pa + n then byteOf (f (s.latestNat pa n)) (a - pa) else s.latest a

/-- A strand's atomic has been sent to the host (R110, R351): as one request where it can be routed as such, else as a read that its
writes follow. The registers `ws` that it returns to, if any, are its own; the request bears the name of its word and the address, by
which the sheaf's strands keep their lane order (R107). -/
def SentUpdate (s t : State) (pa : Nat) (op : AtomOp) (d : Option Nat) (ws : List RegWrite) : Prop :=
  ∃ u : State, MemoryOnly s u ∧ SameBytes s t ∧ State.Changes { u with uid := s.uid + 1 } t fun _ x =>
    endsRegion s (sent s (if ws = [] then x else x.supersede ws)
      [(pa, if s.ctl.atomicRouting ∧ (op.fn = .add ∨ op.fn = .xchg ∨ op.fn = .cas) then .update op d else .fetch op d [])]
      (some (s.uid, pa)))

/-- The fences that wait for a band's own engine operations, with their code and scope: an acquire alone waits for nothing (R113). -/
noncomputable def fences (s : State) : List (Instr × Nat × Nat) :=
  [(.fence, if s.sh.ext.order = 1 then 5 else 0, s.sh.ext.scope), (.fenceE, 1, s.sh.ext.scope), (.fenceH, 2, 6)]

/-- A fence has to wait for a strand: something is left to release, for `fence.e` of the engines alone, and the chain has not waited for
it already. -/
def Waits (s : State) (m : Lane) (code scope : Nat) : Prop :=
  code ≠ 5 ∧ (s.str m).fenced = false ∧ ¬ if code = 1 then EnginesDone s m scope else NothingToRelease s m scope

/-- A word has parked its one strand until a fence's wait is over: the strand goes on after the chain, or, where the chain has other
words, which issue with the fence, the whole chain is held (R11). -/
def FenceParks (s t : State) (m : Lane) (code : Nat) (ops : List Nat) : Prop :=
  (t.str m).park = some ⟨.fence code s.sh.ext.scope ops, s.sh.pc, if s.sh.solo then some s.sh.next else none⟩ ∧
  SameBytes s t ∧ ∀ c x, (c ≠ s.sh.clump ∨ x ≠ m) → t.strand c x = s.strand c x

/-! ### Taking a trap -/

/-- A strand has taken a trap (R311, R312, R315, R316): its results outstanding have landed, %trapinfo holds the cause and ADDR,
%epc holds `epc`, and the strand is in the gap with nothing in its slot map. Without H, and with a handler, it stands at the
handler with H set. Otherwise its context faults, with code 2 where H was set and 1 where there is no handler, and it stands at
`back`. No other strand and no byte of memory changes. -/
structure TrapTaken (s t : State) (c : Nat) (m : Lane) (cause : Cause) (addr detail : Nat) (epc back : Word) : Prop where
  registers : (t.strand c m).v = ((s.strand c m).applyAll (s.strand c m).out.flatten).v
  predicates : (t.strand c m).p = ((s.strand c m).applyAll (s.strand c m).out.flatten).p
  landed : (t.strand c m).out = []
  info : (t.strand c m).tinfo = BitVec.ofNat 64 (cause.code * 2 ^ 56 + addr % 2 ^ 56)
  detail : (t.strand c m).detail = BitVec.ofNat 64 detail
  epc : (t.strand c m).epc = epc
  gap : (t.strand c m).gap = true ∧ (t.strand c m).fast = [] ∧ (t.strand c m).park = none
  enters : ∀ e, (s.strand c m).h = false → (s.plantingOf c).handler = some e →
    (t.strand c m).h = true ∧ (t.strand c m).pc = e ∧ t.ctxs = s.ctxs
  faults : ((s.strand c m).h = true ∨ (s.plantingOf c).handler = none) → (t.strand c m).h = (s.strand c m).h ∧
    (t.strand c m).pc = back ∧ ((s.ctx (s.clump c).ctx).faulted = none → (t.ctx (s.clump c).ctx).stopping = some 2 ∧
      (t.ctx (s.clump c).ctx).faulted = some (if (s.strand c m).h then 2 else 1))
  others : ∀ c' x, (c' ≠ c ∨ x ≠ m) → t.strand c' x = s.strand c' x
  memory : SameBytes s t

/-- A trap has come to a strand (R15, R315): it is taken, or, while results of the strand are to come on the CXL.io path, it is under
delivery, and the strand keeps the program counter values that %epc and the rollback point will take. -/
def Trapped (s t : State) (c : Nat) (m : Lane) (cause : Cause) (addr detail : Nat) (epc back : Word) : Prop :=
  if (s.strand c m).hostResults then
    (∃ x : Trap, x.cause = cause ∧ x.addr % 2 ^ 56 = addr % 2 ^ 56 ∧ x.detail = detail ∧
      t.strand c m = { s.strand c m with trap := some x, pc := epc, redo := back, park := none, marker := false }) ∧
    (∀ c' x, (c' ≠ c ∨ x ≠ m) → t.strand c' x = s.strand c' x) ∧ SameBytes s t
  else TrapTaken s t c m cause addr detail epc back

/-- The strand of a lane is held: it issues its chain again when the park ends. No other strand and no byte of memory changes. -/
structure Held (s t : State) (m : Lane) (on : ParkOn) : Prop where
  park : (t.str m).park = some ⟨on, s.sh.pc, none⟩
  kept : { t.str m with park := none } = { s.str m with park := none }
  others : ∀ c x, (c ≠ s.sh.clump ∨ x ≠ m) → t.strand c x = s.strand c x
  memory : SameBytes s t

/-- Where a cache-control word acts (R113, R114): the line in A, whose page is neither pinned in a core nor uncached. -/
def Names (s : State) (m : Lane) (a : BitVec 7) (pa home : Nat) : Prop :=
  ∃ e base size pin p, s.translate s.ctxNo (s.opA64 m a).toNat 1 .read = .ok p e base size pin ∧ pteHome e = home ∧
    home ≠ 1 ∧ home ≠ 3 ∧ pa = p / 128 * 128

end Sys2Proof.Claims

/-- R87, R91, R103 to R106, R128: an aligned load that reaches memory completes: its value is outstanding in the strand's registers,
and no byte of memory and no other strand changes. On the CXL.io path it is a request that has not performed. -/
def Sys2Proof.Claims.Loads : Prop :=
  ∀ (s : State) (m : Lane) (t base : BitVec 7) (off : BitVec 6) (pol : BitVec 2) (pa home : Nat),
    Alone s m → s.Inv → ∀ x ∈ loads t base off pol,
    Reaches s (s.addrM m base off x.2.1).toNat x.2.1 .read pa home → s.polFault pa home pol.toNat = false →
    s.poisoned pa x.2.1 = false →
    (¬ OnIo s pa home → HasToken s pa → Completes x.1 s fun u => ∃ v, MemoryOnly s v ∧
      v.Gives u (fun _ => loadedWords t x.2.1 x.2.2 (loadedValue s pa x.2.1 pol.toNat home s.sh.ext.cache)) ∧
      SameBytes s u) ∧
    (OnIo s pa home → Completes x.1 s fun u => ∃ v, MemoryOnly s v ∧ SameBytes s u ∧
      v.Changes u fun _ y => sent s (y.supersede (loadedWords t x.2.1 x.2.2 0))
        ((hostSpans x.2.1).map fun p => (pa + p.1, .read (t.toNat + p.1 / 4) p.2 x.2.2)))

/-- R104, R105, R113, R114, R74: whatever strands act, and whatever each meets, a load, a prefetch, a lease renewal, a
write-back or an invalidation of a copy changes no byte of memory. -/
def Sys2Proof.Claims.LoadsKeepMemory : Prop :=
  ∀ (s u : State) (t base : BitVec 7) (off : BitVec 6) (pol : BitVec 2), s.Inv →
    ∀ i ∈ (loads t base off pol).map (·.1) ++ [.ldSvW t base off, .ldSvQ t base off, .prefetch pol base, .leaseRenew t base,
      .cwb base, .cinv base], exec i s = .next u → u.Inv ∧ SameBytes s u

/-- Two statements of one subject: `Loads` and `LoadsKeepMemory`. -/
def Obligations.LoadWords : Prop := Claims.Loads ∧ Claims.LoadsKeepMemory

/-- R87, R104, R106, R108, R128, R360, R364: an aligned store that reaches memory completes: the bytes stored are the latest, every
other byte is as it was, and no strand changes but that a release ends the region of its own; memory of an enabled word window is
ordinary memory. On the CXL.io path the store is requests that have not performed. A store into an enabled window that takes sums, or
under a policy that a sweep's region forbids, takes "policy fault". A release that is held issues again later.
That an acq-rel store is a release is read from R108 (notes/assumptions/19.md). -/
def Obligations.Stores : Prop :=
  ∀ (s : State) (m : Lane) (t base : BitVec 7) (off : BitVec 6) (pol : BitVec 2) (pa home : Nat),
    Alone s m → s.Inv → ∀ x ∈ stores t base off pol, let va := (s.addrM m base off x.2).toNat
    let ends (y : Strand) : Strand := if 2 ≤ s.sh.ext.order then endsRegion s y else y
    Reaches s va x.2 .write pa home →
    (MayRelease s m pa → s.polFault pa home pol.toNat = false → Ordinary s pa →
      (¬ OnIo s pa home → HasToken s pa → Completes x.1 s fun u => ∃ v, MemoryOnly s v ∧ v.Changes u (fun _ y => ends y) ∧
        ∀ a < 2 ^ 52, u.latest a = if pa ≤ a ∧ a < pa + x.2 then storedByte s m t (a - pa) else s.latest a) ∧
      (OnIo s pa home → Completes x.1 s fun u => ∃ v, MemoryOnly s v ∧ SameBytes s u ∧ v.Changes u fun _ y =>
        ends (sent s y ((hostSpans x.2).map fun p =>
          (pa + p.1, .write ((List.range p.2).map fun i => storedByte s m t (p.1 + i))))))) ∧
    (MayRelease s m pa → s.polFault pa home pol.toNat = true ∨ ¬ Ordinary s pa → Completes x.1 s fun u =>
      Trapped s u s.sh.clump m .policy va 0 s.sh.at_ s.sh.at_) ∧
    (¬ MayRelease s m pa → Completes x.1 s fun u => Held s u m (.fence 4 (scopeAt s pa) (bandOps s m)))

/-- R107, R109, R110, R364: each update and compare-and-swap performs on the latest value at its line's home, or, on the CXL.io path, is
sent to the host; a `red.fadd` to a disabled window of F32 sums is an ordinary write.
Which requests carry an atomic on that path is read as notes/assumptions/29.md says; that a reduction, which returns nothing, takes no
poison trap is the model's choice (28.md). -/
def Obligations.AtomicUpdates : Prop :=
  ∀ (s : State) (m : Lane) (d a b : BitVec 7) (pa home : Nat), Alone s m → s.Inv → MayRelease s m pa → Ordinary s pa →
    (∀ x ∈ updates s d a b, Reaches s (s.opA64 m a).toNat x.2.1 .atomic pa home →
      (x.2.2.2.1 = true → s.poisoned pa x.2.1 = false) → (x.2.2.2.2 = .fadd → x.2.2.2.1 = false → ¬ IdleSum s pa) →
      let ws (o : Nat) : List RegWrite := if x.2.2.2.1 then loadedWords d x.2.1 false o else []
      let op : AtomOp := { fn := x.2.2.2.2, n := x.2.1, unsigned := s.sh.ext.mode.getLsbD 0, x := s.operand m b x.2.1 }
      Completes x.1 s fun t => if home = 3 ∧ s.ctl.place pa = .host
        then SentUpdate s t pa op (if x.2.2.2.1 then some d.toNat else none) (ws 0)
        else Updated s t pa x.2.1 (fun o => x.2.2.1 o (s.operand m b x.2.1)) ws) ∧
    (Reaches s (s.opA64 m a).toNat 4 .atomic pa home → IdleSum s pa → Completes (.redFadd a b) s fun t =>
      if home = 3 ∧ s.ctl.place pa = .host
        then ∃ v, MemoryOnly s v ∧ SameBytes s t ∧ v.Changes t fun _ y =>
          endsRegion s (sent s y [(pa, .write ((List.range 4).map (byteOf (s.operand m b 4))))])
        else Updated s t pa 4 (fun _ => s.operand m b 4) fun _ => []) ∧
    (∀ x ∈ swaps d a b, Reaches s (s.opA64 m a).toNat x.2 .atomic pa home → s.poisoned pa x.2 = false →
      let op : AtomOp := { fn := .cas, n := x.2, unsigned := s.sh.ext.mode.getLsbD 0, x := s.operand m b x.2, new := s.operandE m x.2 }
      Completes x.1 s fun t => if home = 3 ∧ s.ctl.place pa = .host
        then SentUpdate s t pa op (some d.toNat) (loadedWords d x.2 false 0)
        else Updated s t pa x.2 (fun o => if o = s.operand m b x.2 then s.operandE m x.2 else o) (loadedWords d x.2 false))

/-- R108, R113, R127, R156: a fence with nothing to wait for completes, with its core's clock past the events it waited for, and ends
the region of its strands; one that waits parks its strand, or holds a chain of several words; `fence.sw` waits for the context's
running sweeps and the band's queued updates instead.
How a chain of several words waits for a fence is the model's choice (notes/assumptions/32.md). -/
def Sys2Proof.Claims.Fences : Prop :=
  ∀ (s : State), s.Formed →
    let passes (i : Instr) : Prop := Completes i s fun t => ∃ u : State, u = { s with coh := { s.coh with cts := u.coh.cts } } ∧
      u.Changes t fun _ x => endsRegion s x
    (∀ i ∈ fences s, (∀ m ∈ s.active, ¬ Waits s m i.2.1 i.2.2) → passes i.1) ∧
    (∀ i ∈ fences s, ∀ m, Alone s m → Waits s m i.2.1 i.2.2 → Completes i.1 s fun t => FenceParks s t m i.2.1 (bandOps s m)) ∧
    ((∀ m ∈ s.active, (s.str m).fenced = true ∨ (s.runningSweeps s.ctxNo = [] ∧ s.bandUpdates s.sh.clump m.band = false)) →
      passes .fenceSw) ∧
    (∀ m, Alone s m → (s.str m).fenced = false → s.runningSweeps s.ctxNo ≠ [] ∨ s.bandUpdates s.sh.clump m.band = true →
      Completes .fenceSw s fun t => FenceParks s t m 3 (s.runningSweeps s.ctxNo))

/-- R113, R114: `cinv` writes back and drops an owned line of this core, `cwb` writes its dirty words home, neither has an effect on
another copy or on a pinned line; `prefetch` fills the line in this core's L1, and `lease.renew` gives 1 where no data has to move and
0 where it has; no byte's latest value changes.
That a prefetch or renewal pins no page is the model's choice (notes/assumptions/91.md); see 27.md for `cinv`. -/
def Sys2Proof.Claims.CacheControl : Prop :=
  ∀ (s : State) (m : Lane) (d a : BitVec 7) (pol : BitVec 2) (pa home : Nat), Alone s m → s.Inv → Names s m a pa home →
    let mine (t : State) : Option L1Line := (t.l1 s.coreOf (pa / 128)).filter fun l => l.ctx == s.ctxNo
    (Completes (.cinv a) s fun t => MemoryOnly s t ∧ SameBytes s t ∧
      mine t = (mine s).filter fun l => !(l.st == .own && home == 0)) ∧
    (Completes (.cwb a) s fun t => MemoryOnly s t ∧ SameBytes s t ∧
      mine t = (mine s).map (fun l => if l.st = .own ∧ home = 0 then { l with dirty := [] } else l)) ∧
    (HasToken s pa → s.polFault pa home pol.toNat = false → Completes (.prefetch pol a) s fun t =>
      MemoryOnly s t ∧ SameBytes s t ∧ (s.sh.ext.cache ≠ 3 → (mine t).isSome)) ∧
    (s.polFault pa home pol.toNat = true → exec (.prefetch pol a) s = .next s) ∧
    (HasToken s pa → Completes (.leaseRenew d a) s fun t => ∃ u x, MemoryOnly s u ∧ u.Gives t (fun _ => [.v d.toNat x]) ∧
      SameBytes s t ∧ (mine t).isSome ∧
      x = match mine s with
        | none => 0
        | some l => if l.st ≠ .lease ∨ ∀ w ∈ List.range 32, ((s.recall (pa / 128)).homeLine (pa / 128)).wtsOf w = l.wts.getD w l.base
          then 1 else 0)

/-- Two statements of one subject: `Fences` and `CacheControl`. Their choices of the model: notes/assumptions/32.md, 91.md, 27.md. -/
def Obligations.FencesAndCacheControl : Prop := Claims.Fences ∧ Claims.CacheControl

namespace Sys2Proof.Claims
open Sys2Proof.Machine

/-! ### Scratchpad -/

/-- The scratchpad loads and stores, with their bytes. -/
noncomputable def scratchLoads (t base : BitVec 7) (off : BitVec 6) (sz : BitVec 2) : List (Instr × Nat) :=
  [(.ldSp t base off sz, 2 ^ sz.toNat), (.ldSpQ t base off, 16)]
noncomputable def scratchStores (t base : BitVec 7) (off : BitVec 6) (sz : BitVec 2) : List (Instr × Nat) :=
  [(.stSp t base off sz, 2 ^ sz.toNat), (.stSpQ t base off, 16)]

/-- The number in `n` scratchpad bytes of a clump, the first byte lowest. -/
def scratchValue (c : Clump) (o n : Nat) : Nat := (List.range n).foldl (fun a i => a + (c.spad.getD (o + i) 0).toNat * 2 ^ (8 * i)) 0

/-- A scratchpad span touches a line that an engine has not yet filled (R133), or a poisoned one (R317). -/
def scratchAbsent (c : Clump) (o n : Nat) : Prop := ∃ x ∈ c.absent, o / 128 ≤ x.1 ∧ x.1 ≤ (o + n - 1) / 128
def scratchPoison (c : Clump) (o n : Nat) : Prop := ∃ x ∈ c.spadPoison, o / 128 ≤ x ∧ x ≤ (o + n - 1) / 128

/-- The thread accesses to memory: bytes, address and kind. -/
noncomputable def accesses (s : State) (m : Lane) (t a b : BitVec 7) (off : BitVec 6) (pol : BitVec 2) :
    List (Instr × Nat × Nat × Kind) :=
  (loads t a off pol).map (fun x => (x.1, x.2.1, (s.addrM m a off x.2.1).toNat, .read)) ++
  (stores t a off pol).map (fun x => (x.1, x.2, (s.addrM m a off x.2).toNat, .write)) ++
  (updates s t a b).map (fun x => (x.1, x.2.1, (s.opA64 m a).toNat, .atomic)) ++
  (swaps t a b).map (fun x => (x.1, x.2, (s.opA64 m a).toNat, .atomic))

/-! ### Where a chain sends its strands -/

/-- `t` is `s` but that each acting strand for which `f` gives a target goes there after the chain, and that the strands of
`links` have written their link. -/
structure Moves (s t : State) (f : Lane → Option Word) (links : List Lane) : Prop where
  rest : t = { s with sheaf := some { s.sh with
    moved := t.sh.moved, links := s.sh.links ++ links.map fun m => (m, (s.str m).out.length) } }
  moved : ∀ m, ((t.sh.moved.find? fun x => x.1 == m).map (·.2)) =
    if m ∈ s.active ∧ (f m).isSome then f m else (s.sh.moved.find? fun x => x.1 == m).map (·.2)

/-- The target of a branch (R18, R269): the packet of the word plus a signed displacement of 18, or with IMMEXT 40 bits, and a
slot. -/
def target (s : State) (disp : BitVec 18) (slot : BitVec 2) : Word :=
  cut (((s.sh.pc.toNat / 4 : Nat) + (match s.sh.ext.imm with
    | none => disp.toInt
    | some h => (h ++ disp : BitVec 40).toInt)) * 4 + slot.toNat)

/-- A branch's condition: p[P], or with N its complement (R269). -/
def goes (s : State) (neg : BitVec 1) (p : BitVec 3) (m : Lane) : Bool := (s.str m).pred p.toNat != decide (neg = 1)

/-- A result word's new value (R279). -/
def newResult (op : Nat) (old : Option Word) (x : Word) : Option Word :=
  match old with
  | none => some x
  | some r => some (match op with
    | 0 => x
    | 1 => if r.toNat < x.toNat then x else r
    | 2 => if x.toNat < r.toNat then x else r
    | 3 => r ||| x
    | _ => r + x)

/-- A lane's strand is live and does not act: it is live after the acting strands have ended. -/
def staysLive (s : State) (b : Nat) : List Nat := (s.band s.sh.clump b).live.filter fun l => !s.active.contains ⟨b, l⟩

/-- The life of a strand after `exit`: acting strands have exited; a band that had a participant and has no live strand left has
ended, with its strands pending restart. -/
def lifeAfterExit (s : State) (m : Lane) : Life :=
  if m ∈ s.active then .exited
  else if (s.activeBands.any fun x => x.1 == m.band) ∧ staysLive s m.band = [] ∧ (s.str m).life = .restart then .exited
  else (s.str m).life

end Sys2Proof.Claims

/-- R134, R135, R317: a scratchpad load of a span inside the allocation whose lines are present completes with its value
outstanding, and one that touches an absent line parks until it can read; a store changes the bytes it names, and nothing else
of the machine. That a chain of several words waits as a whole for the line, and then issues with what its load has read, is the
model's choice (notes/assumptions/81.md). -/
def Obligations.Scratchpad : Prop :=
  ∀ (s : State) (m : Lane) (t base : BitVec 7) (off : BitVec 6) (sz : BitVec 2), Alone s m → Sorted s.clp.spad →
    (∀ x ∈ scratchLoads t base off sz, let o := (s.addrS m base off x.2).toNat
      o % x.2 = 0 → o + x.2 ≤ s.clp.kernel.spad →
      (∀ v, (s.str m).got = some (o, x.2, v) → Completes x.1 s fun u => s.Gives u fun _ => loadedWords t x.2 false v) ∧
      ((∀ v, (s.str m).got ≠ some (o, x.2, v)) →
        (¬ scratchAbsent s.clp o x.2 → ¬ scratchPoison s.clp o x.2 →
          Completes x.1 s fun u => s.Gives u fun _ => loadedWords t x.2 false (scratchValue s.clp o x.2)) ∧
        (¬ scratchAbsent s.clp o x.2 → scratchPoison s.clp o x.2 → Completes x.1 s fun u =>
          Trapped s u s.sh.clump m .poison o 0 s.sh.at_ s.sh.at_) ∧
        (scratchAbsent s.clp o x.2 → s.sh.solo = true → Completes x.1 s fun u => s.Changes u fun _ y =>
          { y with park := some ⟨.spad o x.2 t.toNat, s.sh.pc, some s.sh.next⟩, redo := s.sh.start, overruled := false }) ∧
        (scratchAbsent s.clp o x.2 → s.sh.solo = false → Completes x.1 s fun u => Held s u m (.spad o x.2 t.toNat)))) ∧
    (∀ x ∈ scratchStores t base off sz, let o := (s.addrS m base off x.2).toNat
      o % x.2 = 0 → o + x.2 ≤ s.clp.kernel.spad → s.lockedFor s.coreOf s.ctxNo (some s.sh.clump) o x.2 true = none →
      Completes x.1 s fun u => u = s.updClump s.sh.clump (fun c => { c with spad := u.clp.spad }) ∧
        ∀ a, u.clp.spad.getD a 0 = if o ≤ a ∧ a < o + x.2 then storedByte s m t (a - o) else s.clp.spad.getD a 0) ∧
    (∀ x ∈ scratchLoads t base off sz ++ scratchStores t base off sz, let o := (s.addrS m base off x.2).toNat
      (o % x.2 ≠ 0 → Completes x.1 s fun u => Trapped s u s.sh.clump m .misaligned o 0 s.sh.at_ s.sh.at_) ∧
      (o % x.2 = 0 → s.clp.kernel.spad < o + x.2 → Completes x.1 s fun u =>
        Trapped s u s.sh.clump m .spadBounds o 0 s.sh.at_ s.sh.at_))

/-- R311, R312, R315, R316: what delivering a trap does to its strand, once its results on the CXL.io path have returned, and that it
does nothing else. -/
def Sys2Proof.Claims.TakingATrap : Prop :=
  ∀ (s : State) (c : Nat) (m : Lane) (x : Trap) (epc back : Word), s.Lists c m →
    Trapped s (s.deliverFrom c m x epc back) c m x.cause x.addr x.detail epc back

/-- R104, R138, R244, R313, R331, R385: where a thread access traps or is held: "misaligned" before anything else, then what
its translation forbids; then a range conflict, which never waits; then an absent page, or a chunk of a migrating page; a policy fault
in a sweep's region, and a poisoned granule for a load. -/
def Sys2Proof.Claims.AccessTraps : Prop :=
  ∀ (s : State) (m : Lane) (t a b : BitVec 7) (off : BitVec 6) (pol : BitVec 2), Alone s m → s.Inv →
    (∀ x ∈ accesses s m t a b off pol, let n := x.2.1; let va := x.2.2.1; let k := x.2.2.2
      (va % n ≠ 0 → Completes x.1 s fun u => Trapped s u s.sh.clump m .misaligned va 0 s.sh.at_ s.sh.at_) ∧
      (va % n = 0 → ∀ c, s.translate s.ctxNo va n k = .bad c → Completes x.1 s fun u =>
        Trapped s u s.sh.clump m c va 0 s.sh.at_ s.sh.at_) ∧
      (va % n = 0 → (∀ c, s.translate s.ctxNo va n k ≠ .bad c) →
        (∀ d, s.conflict s.coreOf s.ctxNo va n k.writes = some d → Completes x.1 s fun u =>
          Trapped s u s.sh.clump m .rangeConflict va d s.sh.at_ s.sh.at_) ∧
        (s.conflict s.coreOf s.ctxNo va n k.writes = none →
          (∀ level pte base size, s.translate s.ctxNo va n k = .absent level pte base size → Completes x.1 s fun u =>
            Held s u m (.xlate va k.code) ∧ ∃ f ∈ u.coh.faults, f.ctx = s.ctxNo ∧ f.die = s.clp.die ∧ f.pte = pte) ∧
          (s.translate s.ctxNo va n k = .migrating → Completes x.1 s fun u => Held s u m (.migrating va)) ∧
          (∀ pa e base size pin o, s.translate s.ctxNo va n k = .ok pa e base size pin → k.writes = true →
            s.lutAt s.coreOf s.ctxNo pa = some o → Completes x.1 s fun u =>
            Trapped s u s.sh.clump m .rangeConflict va (lockDetail (s.band o.clump o.band) none) s.sh.at_ s.sh.at_)))) ∧
    ∀ x ∈ loads t a off pol, let va := (s.addrM m a off x.2.1).toNat
      ∀ pa home, Reaches s va x.2.1 .read pa home →
      (s.polFault pa home pol.toNat = true → Completes x.1 s fun u =>
        Trapped s u s.sh.clump m .policy va 0 s.sh.at_ s.sh.at_) ∧
      (s.polFault pa home pol.toNat = false → HasToken s pa → s.poisoned pa x.2.1 = true → Completes x.1 s fun u =>
        Trapped s u s.sh.clump m .poison va 0 s.sh.at_ s.sh.at_)

/-- Two statements of one subject: `TakingATrap` and `AccessTraps`. -/
def Obligations.TrapsTaken : Prop := Claims.TakingATrap ∧ Claims.AccessTraps

/-- R311, R334, R335, R316: `trap`, `trap.if`, `brk` and `halt` have their effect after the chain, with %epc the first word after
it; the time words wait for the strand's accesses on the CXL.io path, and the results that it has outstanding land before it goes on;
`trapinfo` reads trap state; `eret` returns to %epc with H clear, in the gap
and with an empty slot map.
That a debug stop and `halt` report the chain's first word is the model's choice (notes/assumptions/48.md). -/
def Obligations.SystemWords : Prop :=
  ∀ (s : State) (d a b : BitVec 7), s.Formed →
    let later (ms : List Lane) (f : Lane → After) : State :=
      { s with sheaf := some { s.sh with users := s.sh.users ++ ms.map fun m => (m, f m) } }
    (Completes (.trap a b) s fun t => t = later s.active fun _ => .trap ⟨.userTrap, a.toNat * 128 + b.toNat, 0⟩) ∧
    (Completes (.trapIf d a) s fun t => t = later (s.active.filter fun m => s.opA m a != 0) fun m =>
      .trap ⟨.userTrap, (s.opA m a).toNat * 2 ^ 24 + d.toNat, 0⟩) ∧
    (Completes (.brk a b) s fun t => t = later s.active fun _ =>
      if (s.ctx s.ctxNo).debug then .debug ⟨.breakpoint, a.toNat * 128 + b.toNat, 0⟩
      else .trap ⟨.breakpoint, a.toNat * 128 + b.toNat, 0⟩) ∧
    (Completes (.halt a) s fun t => t = later s.active fun m => .halt (s.opA m a)) ∧
    (∀ m ∈ s.active, ∀ x, Trapped s (s.runAfter m (.trap x)) s.sh.clump m x.cause x.addr x.detail s.sh.next s.sh.at_) ∧
    (∀ m ∈ s.active, ∀ v, (s.ctx s.clp.ctx).faulted = none →
      let k := (s.runAfter m (.halt v)).ctx s.clp.ctx
      k.faulted = some 3 ∧ k.stopping = some 2 ∧ (k.record.map fun r => r.2.2.2) = some v.toNat) ∧
    (∀ m ∈ s.active, ∀ x, (s.ctx s.clp.ctx).faulted = none →
      ((s.runAfter m (.debug x)).ctx s.clp.ctx).faulted = some 4) ∧
    (∀ m, Alone s m → ∀ i ∈ [(Instr.rdtime d, s.time), (Instr.rdclk d, s.cycle)],
      ((s.str m).host = [] → Completes i.1 s fun t => ∃ u,
        u = later [m] (fun _ => .land (s.str m).out.length none ((s.bnd m).kout.filter fun w => w.lanes.contains m.lane)) ∧
        u.Gives t fun _ => pairWrites d (BitVec.ofNat 64 i.2)) ∧
      ((s.str m).host ≠ [] → Completes i.1 s fun t => Held s t m (.fence 6 0 []))) ∧
    (∀ m ∈ s.active, ∀ n ks, let u := s.runAfter m (.land n none ks)
      (u.str m).v = ((s.str m).applyAll ((s.str m).out.take n).flatten).v ∧
      (u.str m).p = ((s.str m).applyAll ((s.str m).out.take n).flatten).p ∧ ∀ w ∈ (u.bnd m).kout, w ∉ ks) ∧
    (Completes (.trapinfo d 0) s fun t => s.Gives t fun m => pairWrites d (s.str m).tinfo) ∧
    (Completes (.trapinfo d 2) s fun t => s.Gives t fun m => pairWrites d (s.str m).detail) ∧
    (∀ m, Alone s m → ∀ w, (s.fetchWord s.sh.clump (s.str m).epc).1 = .word w → fOp w ≠ 0x3F →
      s.Inv → Completes (.trapinfo d 1) s fun t => SameBytes s t ∧ ∃ u : State, MemoryOnly s u ∧
        u.Gives t fun _ => [.v d.toNat (s.str m).epc, .v (d.toNat + 1) w]) ∧
    (Completes .eret s fun t => ∃ u, Moves s u (fun m => some (s.str m).epc) [] ∧
      u.Changes t fun _ x => { x with h := false, gap := true, fast := [], super := [] })

/-- R269, R272: branches, jumps, calls and returns send their strands on after the whole chain; a call writes the link. -/
def Sys2Proof.Claims.BranchesAndCalls : Prop :=
  ∀ (s : State) (neg : BitVec 1) (p : BitVec 3) (disp : BitVec 18) (slot : BitVec 2) (a b : BitVec 7), s.Formed →
    let link (t : State) (u : State) (ms : List Lane) : Prop :=
      u.Gives t fun m => if m ∈ ms then [.v 127 s.sh.next] else []
    let taken := s.active.filter (goes s neg p)
    (Completes (.br neg p disp slot) s fun t =>
      Moves s t (fun m => if goes s neg p m then some (target s disp slot) else none) []) ∧
    (Completes (.call neg p disp slot) s fun t => ∃ u,
      Moves s u (fun m => if goes s neg p m then some (target s disp slot) else none) taken ∧ link t u taken) ∧
    (Completes (.jmpr a) s fun t => Moves s t (fun m => some (s.opA m a)) []) ∧
    (Completes (.callr a) s fun t => ∃ u, Moves s u (fun m => some (s.opA m a)) s.active ∧ link t u s.active) ∧
    (Completes .ret s fun t => Moves s t (fun m => some ((s.str m).reg 127)) []) ∧
    (Completes (.brx a b) s fun t => Moves s t (fun m =>
      some (BitVec.ofNat 32 ((s.sh.pc.toNat / 4 + 1 + min (s.opA m a).toNat (s.opB m b).toNat) * 4))) [])

/-- R11, R14, R262: where a chain's strands stand after it: at the target that a word gave, or at the first word after the chain,
with their age anew; with SW, a strand that waits for results, or for a scratchpad load, is parked on the switch marker. A strand that
a word has parked goes there when its park ends. -/
def Sys2Proof.Claims.EndOfAChain : Prop :=
  ∀ (s : State) (sw : Bool), s.Formed → ∀ m ∈ s.sh.lanes, s.sh.isStopped m = false → (s.str m).life = .live →
    s.sh.users = [] → (∀ x ∈ s.sh.links, x.1 ≠ m) →
    let goes := ((s.sh.moved.find? fun x => x.1 == m).map (·.2)).getD s.sh.next
    let loads := match (s.str m).park with
      | some ⟨.spad _ _ _, _, _⟩ => true
      | _ => false
    (s.finish sw).sheaf = none ∧
    (s.finish sw).strand s.sh.clump m = { s.str m with
      pc := if (s.str m).park = none then goes else (s.str m).pc
      park := (s.str m).park.map fun p => { p with next := p.next.map fun _ => goes }
      since := s.slotCount s.clp.coreNo (s.bnd m).quad, passes := 0, fenced := false, got := none
      marker := (s.str m).marker || (sw && (loads || !(s.bnd m).quiet m.lane)) }

/-- Two statements of one subject: `BranchesAndCalls` and `EndOfAChain`. -/
def Obligations.ControlFlow : Prop := Claims.BranchesAndCalls ∧ Claims.EndOfAChain

/-- R275, R276, R279: `exit` ends its strands and, with the last live one, the band; `exit.next` leaves them pending restart, and
with the last live one the band restarts at k[A]; `result` combines one value for each band. -/
def Obligations.EndingStrands : Prop :=
  ∀ (s : State) (d a : BitVec 7), s.Formed → (∀ b ∈ s.clp.bands, Sorted b.strands) →
    (Completes .exit s fun t => SameBytes s t ∧ t.mem = s.mem ∧ t.ctxs = s.ctxs ∧
      ∀ m, s.Lists s.sh.clump m → (t.str m).life = lifeAfterExit s m ∧ (t.str m).v = (s.str m).v) ∧
    (Completes (.exitNext d a) s fun t => SameBytes s t ∧ t.mem = s.mem ∧ t.ctxs = s.ctxs ∧
      (∀ m, s.Lists s.sh.clump m → (t.str m).life = (if m ∈ s.active then .restart else (s.str m).life) ∧
        (t.str m).v = (s.str m).v) ∧
      ∀ x ∈ s.activeBands, (t.clp.band x.1).restart =
        if staysLive s x.1 = [] then some ((s.clp.band x.1).ureg a.toNat, 8 * d.toNat) else (s.clp.band x.1).restart) ∧
    ((s.plantings.find? s.clp.planting).isSome → Completes (.result d a) s fun t => ∃ u : State,
      u = { s with plantings := u.plantings } ∧ u.Changes t (fun _ x => endsRegion s x) ∧
      (∀ p, p ≠ s.clp.planting → u.plantings.find? p = s.plantings.find? p) ∧
      let r := s.activeBands.foldl (fun r x => newResult d.toNat r ((s.clp.band x.1).ureg a.toNat)) (s.plantingOf s.sh.clump).result
      u.plantingOf s.sh.clump = { s.plantingOf s.sh.clump with result := r })

/-- A request of a strand on the CXL.io path is still to write one of some registers, which no later word has written since (R15). -/
def Sys2Proof.Claims.stillToCome (y : Strand) (regs : List Nat) : Bool :=
  let span (r n : Nat) : List Nat := (List.range ((n + 3) / 4)).map (r + ·)
  y.host.any fun q => (match q.act with
    | .read t n _ => span t n
    | .write _ => []
    | .update op d => d.elim [] fun r => span r op.n
    | .fetch op d _ => d.elim [] fun r => span r op.n).any fun r => !q.dead.contains r && regs.contains r

/-- R153 to R159: a region head whose entry is cached and fits: the strand's head, entry and live-in registers are those of the
entry, with the values that results outstanding to them leave, which land before the strand goes on, and no slot is superseded; where
one of them is still to come on the CXL.io path, the strand waits for it; an
index outside the table traps; an entry that the core has not cached holds the strand until it arrives. That HEAD counts from the start
of the word's extension words (`s.sh.start`) is the model's choice (notes/assumptions/44.md): R159 says only the program counter value
of this word. -/
def Obligations.RegionHeads : Prop :=
  ∀ (s : State) (m : Lane) (d a b : BitVec 7), Alone s m → s.Inv →
    let idx := s.sh.ext.mode.toNat * 2 ^ 14 + a.toNat * 2 ^ 7 + b.toNat
    let k := s.clp.kernel
    (k.nreg ≤ idx → Completes (.region d a b) s fun t =>
      Trapped s t s.sh.clump m .regionTable idx 0 s.sh.at_ s.sh.at_) ∧
    (idx < k.nreg → ∀ pa e base size pin, s.translate s.ctxNo (k.rtab + 16 * idx) 16 .read = .ok pa e base size pin →
      ((s.coreOf, s.ctxNo, k.rtab, idx) ∉ s.coh.rtabs → Completes (.region d a b) s fun t => Held s t m (.regionMiss idx)) ∧
      ((s.coreOf, s.ctxNo, k.rtab, idx) ∈ s.coh.rtabs → (s.bnd m).engOut = [] →
        let x := s.latestNat pa 16
        let regs := (List.range (x / 2 ^ 112 % 32)).map fun j => x / 2 ^ (7 * j) % 128
        x / 2 ^ 112 % 32 = d.toNat → d.toNat ≤ 16 → (∀ r ∈ regs, r < k.regs ∨ r = 127) →
        Completes (.region d a b) s fun t => ∃ (u w : State), MemoryOnly s u ∧ SameBytes s t ∧
          w = { u with sheaf := some { s.sh with users := s.sh.users ++ [(m, After.land (s.str m).out.length (some regs) [])] } } ∧
          w.Changes t fun _ y =>
            let landed := y.applyAll (y.out.filter fun ws => ws.any fun x => regs.contains x.key).flatten
            let z : Strand := { y with
              head := s.sh.start, ridx := idx, gap := false, fast := regs.map fun r => (r, landed.reg r)
              super := regs.map fun _ => false, headCtr := y.ctr
              spurious := if y.head = s.sh.start then y.spurious else none, stay := false }
            if Claims.stillToCome y regs then
              { z with park := some ⟨.fence 7 0 [], s.sh.pc, some s.sh.next⟩, redo := s.sh.start, overruled := false }
            else z))

namespace Sys2Proof.Claims
open Sys2Proof.Machine

/-! ### Barriers -/

/-- The lists that a clump holds by number are in order. -/
structure Tidy (c : Clump) : Prop where
  bars : Sorted c.bars
  strands : ∀ b ∈ c.bands, Sorted b.strands

/-- The clumps that share a clump's barriers, one phase and one set of arrivals (R307): the sheaf's, and its thicket peer. -/
def meets (s : State) : List Nat := s.sh.clump :: s.clp.peer.toList.filter fun p => (s.clumps.find? p).isSome

/-- The arrival of a strand breaks no rule (R307, R309). -/
structure MayArrive (s : State) (m : Lane) (n : Nat) (thicket : Bool) : Prop where
  first : (s.bar s.sh.clump n).count = 0 → (s.str m).arrived.getLsbD n = false
  plain : thicket = false → (s.bar s.sh.clump n).thicket = false
  both : thicket = true → (s.bar s.sh.clump n).count = 0 ∧
    ((s.bar s.sh.clump n).thicket = true ∨ ∀ x ∈ meets s, (s.clump x).arrivals n = 0)

/-- A strand counts as arrived (R275, R276, R306): it has arrived, has ended, or came to be pending restart. -/
def hasArrived (t : Strand) (n : Nat) : Prop :=
  t.life = .exited ∨ t.life = .absent ∨ t.arrived.getLsbD n = true ∨ t.excused.getLsbD n = true

/-- The parked strands of a clump may return: it is on its core, and its context's budget is not spent (R300, R301). -/
def mayReturn (s : State) (c : Nat) : Prop := (s.clump c).place = .resident ∧ s.spent (s.clump c).ctx = false

/-- With this arrival the phase completes (R306): in count mode at the count; else once every live strand has arrived, of both clumps
for `.t` arrivals, and for others of the clump, and of its peer where the phase has arrivals there. -/
def lastArrival (s : State) (m : Lane) (n : Nat) (thicket : Bool) : Prop :=
  let b := s.bar s.sh.clump n
  if b.count ≠ 0 then b.count ≤ b.arrivals + 1
  else ∀ x ∈ meets s, x = s.sh.clump ∨ thicket = true ∨ (s.clump x).arrivals n ≠ 0 →
    ∀ i < (s.clump x).bands.length, ∀ y ∈ (s.band x i).strands, hasArrived y.2 n ∨ (x = s.sh.clump ∧ i = m.band ∧ y.1 = m.lane)

/-- What a strand is when its park on `p` ends: it goes on after the word, whose region has ended (R156), or issues its chain
again; its age starts anew (R262). -/
def resumes (s : State) (c : Nat) (m : Lane) (p : Park) (x : Strand) : Strand :=
  { x with park := none, pc := p.next.getD x.pc, gap := x.gap || p.performs, stay := x.stay || p.performs, overruled := false
           spurious := if p.performs then none else x.spurious
           since := s.slotCount (s.clump c).coreNo (s.band c m.band).quad, passes := 0 }

/-- The status of a parked word in its strand, where no later slot of the word's chain has written the register (R15). -/
def withStatus (x : Strand) (w : RegWrite) : Strand := if x.overruled then x else x.writeNow [w]

/-- A barrier's arrivals have been dealt with: with the last one the phase moves on, its arrivals are gone, but that a strand which
is pending restart counts as arrived in the next phase too, and the strands that waited for it go on; other barriers are as they
were. The barrier of the sheaf's clump stays one with that of its thicket peer (R307). -/
structure Arrived (s t : State) (m : Lane) (n : Nat) (thicket : Bool) : Prop where
  phase : (lastArrival s m n thicket → ∀ x ∈ meets s, (t.bar x n).phase = (s.bar s.sh.clump n).phase + 1) ∧
    (¬ lastArrival s m n thicket → (t.bar s.sh.clump n).phase = (s.bar s.sh.clump n).phase)
  count : (t.bar s.sh.clump n).count = (s.bar s.sh.clump n).count
  one : (∀ x ∈ meets s, s.bar x n = s.bar s.sh.clump n) → ∀ x ∈ meets s, t.bar x n = t.bar s.sh.clump n
  arrivals : (s.bar s.sh.clump n).count ≠ 0 → ¬ lastArrival s m n thicket →
    (t.bar s.sh.clump n).arrivals = (s.bar s.sh.clump n).arrivals + 1
  marked : (s.bar s.sh.clump n).count = 0 → ¬ lastArrival s m n thicket → (t.str m).arrived.getLsbD n = true
  cleared : lastArrival s m n thicket → ∀ x ∈ meets s, (t.bar x n).arrivals = 0 ∧
    ∀ y, s.Lists x y → (t.strand x y).arrived.getLsbD n = false ∧
      (t.strand x y).excused.getLsbD n = (decide ((s.strand x y).life = .restart) && (s.strand x y).excused.getLsbD n)
  others : ∀ k, k ≠ n → ∀ c, t.bar c k = s.bar c k
  waiting : ∀ x ∈ meets s, ∀ y, s.Lists x y → (x ≠ s.sh.clump ∨ y ≠ m) →
    (t.strand x y).v = (s.strand x y).v ∧ (t.strand x y).out = (s.strand x y).out ∧
    (¬ lastArrival s m n thicket → (t.strand x y).park = (s.strand x y).park ∧ (t.strand x y).pc = (s.strand x y).pc) ∧
    (lastArrival s m n thicket → mayReturn s x → ∀ tok w pc, (s.strand x y).park = some ⟨.barrier n tok, w, some pc⟩ →
      tok = (s.bar s.sh.clump n).phase.toNat → (t.strand x y).park = none ∧ (t.strand x y).pc = pc)
  memory : SameBytes s t ∧ t.mem = s.mem

/-! ### Waiting -/

/-- The waits and their conditions on the word and the operand (R303). -/
noncomputable def waits (d : BitVec 3) (a b : BitVec 7) : List (Instr × Nat × (Word → Word → Bool)) :=
  [(.waitEq d a b, 0, fun w x => decide (w = x)), (.waitNe d a b, 1, fun w x => decide (w ≠ x)),
   (.waitGeu d a b, 2, fun w x => decide (x.toNat ≤ w.toNat)), (.waitMask d a b, 3, fun w x => decide (w &&& x ≠ 0))]

/-- A rollback has a strand issue the word at hand again, which reports its spurious status (R319). -/
def reissues (s : State) (m : Lane) : Bool := decide ((s.str m).spurious = some s.sh.pc)

/-- What a WAIT or a sleep leaves for some strands that it returns to at once: its status, false, which the next word reads (R14), and in
the sheaf, which of their results those are. -/
def returned (s : State) (d : BitVec 3) (x : Strand) : Strand := endsRegion s (x.push [.p d.toNat false])
def withReturned (s : State) (ms : List Lane) : Sheaf := { s.sh with links := s.sh.links ++ ms.map fun m => (m, (s.str m).out.length) }

/-- The lowest lane of some lanes. -/
def lowestLane (ms : List Lane) : Lane := ms.foldl (fun a x => if x.lane < a.lane then x else a) (ms.headD ⟨0, 0⟩)
/-- Lane 0 of the band of some lanes (R203). -/
def laneZero (ms : List Lane) : Lane := { lowestLane ms with lane := 0 }

/-- The strands of one band act. -/
structure OneBand (s : State) (b : Nat) : Prop where
  formed : s.Formed
  some : s.active ≠ []
  one : ∀ m ∈ s.active, m.band = b

/-- A lane's strand changes from one state to another, and no other strand, no byte of memory and no context does. -/
structure OnlyStrand (s t : State) (c : Nat) (m : Lane) (f : Strand → Strand) : Prop where
  strand : t.strand c m = f (s.strand c m)
  others : ∀ c' x, (c' ≠ c ∨ x ≠ m) → t.strand c' x = s.strand c' x
  rest : t = { s with clumps := t.clumps }

/-- The bands of the clump that `wake` names (R303). -/
def wakes (k : Word) (b : Nat) : Prop := k = 0xFFFFFFFF ∨ k.toNat = b

end Sys2Proof.Claims

/-- R306, R307, R309: arriving at a barrier, and arriving and waiting, of a clump and of a thicket. -/
def Sys2Proof.Claims.BarrierArrivals : Prop :=
  ∀ (s : State) (m : Lane) (d : BitVec 7) (a : BitVec 6), Alone s m → (s.str m).park = none → (s.str m).life = .live →
    ∀ th : Bool, MayArrive s m a.toNat th → (∀ x ∈ meets s, Tidy (s.clump x)) →
    let token := (s.bar s.sh.clump a.toNat).phase
    (Completes (if th then .barArriveT d a else .barArrive d a) s fun t => Arrived s t m a.toNat th ∧
      (t.str m).out = (s.str m).out ++ [[.v d.toNat token]] ∧ (t.str m).park = none ∧ (t.str m).gap = true) ∧
    (Completes (if th then .barSyncT a else .barSync a) s fun t => Arrived s t m a.toNat th ∧
      (lastArrival s m a.toNat th → mayReturn s s.sh.clump →
        (t.str m).park = none ∧ (t.str m).pc = s.sh.next ∧ (t.str m).gap = true) ∧
      (¬ lastArrival s m a.toNat th ∨ ¬ mayReturn s s.sh.clump →
        (t.str m).park = some ⟨.barrier a.toNat token.toNat, s.sh.pc, some s.sh.next⟩))

/-- R306, R307, R309: the mode of a barrier, for both clumps of a thicket, is set while its phase holds no arrivals; a wait parks until the phase differs from
the token, a test says whether it does; a second arrival in one phase is "barrier misuse". -/
def Sys2Proof.Claims.BarrierModesAndWaits : Prop :=
  ∀ (s : State) (m : Lane) (d : BitVec 7) (p : BitVec 3) (a : BitVec 6) (b : BitVec 7),
    let n := a.toNat
    let x := s.bar s.sh.clump n
    (Alone s m → (∀ y ∈ meets s, Sorted (s.clump y).bars) → let free : Prop := ∀ y ∈ meets s, (s.clump y).arrivals n = 0
      ((free ∧ x.thicket = false ∧ (s.opB m b).toNat ≤ 65536) → Completes (.barInit a b) s fun t => ∃ u : State,
        u = { s with clumps := u.clumps } ∧ (∀ c, u.clump c = { s.clump c with bars := (u.clump c).bars }) ∧
        (∀ y ∈ meets s, u.bar y n = { x with count := (s.opB m b).toNat, arrivals := 0 }) ∧
        (∀ c k, (c ∉ meets s ∨ k ≠ n) → u.bar c k = s.bar c k) ∧ u.Changes t fun _ y => endsRegion s y) ∧
      ((¬ free ∨ x.thicket = true ∨ 65536 < (s.opB m b).toNat) → Completes (.barInit a b) s fun t =>
        Trapped s t s.sh.clump m .barrierMisuse n 0 s.sh.at_ s.sh.at_) ∧
      (x.count = 0 → (s.str m).arrived.getLsbD n = true → ∀ i ∈ [Instr.barArrive d a, .barSync a], Completes i s fun t =>
        Trapped s t s.sh.clump m .barrierMisuse n 0 s.sh.at_ s.sh.at_)) ∧
    (s.Formed → (Completes (.barWait a b) s fun t => s.Changes t fun y z =>
        if x.phase = s.opB y b then
          { z with park := some ⟨.barrier n (s.opB y b).toNat, s.sh.pc, some s.sh.next⟩, redo := s.sh.start, overruled := false }
        else endsRegion s z) ∧
      Completes (.barTest p a b) s fun t => s.Changes t fun y z =>
        endsRegion s (z.push [.p p.toNat (decide (x.phase ≠ s.opB y b))]))

/-- Two statements of one subject: `BarrierArrivals` and `BarrierModesAndWaits`.
How strands pending restart count, and how one phase is kept for two clumps, is read as notes/assumptions/39.md and 43.md say. -/
def Obligations.Barriers : Prop := Claims.BarrierArrivals ∧ Claims.BarrierModesAndWaits

/-- R297 to R299, R303, R304, R319: a wait on an aligned, readable word arms a monitor for its band, and its strands park on it; the
monitor is woken at once if the word satisfies the condition already. A strand that a rollback has issue it again gets its spurious
status at once. The model's choices, not sentences of R298 to R303: a WAIT makes
no range-lock and no poison check (notes/assumptions/41.md), and a slice whose monitors are all armed makes room first, even where the
word satisfies the condition at once (notes/assumptions/40.md). -/
def Obligations.Waits : Prop :=
  ∀ (s : State) (k : Nat) (d : BitVec 3) (a b : BitVec 7), OneBand s k → s.Inv →
    let m := lowestLane s.active
    let va := (s.opA64 m a).toNat
    ∀ x ∈ waits d a b,
    (∀ pa e base size pin, va % 4 = 0 → s.translate s.ctxNo va 4 .read = .ok pa e base size pin → pteHome e ≠ 1 →
      s.ctl.place pa ≠ .control → (s.ctl.place pa = .host → pteHome e ≠ 3) →
      let ms := s.active.filter fun y => !reissues s y
      Completes x.1 s fun t => SameBytes s t ∧
        (ms = [] → t.coh.monitors = s.coh.monitors) ∧
        (ms ≠ [] → ∃ y, t.coh.monitors.find? s.uid = some y ∧ y.pa = pa ∧ y.va = va ∧ y.fn = x.2.1 ∧ y.value = s.opB m b ∧
          y.ctx = s.ctxNo ∧ y.clump = s.sh.clump ∧ y.band = k ∧ y.lanes = ms.map (·.lane) ∧ y.d = d.toNat ∧
          y.woken = if x.2.2 (BitVec.ofNat 32 (s.latestNat pa 4)) (s.opB m b) then some true else none) ∧
        t.sheaf = some (withReturned s (s.active.filter (reissues s))) ∧
        (∀ y ∈ s.active, t.str y = if reissues s y then returned s d (s.str y) else { s.str y with
          park := some ⟨.wait s.uid, s.sh.pc, some s.sh.next⟩, redo := s.sh.start, overruled := false }) ∧
        ∀ c y, (c ≠ s.sh.clump ∨ y ∉ s.active) → t.strand c y = s.strand c y) ∧
    (∀ y, s.active = [y] → va % 4 ≠ 0 → Completes x.1 s fun t =>
      Trapped s t s.sh.clump y .misaligned va 0 s.sh.at_ s.sh.at_)

/-- R14, R301, R303, R304, R319: `sleep` parks for A cycles, or returns at once with status 0 for none, and where a rollback has issued it
again; `yield` parks for 16 issue slots of the
quadrant; `wake` ends the sleep of every strand of the band that it names, or of all bands, with status 1 unless its cycles have passed;
a context whose budget is spent returns no strand. -/
def Sys2Proof.Claims.SleepYieldWake : Prop :=
  ∀ (s : State) (d : BitVec 3) (a : BitVec 7),
    (s.Formed → let n (m : Lane) : Nat := (s.opA m a).toNat % 2 ^ 24
      let soon (m : Lane) : Bool := decide (n m = 0) || reissues s m
      (Completes (.sleep d a) s fun t => ({ s with sheaf := some (withReturned s (s.active.filter soon)) } : State).Changes t fun m x =>
        if soon m then returned s d x else { x with
          park := some ⟨.sleep (s.cycle + n m) d.toNat, s.sh.pc, some s.sh.next⟩, redo := s.sh.start, overruled := false }) ∧
      Completes .yield s fun t => s.Changes t fun m x => { x with
        park := some ⟨.yield (s.slotCount s.clp.coreNo (s.bnd m).quad + 16), s.sh.pc, some s.sh.next⟩
        redo := s.sh.start, overruled := false }) ∧
    (∀ m, Alone s m → (s.str m).park = none → (∀ b ∈ s.clp.bands, Sorted b.strands) → Completes (.wake a) s fun t =>
      (t.str m = endsRegion s (s.str m)) ∧
      (s.spent s.ctxNo = false → ∀ y, s.Lists s.sh.clump y → y ≠ m → ∀ n p w pc, (s.str y).park = some ⟨.sleep n p, w, pc⟩ →
        wakes (s.opA m a) y.band →
        t.str y = resumes s s.sh.clump y ⟨.sleep n p, w, pc⟩ (withStatus (s.str y) (.p p (decide (s.cycle < n))))) ∧
      (∀ y, y ≠ m → (s.spent s.ctxNo = true ∨ ¬ wakes (s.opA m a) y.band ∨
        ∀ n p w pc, (s.str y).park ≠ some ⟨.sleep n p, w, pc⟩) → t.str y = s.str y) ∧
      ∀ c y, c ≠ s.sh.clump → t.strand c y = s.strand c y)

/-- R298, R299, R301, R303: a woken monitor of a resident clump returns its strands with its status, and is free; a sleep that has run
out returns status 0; a yield ends after its issue slots; where the context's budget is spent neither returns. -/
def Sys2Proof.Claims.WaitsEnd : Prop :=
  (∀ (s : State) (i : Nat) (x : Monitor) (st : Bool), Sorted s.coh.monitors → s.coh.monitors.find? i = some x → x.woken = some st →
    (s.spent x.ctx = true → exec (.waitMonitorWake i) s = .next s) ∧
    (s.spent x.ctx = false → (s.clump x.clump).place = .resident → Completes (.waitMonitorWake i) s fun t =>
      t.coh.monitors.find? i = none ∧ (∀ j, j ≠ i → t.coh.monitors.find? j = s.coh.monitors.find? j) ∧ SameBytes s t ∧
      (∀ l ∈ x.lanes, s.Lists x.clump ⟨x.band, l⟩ → ∀ w pc, (s.strand x.clump ⟨x.band, l⟩).park = some ⟨.wait i, w, pc⟩ →
        t.strand x.clump ⟨x.band, l⟩ =
          resumes s x.clump ⟨x.band, l⟩ ⟨.wait i, w, pc⟩ (withStatus (s.strand x.clump ⟨x.band, l⟩) (.p x.d st))) ∧
      ∀ c y, (c ≠ x.clump ∨ y.band ≠ x.band ∨ y.lane ∉ x.lanes) → t.strand c y = s.strand c y)) ∧
  ∀ (s : State) (c b l : Nat) (n : Nat) (w : Word) (pc : Option Word), s.Lists c ⟨b, l⟩ →
    (∀ p, (s.strand c ⟨b, l⟩).park = some ⟨.sleep n p, w, pc⟩ → n ≤ s.cycle → mayReturn s c →
      Completes (.sleepExpiry c b l) s fun t => OnlyStrand s t c ⟨b, l⟩ fun x =>
        resumes s c ⟨b, l⟩ ⟨.sleep n p, w, pc⟩ (withStatus x (.p p false))) ∧
    ((s.strand c ⟨b, l⟩).park = some ⟨.yield n, w, pc⟩ → n ≤ s.slotCount (s.clump c).coreNo (s.band c b).quad →
      Completes (.yieldExpiry c b l) s fun t => OnlyStrand s t c ⟨b, l⟩ fun x => resumes s c ⟨b, l⟩ ⟨.yield n, w, pc⟩ x) ∧
    (∀ p, (s.strand c ⟨b, l⟩).park = some ⟨.sleep n p, w, pc⟩ → s.cycle < n ∨ s.spent (s.clump c).ctx = true →
      exec (.sleepExpiry c b l) s = .next s)

/-- Two statements of one subject: `SleepYieldWake` and `WaitsEnd`.
That the status is written by the event that ends the wait is the model's choice (notes/assumptions/41.md). -/
def Obligations.SleepingAndWaking : Prop := Claims.SleepYieldWake ∧ Claims.WaitsEnd

/-- A mode-switch command of the context runs (R283). -/
def Sys2Proof.Claims.Switching (s : State) (c : Nat) : Prop :=
  ∃ x ∈ s.ctl.queues, x.2.cfg / 2 ^ 8 % 16 = c ∧ ∃ a w ws r, x.2.cmd = some (a, w :: ws, r) ∧ w.toNat % 256 = 3

/-- R300, R318: a clump that is no thicket's part, whose strands have all been parked for more than 4,096 cycles and of which nothing is
under way, is swapped out: its record is written to its context's save area, past the records of its other clumps; its monitors and
barriers stay, and so do other clumps and memory outside the record. One that has not been parked so long, or with its thicket's other
part has not, stays. The model's choices (notes/assumptions/47.md): a context without a save area swaps nothing out, and a record goes
past the others. -/
def Sys2Proof.Claims.SwappingOut : Prop :=
  ∀ (s : State) (c : Nat), let x := s.clump c
    (s.longParked c = false ∨ s.clumpSettled c = false ∨ (s.ctx x.ctx).save = 0 ∨
      (∃ p, x.peer = some p ∧ (s.clumps.find? p).isSome ∧ s.longParked p = false) → exec (.clumpSwapOut c) s = .next s) ∧
    (s.Inv → (s.clumps.find? c).isSome → x.peer = none → (∀ b ∈ x.bands, b.tape.mode = 0) → (∀ o ∈ s.ops, o.clump ≠ c) →
      s.longParked c = true → s.clumpSettled c = true → (s.ctx x.ctx).save ≠ 0 → Completes (.clumpSwapOut c) s fun t => ∃ n,
      (t.clump c).place = .swapped ∧ (t.clump c).parkedSince = none ∧ (t.clump c).ltime = s.cts x.coreNo ∧
      (t.clump c).record = some (s.swapBase x.ctx, n) ∧ (t.clump c).bars = x.bars ∧
      (∀ y, s.Lists c y → t.strand c y = { s.strand c y with gap := true, since := 0, passes := 0 }) ∧
      (∀ k, k ≠ c → t.clump k = s.clump k) ∧ (∀ i, (t.coh.monitors.find? i).isSome = (s.coh.monitors.find? i).isSome) ∧
      (s.swapBase x.ctx + n ≤ 2 ^ 52 → ∀ a < 2 ^ 52, (a < s.swapBase x.ctx ∨ s.swapBase x.ctx + n ≤ a) → t.latest a = s.latest a))

/-- R301, R305, R322, R353: a wait budget of zero stops its context, once a mode switch under way has completed; its snapshot is at its
SNAP address, and the host is interrupted; cycles that pass are charged to the contexts with a budget that a command has supplied and a
strand parked on a WAIT or BAR word. The model's choices: SNAP is a physical address (notes/assumptions/46.md), and a strand in `yield`
does not count as parked (notes/assumptions/39.md). -/
def Sys2Proof.Claims.WaitBudget : Prop :=
  (∀ (s : State) (c : Nat), s.Inv → let x := s.ctx c
    x.budget = 0 → x.broke = false → x.away = false → x.stopping = none → x.snap + (s.snapshot c).length ≤ 2 ^ 52 →
    Completes (.waitBudgetExhausted c) s fun t =>
      (∀ i, i < (s.snapshot c).length → t.latest (x.snap + i) = (s.snapshot c).getD i 0) ∧
      (∀ a < 2 ^ 52, (a < x.snap ∨ x.snap + (s.snapshot c).length ≤ a) → t.latest a = s.latest a) ∧
      (¬ Switching s c → t.ctx c = { x with stopping := some 1, broke := true }) ∧
      (Switching s c → t.ctx c = { x with modeSwitch := some (x.modeSwitch.getD 1), broke := true }) ∧
      t.irqs = s.irqs ++ [16 + 4 * c + 1] ∧ t.clumps = s.clumps) ∧
  ∀ (s : State) (core extra n : Nat), Completes (.coreClockTick core extra n) s fun t =>
    t.cycle = s.cycle + n ∧ s.cts core + extra ≤ t.cts core ∧ t.mem = s.mem ∧
    (∀ c, (∀ b, (t.band c b).strands = (s.band c b).strands)) ∧
    (Sorted s.ctxs → ∀ c, (t.ctx c).budget =
      if c < 16 ∧ (s.ctx c).metered = true ∧ s.charged c then (s.ctx c).budget - n else (s.ctx c).budget)

/-- Two statements of one subject: `SwappingOut` and `WaitBudget`.
Their choices of the model: notes/assumptions/47.md, 46.md, 39.md. -/
def Obligations.SwapOutAndBudget : Prop := Claims.SwappingOut ∧ Claims.WaitBudget

namespace Sys2Proof.Claims
open Sys2Proof.Machine

/-! ### Engine words -/

/-- An engine word has acted for its band: `u` is what it made of `s`, and in `t` its strands' regions have ended (R156). -/
def ActsForBand (t : State) (P : State → Prop) : Prop := ∃ u : State, P u ∧ u.Changes t fun _ x => endsRegion t x

/-- `u` is `s` with an engine result outstanding in band `b` of the sheaf's clump (R15), past what the band's engines have done. -/
def EngineResult (s u : State) (b : Nat) (e : EngOut) : Prop :=
  u = s.updBand s.sh.clump b fun k => { k with engOut := k.engOut ++ [{ e with time := k.etime }] }

/-- A result for a uniform register, known at once. -/
def toUniform (d : BitVec 7) (x : Nat) : EngOut := { kregs := [d.toNat], writes := [.k d.toNat (BitVec.ofNat 32 x)] }

/-- The same in a band of a state, past what the band's engines have done. -/
def toUniformIn (s : State) (k : Nat) (d : BitVec 7) (x : Nat) : EngOut := { toUniform d x with time := (s.band s.sh.clump k).etime }

/-! ### Tokens of transfers (R100, R101) -/

/-- Every bucket has the tokens that the transfers from `s` to `t` take from a context, with those already given to them. -/
def HasTokens (s t : State) (ctx : Nat) (paid : SMap Nat) : Prop := ∀ x ∈ s.owed t ctx, x.2 ≤ s.tokens x.1 ctx + paid.getD x.1 0

/-- An operation, or a late write, waits at a port for tokens, and has had no other effect. -/
structure AsksForTokens (s t : State) (id : Nat) : Prop where
  rest : t = { s with coh := { s.coh with spent := t.coh.spent, waiting := t.coh.waiting, idle := t.coh.idle }, ops := t.ops, late := t.late }
  ops : t.ops.map (fun o => { o with paid := [] }) = s.ops.map fun o => { o with paid := [] }
  late : t.late.map (fun w => { w with paid := [] }) = s.late.map fun w => { w with paid := [] }
  asks : ∃ r ∈ t.coh.waiting, r.op = some id

/-- Bytes `f` that an operation has written from `pa` on: within its scope they are the latest; outside it they are as they were, and wait,
line by line, to be written later (R124). Where a byte is homed is judged in `v`. -/
def PutByLines (v s t : State) (o : Op) (pa n : Nat) (f : Nat → Byte) : Prop :=
  ∃ ws, t.late = s.late ++ ws ∧
    (∀ w ∈ ws, w.op = o.id ∧ w.ctx = o.ctx ∧ w.clump = o.clump ∧ w.band = o.band ∧ w.need = v.scopeOf o.die w.pa ∧ o.scope < w.need ∧
      w.bytes ≠ [] ∧ pa ≤ w.pa ∧ w.pa + w.bytes.length ≤ pa + n ∧ w.pa % 128 + w.bytes.length ≤ 128 ∧
      w.bytes = (List.range w.bytes.length).map fun k => f (w.pa - pa + k)) ∧
    ∀ a < 2 ^ 52, if pa ≤ a ∧ a < pa + n then
        if v.scopeOf o.die a ≤ o.scope then t.latest a = f (a - pa)
        else t.latest a = s.latest a ∧ ∃ w ∈ ws, w.pa ≤ a ∧ a < w.pa + w.bytes.length
      else t.latest a = s.latest a

/-- The copies and their forms (R142). -/
noncomputable def copies (d a b : BitVec 7) : List (Instr × Nat) :=
  [(.cpG2s d a b, 0), (.cpS2g d a b, 1), (.cpG2g d a b, 2), (.cpGather d a b, 3), (.cpScatter d a b, 4)]

/-- The eight words of a descriptor in field A of the lowest lane (R140). -/
def descriptor (s : State) (a : BitVec 7) : List Word := (List.range 8).map fun i => s.opAword (lowestLane s.active) a i

/-- A band's next handle (R141). -/
def nextHandle (s : State) (b : Nat) : Nat := (s.band s.sh.clump b).issued % 2 ^ 16

/-- The operation `i` has ended: its range locks are released, the lines that it writes are present, and it is under way no
more. -/
structure OpEnded (t : State) (o : Op) : Prop where
  op : ∀ x ∈ t.ops, x.id ≠ o.id
  locks : ∀ x ∈ t.locks, x.2.op ≠ o.id
  lines : ∀ x ∈ (t.clump o.clump).absent, x.2 ≠ o.id

/-- Bytes of a row or element of a copy (R140, R142). -/
def rowSize (d : CopyDesc) : Nat := if d.form ≤ 2 then d.rowlen else 4 * 2 ^ d.esize

/-- Where row or element `r` of a copy lies in global memory: rows by the stride, elements by the index words (R142). -/
def globalAt (s : State) (o : Op) (d : CopyDesc) (r : Nat) : Nat :=
  let n : Nat := if d.form ≤ 2 then r else scratchValue (s.clump o.clump) (d.ioff + 4 * r) 4
  (((d.gaddr : Int) + n * d.gstride) % 2 ^ 64).toNat

/-- The other side of row or element `r`: a second global address, or a scratchpad offset, where elements are packed. -/
def otherAt (d : CopyDesc) (r : Nat) : Nat :=
  if d.form = 2 then (((d.soff : Int) + r * d.sstride) % 2 ^ 64).toNat
  else if d.form ≤ 1 then ((d.soff : Int) + r * d.sstride).toNat
  else d.soff + r * rowSize d

/-- A copy is under way: it has a handle that its band tracks, and each row lies in one 4 KiB piece of a page, each element in its own
place. -/
structure Copying (s : State) (i : Nat) (o : Op) (d : CopyDesc) (h compl : Nat) : Prop where
  op : s.op i = some o
  kind : o.kind = .copy d compl
  under : o.paused = none
  handle : o.handle = some h ∧ (s.band o.clump o.band).handles.any (fun x => x.1 == h) = true ∧ h < 2 ^ 16
  size : d.form ≤ 4 ∧ 0 < rowSize d
  rows : ∀ r < d.rows, globalAt s o d r % 4096 + rowSize d ≤ 4096 ∧ (d.form = 2 → otherAt d r % 4096 + rowSize d ≤ 4096)
  elements : 3 ≤ d.form → ∀ r < d.rows, globalAt s o d r % rowSize d = 0
  clump : (s.clumps.find? o.clump).isSome ∧ o.band < (s.clump o.clump).bands.length ∧ Sorted (s.clump o.clump).spad

/-- The rows at the addresses `g` translate to `pa` and pin no page, but that a copy of one row without a completion word may pin its
own. -/
def RowsAt (s : State) (o : Op) (d : CopyDesc) (k : Kind) (g pa : Nat → Nat) : Prop :=
  ∀ r < d.rows, ∃ e base size pin, s.translate o.ctx (g r) (rowSize d) k false = .ok (pa r) e base size pin ∧
    (pin = none ∨ (d.rows = 1 ∧ d.cw = false ∧ d.form ≠ 2))

/-- Rows that are written: they lie in one page, each byte inside the operation's scope, and in no window that takes sums (R124, R361). -/
structure RowsOut (s : State) (o : Op) (d : CopyDesc) (g pb : Nat → Nat) : Prop where
  page : ∃ e base size pin, (pin = none ∨ (d.rows = 1 ∧ d.cw = false)) ∧ ∀ r < d.rows,
    s.translate o.ctx (g r) (rowSize d) .engWrite false = .ok (pb r) e base size pin ∧
    ∀ k < rowSize d, (s.useLeaf o.ctx base size e pin).scopeOf o.die (pb r + k) ≤ o.scope
  ordinary : ∀ r < d.rows, Ordinary s (pb r)

/-- No other row shares a byte with row `r`. -/
def RowApart (n rows : Nat) (at_ : Nat → Nat) (r : Nat) : Prop := ∀ q < rows, q ≠ r → at_ q + n ≤ at_ r ∨ at_ r + n ≤ at_ q

/-- The bytes of rows at `to_` are those that `from_` gives; where rows share bytes, the statement is silent on them. Others are as
they were. -/
def RowsMoved (n rows : Nat) (to_ : Nat → Nat) (from_ : Nat → Nat → Byte) (after before : Nat → Byte) (top : Nat) : Prop :=
  (∀ r < rows, RowApart n rows to_ r → ∀ k < n, after (to_ r + k) = from_ r k) ∧
  ∀ a < top, (∀ r < rows, a < to_ r ∨ to_ r + n ≤ a) → after a = before a

/-- Each strand of a band whose park `p` describes goes on; every other strand is as it was. -/
def Wakes (s t : State) (c b : Nat) (p : ParkOn → Bool) : Prop :=
  (∀ l, s.Lists c ⟨b, l⟩ → ∀ k, (s.strand c ⟨b, l⟩).park = some k → p k.on = true →
    t.strand c ⟨b, l⟩ = resumes s c ⟨b, l⟩ k (s.strand c ⟨b, l⟩)) ∧
  ∀ c' m, (c' ≠ c ∨ m.band ≠ b ∨ ∀ k, (s.strand c m).park = some k → p k.on = false) → t.strand c' m = s.strand c' m

end Sys2Proof.Claims

/-- R137 to R141, R144, R15: a copy whose descriptor breaks no rule and whose ranges are free is accepted: its operation is under
way with the band's next handle, which is in flight and is its result, and its events come after what the core has done so far; it
traps on a descriptor that breaks a rule, and on a field B where the descriptor asks for no completion word, and is held while a range
is locked.
That GADDR is checked even with no rows, and that a field B without a completion word is an illegal instruction found when the
descriptor is read, are the model's choices (notes/assumptions/17.md, 16.md). -/
def Sys2Proof.Claims.CopiesIssue : Prop :=
  ∀ (s : State) (k : Nat) (d a b : BitVec 7), OneBand s k → ∀ x ∈ copies d a b,
    let y := copyDesc x.2 (descriptor s a)
    let compl := (s.opB64 (lowestLane s.active) b).toNat
    let plain := y.cw = true ∨ b = 0
    (plain → copyBad y (descriptor s a) = false → y.refuses s.clp compl = none →
      (s.lockWait s.clp.coreNo s.ctxNo (y.ranges s.sh.clump) = false → Completes x.1 s fun t => ActsForBand t fun u =>
        (∃ f, s.cts (coreNo s.sh.die s.sh.core) < f ∧
          u.ops = s.ops ++ [{ id := s.uid, ctx := s.ctxNo, clump := s.sh.clump, band := k, die := s.sh.die, core := s.sh.core,
                              kind := .copy y compl, scope := s.sh.ext.scope, handle := some (nextHandle s k), lines := y.lines
                              floor := f, time := f }]) ∧
        (u.band s.sh.clump k).engOut = (s.band s.sh.clump k).engOut ++ [toUniformIn s k d (nextHandle s k)] ∧
        (u.band s.sh.clump k).handleStatus (nextHandle s k) = 1 ∧ (u.band s.sh.clump k).issued = (s.band s.sh.clump k).issued + 1 ∧
        (∀ r ∈ y.ranges s.sh.clump, ∃ l ∈ u.locks, l.2.lo = r.lo ∧ l.2.hi = r.hi ∧ l.2.write = r.write ∧ l.2.op = s.uid) ∧
        (∀ l ∈ y.lines, (l, s.uid) ∈ u.clp.absent) ∧ u.mem = s.mem ∧ u.coh = s.coh ∧
        ∀ c m, u.strand c m = s.strand c m) ∧
      (∀ m, s.active = [m] → s.sh.lanes = [m] → s.lockWait s.clp.coreNo s.ctxNo (y.ranges s.sh.clump) = true →
        Completes x.1 s fun t => Held s t m .engineIssue)) ∧
    ∀ m, s.active = [m] → s.sh.lanes = [m] →
      (¬ plain → Completes x.1 s fun t => Trapped s t s.sh.clump m .illegal 0 0 s.sh.at_ s.sh.at_) ∧
      (plain → copyBad y (descriptor s a) = true →
        Completes x.1 s fun t => Trapped s t s.sh.clump m .copyDescriptor 0 0 s.sh.at_ s.sh.at_)

/-- R125, R143, R145: `cp.poll` gives a handle's status, and so does `cp.wait` unless the operation is in flight: then the strands of
the band park until it has ended; the strands that it returns follow in logical time what the band's engines have done; `cp.queue` posts
a copy unreleased. -/
def Sys2Proof.Claims.CopyHandles : Prop :=
  ∀ (s : State) (k : Nat) (d a b : BitVec 7), OneBand s k →
    let st := (s.band s.sh.clump k).handleStatus ((s.band s.sh.clump k).ureg a.toNat).toNat
    (Completes (.cpPoll d a) s fun t => ActsForBand t fun u => EngineResult s u k (toUniform d st)) ∧
    (st ≠ 1 → Completes (.cpWait d a) s fun t => ActsForBand t fun u => ∃ v : State,
      v = { s with coh := { s.coh with cts := v.coh.cts } } ∧ EngineResult v u k (toUniform d st) ∧
      (st = 0 → (s.band s.sh.clump k).etime ≠ 0 → (s.band s.sh.clump k).etime < v.cts s.clp.coreNo)) ∧
    (st = 1 → s.active = s.sh.lanes → Completes (.cpWait d a) s fun t => s.Changes t fun _ x =>
      { x with park := some ⟨.copyWait ((s.band s.sh.clump k).ureg a.toNat).toNat d.toNat, s.sh.pc, some s.sh.next⟩
               redo := s.sh.start, overruled := false }) ∧
    (let ws := descriptor s a
     let kind := (descWord ws 7).toNat % 8
     let compl := (s.opB64 (lowestLane s.active) b).toNat
     kind ≤ 4 → ((copyDesc kind ws).cw = true ∨ b = 0) → copyBad (copyDesc kind ws) ws = false → (copyDesc kind ws).refuses s.clp compl = none →
     (s.band s.sh.clump k).unrel.length < Config.maxUnreleased →
     Completes (.cpQueue d a b) s fun t => ActsForBand t fun u =>
       (∃ f, (u.band s.sh.clump k).unrel = (s.band s.sh.clump k).unrel ++
         [{ op := 0x22, fn := kind, desc := ws, handle := nextHandle s k, compl := compl, scope := s.sh.ext.scope, floor := f }]) ∧
       (u.band s.sh.clump k).handleStatus (nextHandle s k) = 2 ∧
       (u.band s.sh.clump k).engOut = (s.band s.sh.clump k).engOut ++ [toUniformIn s k d (nextHandle s k)] ∧
       u.ops = s.ops ∧ u.locks = s.locks ∧ u.mem = s.mem ∧ u.coh = s.coh ∧ ∀ c m, u.strand c m = s.strand c m)

/-- Two statements of one subject: `CopiesIssue` and `CopyHandles`. Their choices of the model: notes/assumptions/17.md, 16.md. -/
def Obligations.CopiesAccepted : Prop := Claims.CopiesIssue ∧ Claims.CopyHandles

/-- R100, R124, R125, R133, R137, R142, R143: a copy of any form and any number of rows or elements completes: each row's bytes are those
that its source held, every other byte is as it was, and the operation has ended, with status 0; a completion word is written. Lines
outside the operation's scope are written later, by events of their own, those of one byte in the operation's order. A transfer whose
buckets have too few tokens waits for them. An element that is not aligned ends the operation in "engine
fault". That a copy moves its bytes at one moment, its completion, is the model's choice (notes/assumptions/31.md). -/
def Obligations.CopiesComplete : Prop :=
  (∀ (s : State) (i : Nat) (o : Op) (d : CopyDesc) (h compl : Nat) (pa pb : Nat → Nat), s.Inv → Copying s i o d h compl →
    let n := rowSize d
    let g := globalAt s o d
    let l := otherAt d
    let scratch (t : State) (a : Nat) : Byte := (t.clump o.clump).spad.getD a 0
    let done (t : State) : Prop := OpEnded t o ∧ (t.band o.clump o.band).handleStatus h = 0
    let moved (t : State) (pc : Nat) : Prop :=
      if d.form = 0 ∨ d.form = 3 then
        RowsMoved n d.rows l (fun r k => s.latest (pa r + k)) (scratch t) (scratch s) (2 ^ 32) ∧
        ∀ a < 2 ^ 52, ¬ (d.cw = true ∧ pc ≤ a ∧ a < pc + 4) → t.latest a = s.latest a
      else
        (∀ a, scratch t a = scratch s a) ∧
        RowsMoved n d.rows pb (fun r k => if d.form = 2 then s.latest (pa r + k) else scratch s (l r + k))
          (fun a => if d.cw = true ∧ pc ≤ a ∧ a < pc + 4 then s.latest a else t.latest a) s.latest (2 ^ 52)
    (d.form ≠ 1 ∧ d.form ≠ 4 → RowsAt s o d .engRead g pa) →
    (d.form ≠ 0 ∧ d.form ≠ 3 → RowsOut s o d (if d.form = 2 then l else g) pb) →
    (¬ HasTokens s (s.runCopy o d compl) o.ctx o.paid → Completes (.copyCompletion i) s fun t => AsksForTokens s t i) ∧
    (HasTokens s (s.runCopy o d compl) o.ctx o.paid → d.cw = false → Completes (.copyCompletion i) s fun t => done t ∧ moved t 0) ∧
    (HasTokens s (s.runCopy o d compl) o.ctx o.paid → d.cw = true → compl % 4 = 0 → (s.cached o.ctx compl).isSome → ∀ pc e base size,
      s.translate o.ctx compl 4 .engWrite false = .ok pc e base size none →
      ((d.form ≠ 0 ∧ d.form ≠ 3) → ∀ r < d.rows, pb r + n ≤ pc ∨ pc + 4 ≤ pb r) →
      Completes (.copyCompletion i) s fun t => done t ∧ moved t pc ∧ ∀ k < 4, t.latest (pc + k) = byteOf d.cval k)) ∧
  (∀ (s : State) (i : Nat) (o : Op) (d : CopyDesc) (h compl pb : Nat), s.Inv → Copying s i o d h compl → d.form = 1 → d.rows = 1 →
    d.cw = false → ∀ e base size pin,
    s.translate o.ctx (globalAt s o d 0) (rowSize d) .engWrite false = .ok pb e base size pin → Ordinary s pb →
    HasTokens s (s.runCopy o d compl) o.ctx o.paid → Completes (.copyCompletion i) s fun t => OpEnded t o ∧
      (t.band o.clump o.band).handleStatus h = 0 ∧ PutByLines (s.useLeaf o.ctx base size e pin) s t o pb (rowSize d) fun k =>
        (s.clump o.clump).spad.getD (otherAt d 0 + k) 0) ∧
  (∀ (s : State) (w : LateWrite), s.Inv → s.op w.id = none → s.late.find? (fun x => x.id == w.id) = some w →
    w.pa % 4096 + w.bytes.length ≤ 4096 →
    let before : Prop := ∃ x ∈ s.late, x.op = w.op ∧ x.id < w.id ∧ x.pa < w.pa + w.bytes.length ∧ w.pa < x.pa + x.bytes.length
    (before → exec (.copyCompletion w.id) s = .next s) ∧
    (¬ before → ¬ HasTokens s (s.putLate w) w.ctx w.paid → Completes (.copyCompletion w.id) s fun t => AsksForTokens s t w.id) ∧
    (¬ before → HasTokens s (s.putLate w) w.ctx w.paid → Completes (.copyCompletion w.id) s fun t =>
      t.late = s.late.filter (fun x => x.id != w.id) ∧
      ∀ a < 2 ^ 52, t.latest a = if w.pa ≤ a ∧ a < w.pa + w.bytes.length then w.bytes.getD (a - w.pa) 0 else s.latest a)) ∧
  ∀ (s : State) (i : Nat) (o : Op) (d : CopyDesc) (h compl : Nat) (pa : Nat → Nat), s.op i = some o → o.kind = .copy d compl →
    o.paused = none → o.handle = some h → (s.band o.clump o.band).handles.any (fun x => x.1 == h) = true → h < 2 ^ 16 →
    (s.clumps.find? o.clump).isSome ∧ o.band < (s.clump o.clump).bands.length → d.form = 3 → d.cw = false →
    RowsAt s o d .engRead (globalAt s o d) pa → (∀ r < d.rows, globalAt s o d r % 4096 + rowSize d ≤ 4096) →
    (∃ r < d.rows, globalAt s o d r % rowSize d ≠ 0) → HasTokens s (s.runCopy o d compl) o.ctx o.paid →
    Completes (.copyCompletion i) s fun t => OpEnded t o ∧ (t.band o.clump o.band).handleStatus h = 3 ∧ SameBytes s t ∧
      ∃ va, (t.band o.clump o.band).pend = some ⟨.engineFault, h, va⟩

/-- R146 to R148: `bin.count` gives a strand the count at its index and adds one, saturating; `bin.read` gives it and clears it;
`bin.patch` puts it into the ROWS of an unreleased command; the index 0xFFFFFFFF does nothing, and one from 256 on traps. -/
def Sys2Proof.Claims.BinCounts : Prop :=
  ∀ (s : State) (m : Lane) (d a b : BitVec 7), Alone s m → Sorted s.clp.spad →
    let fits (o : Nat) : Prop := o % 128 = 0 ∧ o + 1024 ≤ s.clp.kernel.spad ∧
      s.lockedFor s.clp.coreNo s.ctxNo (some s.sh.clump) o 1024 true = none
    let i := s.opB m b
    let result (n : Nat) : EngOut := { vregs := [d.toNat], writes := [.lane m.lane (.v d.toNat (BitVec.ofNat 32 n))] }
    let gives (u : State) (o n : Nat) : Prop := ∃ v, EngineResult s v m.band (result n) ∧
      u = (v.updClump s.sh.clump fun c => { c with spad := u.clp.spad }).updBand s.sh.clump m.band fun k =>
        if o / 128 ∈ s.clp.spadPoison ∧ d.toNat / 8 ∉ k.regPoison then { k with regPoison := k.regPoison ++ [d.toNat / 8] } else k
    let holds (u : State) (o n : Nat) : Prop := ∀ x, u.clp.spad.getD x 0 =
      if o ≤ x ∧ x < o + 4 then byteOf n (x - o) else s.clp.spad.getD x 0
    (let o := (s.opA m a).toNat
     fits o → i.toNat < 256 → let n := scratchValue s.clp (o + 4 * i.toNat) 4
      (Completes (.binCount d a b) s fun t => ActsForBand t fun u => holds u (o + 4 * i.toNat) (min (n + 1) 0xFFFFFFFF) ∧
        gives u (o + 4 * i.toNat) n) ∧
      (Completes (.binRead d a b) s fun t => ActsForBand t fun u => holds u (o + 4 * i.toNat) 0 ∧
        gives u (o + 4 * i.toNat) n)) ∧
    (let o := (s.opD m d).toNat
     fits o → i.toNat < 256 → let n := scratchValue s.clp (o + 4 * i.toNat) 4
      let h := (s.opA m a).toNat
      (n < 65536 → (∃ x ∈ (s.bnd m).unrel, x.handle = h) → Completes (.binPatch d a b) s fun t => ActsForBand t fun u =>
        u = s.updBand s.sh.clump m.band fun y => { y with unrel := y.unrel.map fun x =>
          if x.handle ≠ h then x
          else if x.op = 0x22 then { x with desc := x.desc.set 4 (BitVec.ofNat 32 (n * 2 ^ 16 + (descWord x.desc 4).toNat % 2 ^ 16)) }
          else { x with desc := [descWord x.desc 0, BitVec.ofNat 32 n] } }) ∧
      ((65536 ≤ n ∨ ∀ x ∈ (s.bnd m).unrel, x.handle ≠ h) → Completes (.binPatch d a b) s fun t =>
        Trapped s t s.sh.clump m .copyDescriptor h 0 s.sh.at_ s.sh.at_)) ∧
    (∀ x ∈ [(Instr.binCount d a b, (s.opA m a).toNat), (.binRead d a b, (s.opA m a).toNat), (.binPatch d a b, (s.opD m d).toNat)],
      (fits x.2 → i = 0xFFFFFFFF → Completes x.1 s fun t => s.Changes t fun _ y => endsRegion s y) ∧
      (fits x.2 → 256 ≤ i.toNat → i ≠ 0xFFFFFFFF → Completes x.1 s fun t =>
        Trapped s t s.sh.clump m .spadBounds ((x.2 + 4 * i.toNat) % 2 ^ 32) 0 s.sh.at_ s.sh.at_))

/-- The writes of an engine result that no later slot of the issuing chain has overruled (R15): a lane's register by its key, or a uniform
register. -/
def Sys2Proof.Claims.standing (e : EngOut) : List EngWrite := e.writes.filter fun w => !e.skip.contains (match w with
  | .lane l (.v r _) => (l, r)
  | .lane l (.p r _) => (l, 128 + r)
  | .k r _ => (32, 256 + r))

/-- R15, R139: an engine result that is known lands in its band's registers, but for those that a later slot has written, and the strands
held for its registers issue again; so do the strands held at issue for a range lock, where no released command waits before them. That
a short-latency result to the same register that is still outstanding is dropped then (notes/assumptions/74.md), and that the strands held
for a lock issue again whether or not it is free, to be held again where it is not (25.md), are the model's choices. -/
def Sys2Proof.Claims.EngineResultsLand : Prop :=
  ∀ (s : State) (c b i : Nat) (e : EngOut), (s.clumps.find? c).isSome → b < (s.clump c).bands.length →
    Sorted (s.band c b).strands →
    ((s.band c b).engOut[i]? = some e → e.op = none → Completes (.engineResultLand c b i) s fun t =>
      ∃ u : State, u = s.updBand c b (fun x => { (standing e).foldl Band.applyEng x with
          engOut := x.engOut.eraseIdx i, rtimes := (u.band c b).rtimes }) ∧
        Wakes u t c b (fun k => k == .interlock) ∧ t.mem = s.mem ∧ t.coh = s.coh) ∧
    ((s.band c b).engOut[i]? = some e → e.op ≠ none → exec (.engineResultLand c b i) s = .next s) ∧
    (s.pending c b = [] → Completes (.engineIssueAfterLock c b) s fun t =>
      Wakes s t c b (fun k => k == .engineIssue) ∧ t.mem = s.mem ∧ t.coh = s.coh)

/-- Two statements of one subject: `BinCounts` and `EngineResultsLand`. Their choices of the model: notes/assumptions/74.md, 25.md. -/
def Obligations.BinCountsAndEngineResults : Prop := Claims.BinCounts ∧ Claims.EngineResultsLand

namespace Sys2Proof.Claims
open Sys2Proof.Machine

/-- The registration that a band's uniform register names (R70). -/
def named (s : State) (k : Nat) (a : BitVec 7) : Option Sweep :=
  s.dram.sweeps.find? fun w => w.gen * 2 ^ 16 + w.slot == ((s.band s.sh.clump k).ureg a.toNat).toNat

/-- Updates queued for a sweep. -/
def queuedFor (s : State) (w : Sweep) : List Delta := s.dram.deltas.flatMap fun x => x.2.filter fun d => d.slot == w.slot && d.gen == w.gen

/-- What `swp.stat` reports (R71): the state in bits 31 and 30, and a count. -/
def sweepStatus (s : State) : Option Sweep → Nat
  | none => 0
  | some w =>
    if w.func = 7 then 3 * 2 ^ 30 + (queuedFor s w).length % 2 ^ 30
    else if w.segments ≤ w.done.length then 2 * 2 ^ 30
    else 2 ^ 30 + (w.segments - w.done.length) % 2 ^ 30

/-- No L1 holds a line of these physical pieces. -/
def uncached (t : State) (ps : List (Nat × Nat)) : Prop :=
  ∀ core line l, line < 2 ^ 45 → t.l1 core line = some l → ∀ p ∈ ps, ¬ (p.1 < 128 * line + 128 ∧ 128 * line < p.1 + p.2)

/-- Sweep regions overlap. -/
def meetsSweep (s : State) (ps : List (Nat × Nat)) : Prop :=
  ∃ w ∈ s.dram.sweeps, ∃ p ∈ w.pieces, ∃ q ∈ ps, p.1 < q.1 + q.2 ∧ q.1 < p.1 + p.2

/-- The updates queued for a segment, in queue order, as numbers: those whose queue points are no later than `time`. -/
def waitingFor (s : State) (w : Sweep) (seg time : Nat) : List Nat :=
  ((queuedFor s w).filter fun d => d.seg == seg && decide (d.time ≤ time)).map fun d => leNat d.bytes

/-- What a segment's number reads as through the sweeps at a logical time (R73, R74). -/
def sweptView (s : State) (pa time : Nat) : Nat :=
  let seg := pa / 64 * 64
  match s.sweepAt pa with
  | some w => if w.isDone seg then s.latestNat seg 64 else w.clip (s.latestNat seg 64) (waitingFor s w seg time)
  | none => s.latestNat seg 64

/-- The integer of `w` bits. -/
def elemInt (signed : Bool) (w x : Nat) : Int := if signed ∧ 2 ^ (w - 1) ≤ x % 2 ^ w then ((x % 2 ^ w : Nat) : Int) - 2 ^ w else (x % 2 ^ w : Nat)

/-- The integer element formats of R28 and R58: code, bits, signed. -/
def integerFormats : List (Nat × Nat × Bool) :=
  [(3, 32, true), (4, 32, false), (7, 64, true), (13, 64, false), (9, 8, true), (10, 8, false), (11, 16, true), (12, 16, false), (14, 4, true), (15, 4, false)]

end Sys2Proof.Claims

/-- R65, R71, R127: what `swp.stat`, `swp.wait` and `swp.unreg` do with a registration, and without one. -/
def Sys2Proof.Claims.SweepsObserved : Prop :=
  ∀ (s : State) (k : Nat) (d a : BitVec 7), OneBand s k →
    (Completes (.swpStat d a) s fun t => ActsForBand t fun u => EngineResult s u k (toUniform d (sweepStatus s (named s k a)))) ∧
    (named s k a = none → Completes (.swpWait d a) s fun t => ActsForBand t fun u => EngineResult s u k (toUniform d 2)) ∧
    (∀ w, named s k a = some w → (w.func ≠ 7 ∧ w.segments ≤ w.done.length ∨ w.func = 7 ∧ queuedFor s w = []) →
      Completes (.swpWait d a) s fun t => ActsForBand t fun u =>
        ∃ v : State, v = { s with coh := { s.coh with cts := v.coh.cts } } ∧ EngineResult v u k (toUniform d 0)) ∧
    (∀ w, named s k a = some w → s.active = s.sh.lanes →
      ¬ (w.func ≠ 7 ∧ w.segments ≤ w.done.length ∨ w.func = 7 ∧ queuedFor s w = []) →
      Completes (.swpWait d a) s fun t => s.Changes t fun _ x =>
        { x with park := some ⟨.sweepWait s.uid w.slot w.gen d.toNat, s.sh.pc, some s.sh.next⟩, redo := s.sh.start, overruled := false }) ∧
    (named s k a = none → Completes (.swpUnreg a) s fun t => s.Changes t fun _ x => endsRegion s x) ∧
    (∀ w, named s k a = some w → Completes (.swpUnreg a) s fun t => SameBytes s t ∧ queuedFor t w = [] ∧
      t.dram.sweeps = s.dram.sweeps.filter fun x => x.gen * 2 ^ 16 + x.slot != w.gen * 2 ^ 16 + w.slot)

/-- R58, R61, R65, R70, R71: a registration that breaks no rule: the sweep is registered under the lowest free slot and the slot's
next generation, no L1 holds a line of its region, no byte changes, and the result is its id; one that breaks a rule gives the
code of the first rule broken, and a translation that the host has aborted gives code 4. That one generation is counted for each slot
index, whatever its stack, is the model's choice (notes/assumptions/85.md). -/
def Sys2Proof.Claims.SweepsRegister : Prop :=
  ∀ (s : State) (k : Nat) (d a : BitVec 7) (pa e base size : Nat) (pin : Option Pin), OneBand s k → s.Inv →
    let va := (s.opA64 (lowestLane s.active) a).toNat
    let x := sweepDesc (s.latestBytes pa 64)
    let region := s.regionOf s.ctxNo (x.len / 65536 + 3) x.base x.len []
    let code (n : Nat) : Prop := Completes (.swpReg d a) s fun t => SameBytes s t ∧ t.dram = s.dram ∧
      ∃ time, (t.band s.sh.clump k).engOut = (s.band s.sh.clump k).engOut ++ [{ toUniform d (2 ^ 31 + n) with time := time }]
    va % 64 = 0 → s.translate s.ctxNo va 64 .engRead false = .ok pa e base size pin → pteHome e = 0 →
    let aligned := x.base % 64 = 0 ∧ x.len % 64 = 0 ∧ x.len ≠ 0
    (¬ aligned → code 5) ∧ (aligned → x.bad = true → code 3) ∧
    (aligned → x.bad = false → (s.str (lowestLane s.active)).aborted ≠ [] ∨ region = .fails → code 4) ∧
    ∀ ps, aligned → x.bad = false → (s.str (lowestLane s.active)).aborted = [] → region = .pieces ps →
      (meetsSweep s ps → code 2) ∧
      (¬ meetsSweep s ps → s.freeSlot (s.stacksOf ps) = none → code 1) ∧
      ∀ i, ¬ meetsSweep s ps → s.freeSlot (s.stacksOf ps) = some i →
        let gen := (s.dram.gens.getD i 0 + 1) % 2 ^ 15
        Completes (.swpReg d a) s fun t => SameBytes s t ∧ uncached t ps ∧ ∃ f, s.cts s.coreOf ≤ f ∧
          (∃ time, (t.band s.sh.clump k).engOut =
            (s.band s.sh.clump k).engOut ++ [{ toUniform d (gen * 2 ^ 16 + i) with time := time }]) ∧
          t.dram.sweeps = s.dram.sweeps ++
            [{ slot := i, gen := gen, ctx := s.ctxNo, base := x.base, len := x.len, func := x.func, fmt := x.fmt,
               sat := x.flags.testBit 0, bl16 := x.flags.testBit 1, tfmt := x.tfmt, c := x.c, map := x.map, pieces := ps,
               inStacks := s.stacksOf ps, floor := f }]

/-- Two statements of one subject: `SweepsObserved` and `SweepsRegister`. Their choices of the model: notes/assumptions/85.md. -/
def Obligations.SweepRegistrations : Prop := Claims.SweepsObserved ∧ Claims.SweepsRegister

/-- R67, R71, R72, R127, R137: a strand's update joins its stack's queue, and its range is free again; while the queue is full the
operation holds the range and the strand parks; what R72 refuses is "sweep misuse"; `swp.pos` reports a segment's bank, sweep and row at
a time that later restores come after. That a target whose address is misaligned, or whose id names no deltas sweep, is "sweep misuse"
where the scratchpad offset is wrong too is the model's choice of an order (notes/assumptions/87.md). -/
def Obligations.SweepQueues : Prop :=
  ∀ (s : State) (m : Lane) (d a b : BitVec 7), Alone s m → s.sh.lanes = [m] →
    let va := (s.opA64 m a).toNat
    let o := (s.opB m b).toNat
    let id := ((s.bnd m).ureg d.toNat).toNat
    (∀ w pa e base size pin x, named s m.band d = some w → w.func = 7 → va % 64 = 0 → o % 64 = 0 → o + 64 ≤ s.clp.kernel.spad →
      s.translate s.ctxNo va 64 .engRead false = .ok pa e base size pin → s.ctl.coord pa = some x →
      (w.holds pa = false → s.lockWait s.coreOf s.ctxNo [] = false → Completes (.swpQueue d a b) s fun t =>
        Trapped s t s.sh.clump m .sweepMisuse va 0 s.sh.at_ s.sh.at_) ∧
      (w.holds pa = true → s.lockWait s.coreOf s.ctxNo [⟨some s.sh.clump, o, o + 64, false⟩] = false → ¬ scratchAbsent s.clp o 64 →
        (∀ y ∈ s.ops, y.id ≠ s.uid) → (∀ l ∈ s.locks, l.2.op ≠ s.uid) →
        let k := x.channel % 16
        (0 < s.deltaRoom k → Completes (.swpQueue d a b) s fun t => ActsForBand t fun u =>
          (∃ i time, u.dram.deltas.getD k [] = s.dram.deltas.getD k [] ++
            [{ id := i, slot := w.slot, gen := w.gen, seg := pa, bytes := ((List.range 64).map fun i => s.clp.spad.getD (o + i) 0),
               ctx := s.ctxNo, clump := s.sh.clump, band := m.band, time := time, bad := s.clp.spadPoison.contains (o / 128) }]) ∧
          (∀ j, j ≠ k → u.dram.deltas.getD j [] = s.dram.deltas.getD j []) ∧ u.dram = { s.dram with deltas := u.dram.deltas } ∧
          u.ops = s.ops ∧ u.locks = s.locks ∧ SameBytes s u) ∧
        (s.deltaRoom k = 0 → Completes (.swpQueue d a b) s fun t =>
          (t.str m).park = some ⟨.queueWait s.uid, s.sh.pc, some s.sh.next⟩ ∧ t.dram = s.dram ∧ SameBytes s t ∧
          (∃ y ∈ t.ops, y.id = s.uid ∧ y.kind = .queue id [(pa, o)]) ∧
          ∃ l ∈ t.locks, l.2.op = s.uid ∧ l.2.spad = some s.sh.clump ∧ l.2.lo = o ∧ l.2.hi = o + 64 ∧ l.2.write = false))) ∧
    ((named s m.band d = none ∨ (∃ w, named s m.band d = some w ∧ w.func ≠ 7) ∨ va % 64 ≠ 0) →
      s.lockWait s.coreOf s.ctxNo [] = false → Completes (.swpQueue d a b) s fun t =>
      Trapped s t s.sh.clump m .sweepMisuse va 0 s.sh.at_ s.sh.at_) ∧
    (∀ pa e base size pin x, (s.str m).aborted = [] → s.translate s.ctxNo va 1 .read = .ok pa e base size pin →
      s.ctl.coord pa = some x → Completes (.swpPos d a b) s fun t =>
        let w := (named s m.band b).filter fun w => w.holds pa
        let n := s.dram.pass.getD x.bankNo 0 % 2 ^ 24 * 2 ^ 8 +
          (match w with
           | some w => 4 + (if w.isDone (pa / 64 * 64) then 2 else 0)
           | none => 0) + (if x.row < s.dram.row.getD x.bankNo 0 then 1 else 0)
        SameBytes s t ∧ s.cts s.coreOf ≤ t.cts s.coreOf ∧
        t.dram = { s.dram with sweeps := s.dram.sweeps.map fun w =>
          if w.gen * 2 ^ 16 + w.slot = ((s.bnd m).ureg b.toNat).toNat then { w with floor := max w.floor (t.cts s.coreOf) } else w } ∧
        (t.bnd m).engOut = (s.bnd m).engOut ++
          [{ vregs := [d.toNat], writes := [.lane m.lane (.v d.toNat (BitVec.ofNat 32 n))], time := (s.bnd m).etime }])

/-- R67, R73, R74, R317: the swept-view loads read what every registered sweep will leave at the address, with the updates queued by the
load's own time; on the CXL.io path, which no sweep reaches, a request is sent. -/
def Sys2Proof.Claims.SweptViewLoads : Prop :=
  ∀ (s : State) (m : Lane) (t base : BitVec 7) (off : BitVec 6), Alone s m → s.Inv →
    ∀ x ∈ [(Instr.ldSvW t base off, 4), (.ldSvQ t base off, 16)], ∀ pa home,
    Reaches s (s.addrM m base off x.2).toNat x.2 .read pa home →
    (¬ OnIo s pa home → s.poisoned (pa / 64 * 64) 64 = false → (∀ w, s.sweepAt pa = some w → ∀ d ∈ queuedFor s w, d.bad = false) →
      Completes x.1 s fun u => SameBytes s u ∧ ∃ v time, MemoryOnly s v ∧ s.cts s.coreOf ≤ time ∧
        v.Gives u fun _ => loadedWords t x.2 false (sweptView s pa time / 2 ^ (8 * (pa % 64)) % 2 ^ (8 * x.2))) ∧
    (OnIo s pa home → s.poisoned pa x.2 = true → Completes x.1 s fun u =>
      Trapped s u s.sh.clump m .poison (s.addrM m base off x.2).toNat 0 s.sh.at_ s.sh.at_) ∧
    (OnIo s pa home → s.poisoned pa x.2 = false → Completes x.1 s fun u => ∃ v, MemoryOnly s v ∧ SameBytes s u ∧
      v.Changes u fun _ y => sent s (y.supersede (loadedWords t x.2 false 0))
        ((hostSpans x.2).map fun p => (pa + p.1, .read (t.toNat + p.1 / 4) p.2 false)))

/-- R59: what the sweep functions of integer elements make of element `n` of a segment: clamp, zero, map and add. That the constants, which
are 32 bits wide, are sign-extended for the 64-bit formats is the model's choice (notes/assumptions/33.md). -/
def Sys2Proof.Claims.SweepFunctions : Prop :=
  ∀ (w : Sweep) (x : Nat) (ds : List Nat), ∀ f ∈ integerFormats, w.fmt = f.1 →
    let bits := f.2.1
    let signed := f.2.2
    let least : Int := if signed then -(2 ^ (bits - 1)) else 0
    let greatest : Int := if signed then 2 ^ (bits - 1) - 1 else 2 ^ bits - 1
    let val (y n : Nat) : Int := elemInt signed bits (y / 2 ^ (bits * n))
    let c (i : Nat) : Word := (w.c[i]?).getD 0
    let bound (i : Nat) : Int := elemInt signed bits ((c i).toInt % 2 ^ bits).toNat
    ∀ n < 512 / bits,
    (w.func = 2 → val (w.clip x ds) n = min (max (val x n) (bound 0)) (bound 1)) ∧
    (w.func = 3 → val (w.clip x ds) n = 0) ∧
    (w.func = 5 → bits = 4 →
      w.clip x ds / 2 ^ (4 * n) % 16 = w.map / 2 ^ (4 * (x / 2 ^ (4 * n) % 16)) % 16) ∧
    (w.func = 6 → w.sat = true → val (w.clip x ds) n = min (max least (val x n + (c 0).toInt)) greatest) ∧
    (w.func = 6 → w.sat = false → (val (w.clip x ds) n - (val x n + (c 0).toInt)) % 2 ^ bits = 0)

/-- Two statements of one subject: `SweptViewLoads` and `SweepFunctions`. Their choice of the model: notes/assumptions/33.md. -/
def Obligations.SweptViews : Prop := Claims.SweptViewLoads ∧ Claims.SweepFunctions

/-- R56, R57, R63, R64, R67: a refresh moves its bank's row pointer on, and, past the last row, its pass. A segment of the row that a
sweep has not yet reached, or that updates wait for, becomes what the clipper makes of it, and counts as transformed; where it is
poisoned it stays as it is. No byte outside the row's segments in regions changes. Where no sweep is registered, nothing else does. -/
def Sys2Proof.Claims.RowRefreshes : Prop :=
  ∀ (s : State) (channel bank : Nat), Completes (.rowRefresh channel bank) s fun t =>
    let k := 32 * channel + bank
    let row := s.dram.row.getD k 0
    let segs := s.rowSegments channel bank row
    (Sorted s.dram.row → Sorted s.dram.pass →
      t.dram.row.getD k 0 = (row + 1) % 2 ^ 16 ∧
      (t.dram.pass.getD k 0 = if row % 2 ^ 16 = 2 ^ 16 - 1 then s.dram.pass.getD k 0 + 1 else s.dram.pass.getD k 0) ∧
      ∀ j, j ≠ k → t.dram.row.getD j 0 = s.dram.row.getD j 0 ∧ t.dram.pass.getD j 0 = s.dram.pass.getD j 0) ∧
    (s.dram.sweeps = [] → t = { s with dram := { s.dram with row := t.dram.row, pass := t.dram.pass } }) ∧
    (s.Inv → (∀ p ∈ segs, p % 64 = 0 ∧ p + 64 ≤ 2 ^ 52) →
      (∀ a < 2 ^ 52, (∀ p ∈ segs, (s.sweepAt p).isSome → a < p ∨ p + 64 ≤ a) → t.latest a = s.latest a) ∧
      ∀ p ∈ segs, ∀ w, s.sweepAt p = some w →
        (w.func ≠ 7 → s.sweepOf w.id = some w → ∀ y, t.sweepOf w.id = some y → y.isDone p = true) ∧
        (s.poisoned p 64 = true → t.latestNat p 64 = s.latestNat p 64) ∧
        (s.poisoned p 64 = false → w.func ≠ 7 → t.latestNat p 64 =
          if w.isDone p then s.latestNat p 64 else w.clip (s.latestNat p 64) [] % 2 ^ 512) ∧
        (s.poisoned p 64 = false → w.func = 7 → w.isDone p = false → (∀ o ∈ s.ops, ∀ i l, o.kind ≠ .queue i l) →
          let ds := ((queuedFor s w).filter fun d => d.seg == p).map fun d => leNat d.bytes
          t.latestNat p 64 = (if ds = [] then s.latestNat p 64 else w.clip (s.latestNat p 64) ds % 2 ^ 512) ∧
          ∀ d ∈ queuedFor t w, d.seg ≠ p))

/-- R56: a sample chooses its stack's refresh band; where that changes the band, the stack's next nominal refresh falls at the sample, or
at the last nominal one plus the new interval, whichever is later, and those that had fallen due stay counted. Times are in 64ths of a
nanosecond: a cool row falls due every 31,250, a hot one every 15,625. -/
def Sys2Proof.Claims.ThermalSamples : Prop :=
  ∀ (s : State) (stack : Nat) (hot : Bool), Completes (.thermalBandSample stack hot) s fun t =>
    t = { s with dram := { s.dram with hot := t.dram.hot, nominal := t.dram.nominal } } ∧ (stack ∈ t.dram.hot ↔ hot = true) ∧
    (∀ j, j ≠ stack → (j ∈ t.dram.hot ↔ j ∈ s.dram.hot)) ∧
    ((stack ∈ s.dram.hot ↔ hot = true) → t.dram.nominal = s.dram.nominal) ∧
    (Sorted s.dram.nominal → ∀ j, t.dram.nominal.getD j (0, 0) =
      if j = stack ∧ ¬ (stack ∈ s.dram.hot ↔ hot = true) then
        let x := s.dram.nominal.getD stack (0, 0)
        let now := 64 * s.time
        let was := if stack ∈ s.dram.hot then 15625 else 31250
        let due := if now < x.2 then 0 else (now - x.2) / was + 1
        (x.1 + due, max now (x.2 + due * was - was + if hot then 15625 else 31250))
      else s.dram.nominal.getD j (0, 0))

/-- Two statements of one subject: `RowRefreshes` and `ThermalSamples`. How a nominal time moves when the band changes is read as
notes/assumptions/34.md says. -/
def Obligations.Refresh : Prop := Claims.RowRefreshes ∧ Claims.ThermalSamples

namespace Sys2Proof.Claims
open Sys2Proof.Machine

/-- The bank words (R83, R84), each with its function, its mask, its scratchpad offset and the register that gets a result. -/
noncomputable def bankWords (s : State) (m : Lane) (d a b : BitVec 7) : List (Instr × Nat × Nat × Nat × Nat) :=
  let mask (x : Word) : Nat := x.toNat % 2 ^ 16
  [(.bankTbl d a b, 0, mask (s.opD m d), (s.opB m b).toNat, 0), (.bankLut d a, 1, mask (s.opD m d), 0, 0),
   (.bankBcast d a b, 2, mask (s.opD m d), (s.opB m b).toNat, 0), (.bankRed d a b, 3, mask (s.opD m d), (s.opB m b).toNat, 0),
   (.bankSync d a b, 4, mask (s.opB m b), 0, d.toNat), (.bankClr d a, 5, mask (s.opD m d), 0, 0)]

/-- The layers of a mask. -/
def layers (mask : Nat) : List Nat := (List.range 16).filter fun l => mask.testBit l

/-- The number of a group's bank in a layer (R76). -/
def bankIn (stack bank l : Nat) : Nat := 32 * (16 * l + stack) + bank

/-- The scratchpad bytes that a function uses (R84). -/
def scratchBytes (fn : Nat) : Nat := if fn = 0 then 2048 else if fn = 2 then 128 else if fn = 3 then 4096 else 0

/-- The ranges that a bank word locks. -/
def bankRanges (s : State) (fn off : Nat) : List RangeReq :=
  if fn = 1 then [⟨none, 0, 0, false⟩]
  else if scratchBytes fn = 0 then []
  else [⟨some s.sh.clump, off, off + scratchBytes fn, decide (fn = 3)⟩]

/-- Where a `bank.lut` reads: the addressed byte and each segment of the row in the mask's layers, as far from the instruction's address
as they lie from its physical address. -/
def rowReads (s : State) (va pa mask : Nat) (x : Coord) : List (Nat × Nat) :=
  (pa :: (layers mask).flatMap fun l => s.rowSegments (16 * l + x.channel % 16) x.bank x.row).map fun p =>
    (p, (va + (p + 2 ^ 64 - pa)) % 2 ^ 64)

/-- A byte of the row is mapped where it lies, by a page that is never cached (R76). -/
def NeverCached (s : State) (y : Nat × Nat) : Prop :=
  ∃ e base size pin, s.translate s.ctxNo y.2 1 .engRead false = .ok y.1 e base size pin ∧ pteHome e = 3

/-- The four nibbles of a row that select the entries of output `o` (R78): those of its bytes 2o and 2o + 1, low nibbles first. -/
def codesOf (row : List Byte) (o : Nat) : List Nat :=
  let lo := (row.getD (2 * o) 0).toNat
  let hi := (row.getD (2 * o + 1) 0).toNat
  [lo % 16, lo / 16, hi % 16, hi / 16]

/-- An accumulator after a `bank.lut` (R78): itself and one B16 entry of each of the latch's four tables, added exactly and rounded once;
a zero is +0. -/
noncomputable def lutAdded (s : State) (b : Nat) (row : List Byte) (o : Nat) : Word :=
  let entry (j c : Nat) : Nat := (s.dram.latch.getD (128 * b + 32 * j + 2 * c) 0).toNat +
    (s.dram.latch.getD (128 * b + 32 * j + 2 * c + 1) 0).toNat * 2 ^ 8
  let v := (codesOf row o).zipIdx.foldl (fun a x => Machine.Num.add 0 a (Machine.Num.decode Machine.Num.b16 (entry x.2 x.1)))
    (Machine.Num.ofF32 (s.dram.acc.getD (1024 * b + o) 0))
  match v with
  | .fin _ 0 _ => 0
  | v => Machine.Num.rneF32 v

/-- One level of the base-die tree (R80). -/
noncomputable def treeLevel (x : Nat → Word) : Nat → Word := fun i => Machine.Num.addRne (x (2 * i)) (x (2 * i + 1))

/-- The sum of up to 16 partials of one output, those that are missing being zero. -/
noncomputable def treeSum (ps : List (List Word)) (o : Nat) : Word :=
  treeLevel (treeLevel (treeLevel (treeLevel fun i => (((ps[i]?).map fun p => (p[o]?).getD 0)).getD 0))) 0

/-- A bank's accumulators and table latches are in order. -/
structure BanksSorted (s : State) : Prop where
  latch : Sorted s.dram.latch
  acc : Sorted s.dram.acc
  queue : Sorted s.dram.queue
  port : Sorted s.dram.port

end Sys2Proof.Claims

/-- R76, R79, R83 to R85, R139: a bank word whose row and mask belong to the context, and whose scratchpad span fits and is free, is
accepted at its group's port; a mask with a channel of another owner, or an address outside stacked memory, is "channel ownership"; an
address that no walk translates leaves "engine fault" for the band, which is the model's choice (notes/assumptions/95.md); a
`bank.lut` whose row is not on pages mapped "never cached" is "policy fault"; a span outside the allocation is "scratchpad bounds"; a
full queue, or a row that an engine has locked for writing, holds the word. How many bytes a span has is read as
notes/assumptions/38.md says; that another page of the row which is absent counts as one that is not "never cached" is the model's choice
(96.md). -/
def Obligations.BankWordsIssue : Prop :=
  ∀ (s : State) (m : Lane) (d a b : BitVec 7), Alone s m → s.Inv → s.sh.lanes = [m] →
    let va := (s.opA64 m a).toNat
    ∀ w ∈ bankWords s m d a b, let fn := w.2.1; let mask := w.2.2.1; let off := w.2.2.2.1; let k := w.2.2.2.2
    let trapped (c : Cause) (addr : Nat) : Prop := Completes w.1 s fun t => Trapped s t s.sh.clump m c addr 0 s.sh.at_ s.sh.at_
    let outside (c : Cause) : Prop := c = .physicalRange ∨ c = .channelOwnership
    (∀ c, s.translate s.ctxNo va 1 .engRead false = .bad c → (outside c → trapped .channelOwnership (va % 2 ^ 56)) ∧
      (¬ outside c → Completes w.1 s fun t => ActsForBand t fun u =>
        u = s.updBand s.sh.clump m.band fun x => { x with pend := some ⟨.engineFault, va % 2 ^ 56, va⟩ })) ∧
    ∀ pa e base size pin, s.translate s.ctxNo va 1 .engRead false = .ok pa e base size pin →
    (s.ctl.coord pa = none → trapped .channelOwnership (va % 2 ^ 56)) ∧
    ∀ x, s.ctl.coord pa = some x →
    let stack := x.channel % 16
    let owned : Prop := s.ctl.owner.getD x.channel 0 = s.ctxNo + 1 ∧
      ∀ l ∈ layers mask, s.ctl.owner.getD (16 * l + stack) 0 = s.ctxNo + 1
    let fits : Prop := scratchBytes fn ≠ 0 → off % 128 = 0 ∧ off + scratchBytes fn ≤ s.clp.kernel.spad
    let room : Prop := ∀ l ∈ layers mask, (s.dram.queue.getD (bankIn stack x.bank l) []).length < 32
    let locked : Prop := fn = 1 ∧ s.rowLocked s.coreOf s.ctxNo stack x.bank x.row mask = true
    (¬ owned → trapped .channelOwnership (va % 2 ^ 56)) ∧
    (owned → fn = 1 → (∃ y ∈ rowReads s va pa mask x, ¬ NeverCached s y ∧ s.translate s.ctxNo y.2 1 .engRead false ≠ .migrating) →
      trapped .policy (va % 2 ^ 56)) ∧
    (owned → fn ≠ 1 → ¬ fits → trapped .spadBounds off) ∧
    (owned → (fn = 1 → ∀ y ∈ rowReads s va pa mask x, NeverCached s y) → fits →
      (¬ room ∨ locked → Completes w.1 s fun t => Held s t m .engineIssue) ∧
      (room → ¬ locked → s.lockWait s.coreOf s.ctxNo (bankRanges s fn off) = false → Completes w.1 s fun t => ActsForBand t fun u =>
        SameBytes s u ∧
        (∃ f, u.ops = s.ops ++ [{ id := s.uid, ctx := s.ctxNo, clump := s.sh.clump, band := m.band, die := s.sh.die, core := s.sh.core,
                                  kind := .bank fn stack x.bank x.row mask off k [] false, scope := s.sh.ext.scope,
                                  lines := if fn = 3 then spadLinesOf off 4096 else [], floor := f, time := f }]) ∧
        u.dram.port.getD (32 * stack + x.bank) [] = s.dram.port.getD (32 * stack + x.bank) [] ++ [s.uid] ∧
        (∀ j, j ≠ 32 * stack + x.bank → u.dram.port.getD j [] = s.dram.port.getD j []) ∧
        (u.bnd m).engOut = (s.bnd m).engOut ++ (if fn = 4 then [{ op := some s.uid, kregs := [k] }] else [])))

/-- R79: a group's port accepts its oldest command once the queues of all participating banks have room, and not before; a bank
runs the oldest command of its queue: a table or a broadcast fills its latch from the scratchpad, `bank.clr` clears its
accumulators, `bank.lut` reads the row as it is and adds to each accumulator the four entries that its nibbles select, and `bank.red`
takes the accumulators as the bank's partials. -/
def Sys2Proof.Claims.BankCommands : Prop :=
  ∀ (s : State) (o : Op) (fn stack bank row mask off k : Nat) (got : List (Nat × List Word)) (bad : Bool), s.Inv → BanksSorted s →
    s.op o.id = some o → o.kind = .bank fn stack bank row mask off k got bad → stack < 16 → bank < 32 → fn < 6 →
    (∀ rest, s.dram.port.getD (32 * stack + bank) [] = o.id :: rest → mask ≠ 0 → mask < 2 ^ 16 → got = [] →
      let room : Prop := ∀ l ∈ layers mask, (s.dram.queue.getD (bankIn stack bank l) []).length < 32
      (¬ room → exec (.bankCommandAccept (32 * stack + bank)) s = .next s) ∧
      (room → Completes (.bankCommandAccept (32 * stack + bank)) s fun t =>
        t.dram.port.getD (32 * stack + bank) [] = rest ∧ t.ops = s.ops ∧ t.mem = s.mem ∧
        ∀ l ∈ layers mask, t.dram.queue.getD (bankIn stack bank l) [] = s.dram.queue.getD (bankIn stack bank l) [] ++ [o.id])) ∧
    (∀ l rest, l < 16 → s.dram.queue.getD (bankIn stack bank l) [] = o.id :: rest →
      let b := bankIn stack bank l
      let bytes := (s.rowSegments (16 * l + stack) bank row).flatMap fun p => (List.range 64).map fun i => s.latest (p + i)
      Completes (.bankCommandExecute (16 * l + stack) bank) s fun t => SameBytes s t ∧
        (fn ≠ 1 → t.mem = s.mem ∧ t.coh = { s.coh with cts := t.coh.cts, waiting := t.coh.waiting }) ∧
        t.dram.queue.getD b [] = rest ∧
        (∀ i < 128, t.dram.latch.getD (128 * b + i) 0 =
          if fn = 0 then (s.clump o.clump).spad.getD (off + 128 * l + i) 0
          else if fn = 2 then (s.clump o.clump).spad.getD (off + i) 0
          else s.dram.latch.getD (128 * b + i) 0) ∧
        (∀ i < 1024, t.dram.acc.getD (1024 * b + i) 0 =
          if fn = 5 then 0 else if fn = 1 then lutAdded s b bytes i else s.dram.acc.getD (1024 * b + i) 0) ∧
        (got.length + 1 < (layers mask).length →
          let part := if fn = 3 then (List.range 1024).map fun i => s.dram.acc.getD (1024 * b + i) 0 else []
          let bad' := bad || t.dram.accPoison.contains b
          ∃ time, o.time ≤ time ∧ (fn ≠ 1 → time = o.time) ∧
            t.op o.id = some { o with kind := .bank fn stack bank row mask off k (got ++ [(l, part)]) bad', time := time }) ∧
        ((layers mask).length ≤ got.length + 1 → fn ≠ 3 → fn ≠ 4 → OpEnded t o))

/-- R80: the partials of a `bank.red`, in an order of arrival, go through the base-die tree, and the sums stand in the
scratchpad; the command ends. -/
def Sys2Proof.Claims.BankReduction : Prop :=
  ∀ (s : State) (o : Op) (stack bank row mask off k : Nat) (got : List (Nat × List Word)) (perm : List Nat),
    s.op o.id = some o → o.kind = .bank 3 stack bank row mask off k got false → (layers mask).length ≤ got.length →
    (s.clumps.find? o.clump).isSome → Sorted (s.clump o.clump).spad → perm.Perm (List.range got.length) → got.length ≤ 16 →
    Completes (.bankRedTree o.id perm) s fun t => OpEnded t o ∧ t.mem = s.mem ∧
      ∀ a, (t.clump o.clump).spad.getD a 0 =
        if off ≤ a ∧ a < off + 4096 then
          byteOf (treeSum (perm.map fun i => ((got[i]?).map (·.2)).getD []) ((a - off) / 4)).toNat ((a - off) % 4)
        else (s.clump o.clump).spad.getD a 0

/-- Two statements of one subject: `BankCommands` and `BankReduction`. -/
def Obligations.BankWork : Prop := Claims.BankCommands ∧ Claims.BankReduction

namespace Sys2Proof.Claims
open Sys2Proof.Machine

/-- One band acts through a tape word; no answer of the host to a translation is left over (R332), and its core's range locks are at most
the 64 that it has entries for (R137). -/
structure TapeBand (s : State) (k : Nat) : Prop where
  one : OneBand s k
  fresh : ∀ m ∈ s.sh.lanes, (s.str m).aborted = []
  entries : (s.locks.filter fun l => l.1 == s.coreOf).length ≤ 64
  sorted : Sorted (s.band s.sh.clump k).strands
  lanes : ∀ x ∈ (s.band s.sh.clump k).strands, x.1 < 32

/-- A tape word's band's tape, once the word has cleared DIV (R246). -/
def tapeOf (s : State) (k : Nat) : Tape := { (s.band s.sh.clump k).tape with div := false }

/-- `u` is `s` with another tape in a band, and engine results outstanding; no tape word of the band is left half done. -/
def TapeStep (s u : State) (k : Nat) (t : Tape) (es : List EngOut) : Prop :=
  u = s.updBand s.sh.clump k fun x =>
    { x with tape := t, begun := false, engOut := x.engOut ++ es.map fun e => { e with time := x.etime } }

/-- An `mwait` whose operations have all ended. -/
def matOver (t : State) : ParkOn → Bool
  | .matWait ops => !ops.any (t.ops.map (·.id)).contains
  | _ => false

/-- The 16 bytes of a record without a payload (R247). -/
def trailer (kind site mask info : Nat) : List Byte :=
  (List.range 16).map fun i => byteOf (mask * 2 ^ 96 + site * 2 ^ 80 + kind * 2 ^ 77 + info) i

/-- The lanes of a mask, ascending. -/
def lanesIn (mask : Nat) : List Nat := (List.range 32).filter fun l => mask.testBit l

/-- The mask of lanes. -/
def bitsFor (ls : List Nat) : Nat := ls.foldl (fun a l => a + 2 ^ l) 0

/-- The site that a band's k[A] names. -/
def siteIn (s : State) (k : Nat) (a : BitVec 7) : Nat := ((s.band s.sh.clump k).ureg a.toNat).toNat % 2 ^ 16

/-- The mask of the live lanes in which a predicate is true (R256). -/
def maskWhere (s : State) (k : Nat) (p : BitVec 3) : Nat :=
  bitsFor ((s.band s.sh.clump k).live.filter fun l => ((s.band s.sh.clump k).strand l).pred p.toNat)

/-- A record's bytes fit the tape's capacity (R252). -/
def Fits (t : Tape) (n : Nat) : Prop := t.cursor + n ≤ t.cap - 16

/-- The staging buffer is not overfull (R245). -/
def Staged (t : Tape) : Prop := t.cursor - t.stageLo ≤ 16384

/-- The words that record or pop without a payload, with their kind and their number. -/
noncomputable def bareWords (s : State) (k : Nat) (a b : BitVec 7) (p : BitVec 3) : List (Instr × Nat × Nat) :=
  [(.tbr a p, 1, maskWhere s k p), (.tmark a b, 2, ((s.band s.sh.clump k).ureg b.toNat).toNat)]

/-- The words that are only allowed in some modes of the tape, with those modes (R256, R258). -/
noncomputable def modeWords (d a : BitVec 7) (n1 : BitVec 4) (p : BitVec 3) : List (Instr × List Nat) :=
  [(.topen a, [0]), (.tclose d, [1, 2, 3]), (.trec d a n1 p, [1, 3]), (.tbr a p, [1, 2, 3]), (.trev, [1, 2, 3]),
   (.tpop d a n1 p, [2]), (.tmark a d, [1, 2, 3])]

end Sys2Proof.Claims

/-- R124, R139, R243, R246, R253, R256 to R258: opening a tape whose descriptor breaks no rule and whose region lies over no memory of another
open tape of the context on the core; turning it; closing it, which writes what is staged, at its scope; what `tstat` reports; and a word in a mode that does
not allow it. That COUNT and the cursor stay after `tclose`, and that `topen` reads its descriptor from lane 0, is the model's choice
(notes/assumptions/49.md). -/
def Sys2Proof.Claims.TapeControl : Prop :=
  ∀ (s : State) (k : Nat) (d a : BitVec 7) (n1 : BitVec 4) (p : BitVec 3) (sel : BitVec 3), TapeBand s k →
    let t := tapeOf s k
    (let u := { t with desc := (List.range 8).map fun i => ((s.band s.sh.clump k).strand 0).reg (a.toNat + i) }
     t.mode = 0 → u.badDesc = false → u.slen = 0 →
     (∀ b ∈ s.bandsOn s.coreOf s.ctxNo, ∀ r ∈ b.tape.ranges, ¬ (r.1 < u.base + u.length ∧ u.base < r.2)) →
     Completes (.topen a) s fun v => ActsForBand v fun w => TapeStep s w k { u with
       pol := u.w 7 % 4, mode := 1, count := 0, cursor := 0, dropped := 0, sites := [], pred := [], stage := [], stageLo := 0,
       spill := [], past := [], bad := [] } []) ∧
    (t.mode ∈ [1, 2, 3] → Completes .trev s fun v => ActsForBand v fun w =>
      TapeStep s w k { t with mode := if t.mode = 2 then 1 else 2 } []) ∧
    (t.mode ≤ 3 → Completes (.tstat d sel) s fun v => ActsForBand v fun w => ∃ e : EngOut, TapeStep s w k t (if e.writes = [] then [] else [e]) ∧
      e.writes = (s.band s.sh.clump k).live.flatMap fun l => (pairWrites d (match sel.toNat with
        | 0 => BitVec.ofNat 64 t.cursor
        | 1 => t.expected
        | 2 => t.top
        | 3 => BitVec.ofNat 64 t.dropped
        | _ => BitVec.ofNat 64 t.cap)).map fun x => .lane l x) ∧
    (s.Inv → t.mode ∈ [1, 2, 3] → t.sites = [] → t.bad = [] → s.poison = [] → t.stageLo < t.cursor → t.cursor - t.stageLo ≤ 4096 →
      t.addr t.stageLo % 4096 + (t.cursor - t.stageLo) ≤ 4096 → ∀ pa e base size pin,
      s.translate s.ctxNo (t.addr t.stageLo) (t.cursor - t.stageLo) .engWrite false = .ok pa e base size pin →
      s.lockWait s.coreOf s.ctxNo [⟨none, t.base, t.base + 16384, true⟩, ⟨none, t.addr t.stageLo, t.addr t.stageLo + (t.cursor - t.stageLo), true⟩] = false →
      (t.cursor ≤ t.p ∨ t.p ≤ t.stageLo) →
      (∀ x < t.cursor - t.stageLo, (s.useLeaf s.ctxNo base size e pin).scopeOf s.clp.die (pa + x) ≤ s.sh.ext.scope) →
      Completes (.tclose d) s fun v =>
        (v.band s.sh.clump k).tape = { t with mode := 0 } ∧
        (∃ time, (v.band s.sh.clump k).engOut =
          (s.band s.sh.clump k).engOut ++ [{ toUniform d (min t.cursor (2 ^ 32 - 1)) with time := time }]) ∧
        ∀ x < 2 ^ 52, v.latest x = if pa ≤ x ∧ x < pa + (t.cursor - t.stageLo) then t.stage.getD (t.stageLo + (x - pa)) 0
          else s.latest x) ∧
    (∀ w ∈ modeWords d a n1 p, ∀ m, s.active = [m] → s.sh.lanes = [m] → t.mode ∉ w.2 → Completes w.1 s fun v =>
      Trapped s v s.sh.clump m .tapeMisuse 0 0 s.sh.at_ s.sh.at_)

/-- R245 to R249, R252, R256: in record mode, records that fit are appended at the cursor; in stopped mode they are counted as
dropped; a record that does not fit traps, or, under the stopping policy, leaves an overflow marker and stops the tape. That the marker
counts as a record is the model's choice (notes/assumptions/49.md). -/
def Sys2Proof.Claims.TapeRecords : Prop :=
  ∀ (s : State) (k : Nat) (d a b : BitVec 7) (n1 : BitVec 4) (p : BitVec 3), TapeBand s k →
    let t := tapeOf s k
    let live := (s.band s.sh.clump k).liveMask.toNat
    let dropped : Tape := { t with dropped := min (t.dropped + 1) (2 ^ 32 - 1) }
    let full (site mask : Nat) : Tape := { ({ t with mode := 3 } : Tape).push (trailer 4 site mask 0) with count := t.count + 1 }
    (∀ x ∈ bareWords s k a b p, let u := { t.push (trailer x.2.1 (siteIn s k a) live x.2.2) with count := t.count + 1 }
      (t.mode = 1 → Fits t 16 → Staged u → Completes x.1 s fun v => ActsForBand v fun w => TapeStep s w k u []) ∧
      (t.mode = 1 → ¬ Fits t 16 → t.pol = 2 → Staged (full (siteIn s k a) live) → Completes x.1 s fun v =>
        ActsForBand v fun w => TapeStep s w k (full (siteIn s k a) live) []) ∧
      (t.mode = 1 → ¬ Fits t 16 → t.pol ≠ 2 → ∀ m, s.active = [m] → s.sh.lanes = [m] → Completes x.1 s fun v =>
        Trapped s v s.sh.clump m .tapeOverflow t.cursor 0 s.sh.at_ s.sh.at_)) ∧
    (let mask := maskWhere s k p
     let r := t.valueRecord (siteIn s k a) (n1.toNat + 1) mask d.toNat fun j l => ((s.band s.sh.clump k).strand l).reg (d.toNat + j)
     let u := { r.2.foldl Tape.push r.1 with count := t.count + 1 }
     t.mode = 1 → Fits t (r.2.map List.length).sum → Staged u → Completes (.trec d a n1 p) s fun v => ActsForBand v fun w =>
       TapeStep s w k { u with count := r.1.count + 1 } []) ∧
    (t.mode = 3 → ∀ i ∈ [Instr.trec d a n1 p, .tbr a p, .tmark a b], Completes i s fun v => ActsForBand v fun w =>
      TapeStep s w k dropped [])

/-- R248 to R250: a value record undoes itself: popping the record that `trec` has just pushed gives back each register of each
lane of its mask, and the site's predictors, whatever they were. -/
def Sys2Proof.Claims.TapePopUndoesRecord : Prop :=
  ∀ (t : Tape) (site n mask reg : Nat) (val : Nat → Nat → Word), 0 < n → n ≤ 16 → site < 2 ^ 16 → mask < 2 ^ 32 → reg < 2 ^ 31 →
    Sorted t.stage → Sorted t.pred → Sorted t.sites →
    ∀ i, t.slotOf site = some i → (t.sites.find? i).map (·.count) = some n →
    let r := t.valueRecord site n mask reg val
    let u := r.2.foldl Tape.push r.1
    r.2.length = 1 ∧ (u.recAt u.cursor).site = site ∧ (u.recAt u.cursor).mask = mask ∧ u.recStart u.cursor = t.cursor ∧
    u.popValue.1 = (List.range n).flatMap (fun j => (lanesIn mask).map fun l => (j, l, val j l)) ∧
    ∀ j l, j < 16 → l < 32 → (t.cursor = 0 ∨ 16 ≤ t.cursor ∧ (t.recAt t.cursor).kind ≠ 3) → u.popValue.2.predictor i j l = t.predictor i j l

/-- Two statements of one subject: `TapeRecords` and `TapePopUndoesRecord`. Their choices of the model: notes/assumptions/49.md. -/
def Obligations.TapeRecordsAndPops : Prop := Claims.TapeRecords ∧ Claims.TapePopUndoesRecord

/-- R245, R246, R250, R251, R257: in replay, a record at the top that is staged and matches, by its register count too where it is a value
record, gives its values back; one that does not match is "tape divergence", with DIV set; one that is not staged is read back first, and
its band waits for the chunk. -/
def Obligations.TapeReplay : Prop :=
  ∀ (s : State) (k : Nat) (d a b : BitVec 7) (n1 : BitVec 4) (p : BitVec 3), TapeBand s k →
    let t := tapeOf s k
    let live := (s.band s.sh.clump k).liveMask.toNat
    let r := t.recAt t.cursor
    let x := s.band s.sh.clump k
    let matches_ (kind mask n : Nat) : Prop := r.kind = kind ∧ r.site = siteIn s k a ∧ r.mask = mask ∧ (kind = 0 → r.nm1 = n)
    let words := [(Instr.tbr a p, 1, live, 0), (.tmark a b, 2, live, 0), (.tpop d a n1 p, 0, maskWhere s k p, n1.toNat)]
    t.mode = 2 → t.cursor ≠ 0 → t.bad = [] →
    (t.needs 10 t.cursor true < t.stageLo → let lo := (t.stageLo - 1) / 4096 * 4096
      t.addr lo % 4096 = 0 → s.lockWait s.coreOf s.ctxNo [⟨none, t.addr lo, t.addr lo + 4096, false⟩] = false →
      ∀ pa e base size pin, s.translate s.ctxNo (t.addr lo) 4096 .engRead false = .ok pa e base size pin →
      ∀ m, s.active = [m] → s.sh.lanes = [m] → ∀ y ∈ words, Completes y.1 s fun v => Held s v m (.tapeRead lo) ∧
        (v.bnd m).tape = t ∧ ∃ o ∈ v.ops, o.id = s.uid ∧ o.kind = .tape lo false ∧ o.clump = s.sh.clump ∧ o.band = k) ∧
    (t.stageLo ≤ t.needs 10 t.cursor true →
    (matches_ 1 live 0 → x.live ≠ [] → Completes (.tbr a p) s fun v => ActsForBand v fun w => ∃ e : EngOut,
      TapeStep s w k t.below [e] ∧ e.writes = x.live.map fun l => .lane l (.p p.toNat (r.info.testBit l))) ∧
    (matches_ 2 live 0 → Completes (.tmark a b) s fun v => ActsForBand v fun w => TapeStep s w k t.below [toUniform b r.info]) ∧
    (matches_ 0 (maskWhere s k p) n1.toNat → t.popValue.1 ≠ [] → Completes (.tpop d a n1 p) s fun v => ActsForBand v fun w =>
      ∃ e : EngOut, TapeStep s w k t.popValue.2 [e] ∧
        e.writes = t.popValue.1.map fun y => .lane y.2.1 (.v (d.toNat + y.1) y.2.2)) ∧
    (∀ y ∈ words, ∀ m, s.active = [m] → s.sh.lanes = [m] → r.kind ≠ 4 → ¬ matches_ y.2.1 y.2.2.1 y.2.2.2 → Completes y.1 s fun v =>
        Trapped s v s.sh.clump m .tapeDivergence (t.addr (t.cursor - 16)) 0 s.sh.at_ s.sh.at_ ∧
        (v.bnd m).tape.div = true ∧ (v.bnd m).tape.top = r.report))

/-- R100, R245, R252: the chunk that a pop waits for is read back, and the pop issues again; a spilled chunk lands in memory and leaves
the staging buffer, and after the last one the band goes on; each once its transfers have their tokens. -/
def Sys2Proof.Claims.TapeTraffic : Prop :=
  ∀ (s : State) (c b : Nat), s.Inv → (s.clumps.find? c).isSome → b < (s.clump c).bands.length → Sorted (s.band c b).strands →
    s.poison = [] →
    let t := (s.band c b).tape
    Sorted t.stage → t.bad = [] →
    (∀ o lo, s.tapeOpOf c b false = some (o, lo) → ∀ pa e base size pin, t.addr lo % 4096 = 0 →
      s.translate o.ctx (t.addr lo) 4096 .engRead false = .ok pa e base size pin →
      (¬ HasTokens s (s.readChunk o lo c b) o.ctx o.paid → Completes (.tapeChunkReadback c b) s fun u => AsksForTokens s u o.id) ∧
      (HasTokens s (s.readChunk o lo c b) o.ctx o.paid → Completes (.tapeChunkReadback c b) s fun u => SameBytes s u ∧ OpEnded u o ∧
        Wakes s u c b (fun k => k == .tapeRead lo || matOver u k) ∧
        (u.band c b).tape.stageLo = lo ∧ (u.band c b).tape.cursor = t.cursor ∧
        ∀ i, (u.band c b).tape.stage.getD i 0 = if lo ≤ i ∧ i < lo + 4096 then s.latest (pa + (i - lo)) else t.stage.getD i 0)) ∧
    (∀ o lo, s.tapeOpOf c b true = some (o, lo) → ∀ pa e base size pin, t.addr lo % 4096 = 0 →
      s.translate o.ctx (t.addr lo) 4096 .engWrite false = .ok pa e base size pin →
      (∀ x < 4096, (s.useLeaf o.ctx base size e pin).scopeOf o.die (pa + x) ≤ o.scope) →
      (¬ HasTokens s (s.landSpill o lo c b) o.ctx o.paid → Completes (.tapeSpillLand c b) s fun u => AsksForTokens s u o.id) ∧
      (HasTokens s (s.landSpill o lo c b) o.ctx o.paid → Completes (.tapeSpillLand c b) s fun u => let rest := t.spill.filter (· != lo)
        (∀ x < 2 ^ 52, u.latest x = if pa ≤ x ∧ x < pa + 4096 then t.stage.getD (lo + (x - pa)) 0 else s.latest x) ∧ OpEnded u o ∧
        (u.band c b).tape.spill = rest ∧ (u.band c b).tape.stageLo = t.stageLo + 4096 ∧
        (∀ i, (u.band c b).tape.stage.getD i 0 = if i < t.stageLo + 4096 then 0 else t.stage.getD i 0) ∧
        Wakes s u c b (fun k => (decide (rest = []) && k == .tapeSpill) || matOver u k)))

/-- Two statements of one subject: `TapeControl` and `TapeTraffic`. Their choices of the model: notes/assumptions/49.md. -/
def Obligations.TapeControlAndTraffic : Prop := Claims.TapeControl ∧ Claims.TapeTraffic

namespace Sys2Proof.Claims
open Sys2Proof.Machine

/-! ### Matrix words -/

/-- Nothing in flight is in the way of a matrix word that reads some items and changes others (R204, R213), nor a released `mgemm` of its
band that waits at issue (R145). -/
structure Free (s : State) (rd wr : List Item) : Prop where
  own : s.slaved s.sh.clump = false
  released : ∀ m ∈ s.active, s.matPending s.sh.clump m.band = false
  reads : s.itemsWritten s.sh.clump rd = false
  writes : s.itemsUsed s.sh.clump wr = false

/-- `u` is `s` with an operation accepted for band `b`: it is under way, its ranges are locked, and the lines that it writes are
absent (R133, R137). -/
def Accepted (s u : State) (b : Nat) (kind : OpKind) (handle : Option Nat) (rs : List RangeReq) (lines : List Nat) : Prop :=
  let detail := (match handle with
    | some h => h
    | none => 2 ^ 31) + (s.band s.sh.clump b).slot % 256 * 2 ^ 16 + (s.band s.sh.clump b).quad % 4 * 2 ^ 24
  ∃ f, u = { s with
    uid := s.uid + 1
    ops := s.ops ++ [{ id := s.uid, ctx := s.ctxNo, clump := s.sh.clump, band := b, die := s.sh.die, core := s.sh.core,
                       kind := kind, scope := s.sh.ext.scope, handle := handle, lines := lines, floor := f, time := f }]
    locks := s.locks ++ rs.map fun r => (coreNo s.sh.die s.sh.core, ⟨s.ctxNo, r.spad, r.lo, r.hi, r.write, s.uid, detail⟩)
    clumps := s.clumps.modify s.sh.clump fun c => { c with absent := c.absent ++ lines.map fun l => (l, s.uid) } }

/-- A matrix word that becomes an operation: the items that it reads at issue, the trap that its operands raise, what it does and
the ranges that it locks. -/
structure MatWord where
  word : Instr
  reads : List Item
  fault : Option (Cause × Nat)
  kind : OpKind
  ranges : List RangeReq

/-- A base or a span of an image is out of place: "scratchpad bounds" (R207, R210). -/
def imageFault (s : State) (align o : Nat) (spans : List (Nat × Nat)) : Option (Cause × Nat) :=
  if o % align = 0 ∧ ∀ x ∈ spans, x.1 + x.2 ≤ s.clp.kernel.spad then none else some (.spadBounds, o)

/-- The read locks of an image's spans. -/
def imageRanges (s : State) (spans : List (Nat × Nat)) : List RangeReq :=
  (spans.filter fun x => decide (x.2 ≠ 0)).map fun x => ⟨some s.sh.clump, x.1, x.1 + x.2, false⟩

/-- A step is legal (R200, R214): its A operand of format `fmt` and extent `k` fits a loaded slot, and its columns fit the
accumulator. -/
def legalStep (fmt : Nat) (k : Option Nat) (sl : Option Slot) (col : Nat) : Bool :=
  match sl with
  | some x => decide ((alignWidth fmt = 16 ↔ alignWidth x.fmt = 16) ∧ k.getD x.k ≤ x.k ∧ 64 * col + 1024 / alignWidth x.fmt ≤ 256)
  | none => false

/-- The origin of a generator as an operand (R209): a pair that REGEXT names, or the descriptor's. -/
def originOf (s : State) (m : Lane) (g : Nat) : Word × Word :=
  if s.sh.ext.mode.getLsbD 0 then ((s.str m).reg s.sh.ext.e.toNat, (s.str m).reg (s.sh.ext.e.toNat + 1))
  else ((s.clp.gen g).row0, (s.clp.gen g).col0)

/-- "matrix operand" unless a condition holds. -/
def needs (p : Bool) : Option (Cause × Nat) := if p then none else some (.matrixOperand, 0)

/-- The matrix words that become operations (R206, R209, R212, R213, R227, R239). -/
noncomputable def matWords (s : State) (m : Lane) (t : BitVec 3) (g : BitVec 3) (d : BitVec 2) (col : BitVec 2) (sl : BitVec 1)
    (a b : BitVec 7) : List MatWord :=
  let o := (s.opA m a).toNat
  let ob := (s.opB m b).toNat
  let va := (s.opA64 m a).toNat
  let x := s.clp.tile t.toNat
  let slot := s.clp.mslots.find? sl.toNat
  let peer := s.clp.peer.bind fun p => (s.clump p).mslots.find? sl.toNat
  let step (w : Instr) (item : Item) (src : StepSrc) (known : Bool) (fmt : Nat) (k : Option Nat) (pair : Bool) : MatWord :=
    ⟨w, [item, .slot sl.toNat], needs (known && legalStep fmt k slot col.toNat &&
        (!pair || (decide (s.clp.thicket = 1) && legalStep fmt k peer col.toNat))),
      .step d.toNat col.toNat sl.toNat src pair (s.clp.acc d.toNat).chain, []⟩
  let gen := s.clp.gen g.toNat
  let org := originOf s m g.toNat
  let offs := [o, ob].filter (· ≠ 0xFFFFFFFF)
  [⟨.tld t a, [], (needs (decide (2 ≤ x.st))).or (imageFault s 16 o (x.spans o)), .tload t.toNat o, imageRanges s (x.spans o)⟩,
   ⟨.tscale t a, [.tile t.toNat], (needs (decide (x.st = 3) && x.scaled)).or (imageFault s 16 o [(o, x.scaleBytes x.rows)]),
     .tscale t.toNat o, imageRanges s [(o, x.scaleBytes x.rows)]⟩,
   ⟨.mload sl t b, [.tile t.toNat], (needs (decide (x.st ≠ 0))).or (imageFault s 128 ob (x.slotSpans ob)),
     .mload sl.toNat t.toNat ob, imageRanges s (x.slotSpans ob)⟩,
   ⟨.mloadg sl g, [.gen g.toNat], needs (arrayFmt gen.fmt), .mloadg sl.toNat g.toNat org.1 org.2, []⟩,
   step (.mma d t col sl) (.tile t.toNat) (.tile t.toNat) (decide (x.st = 3)) x.fmt (some x.k) false,
   step (.mmaPair d t col sl) (.tile t.toNat) (.tile t.toNat) (decide (x.st = 3)) x.fmt (some x.k) true,
   step (.mmag d g col sl) (.gen g.toNat) (.gen g.toNat org.1 org.2) (arrayFmt gen.fmt) gen.fmt none false,
   step (.mmagPair d g col sl) (.gen g.toNat) (.gen g.toNat org.1 org.2) (arrayFmt gen.fmt) gen.fmt none true,
   ⟨.mact d a b, [], ((offs.find? fun y => decide (y % 128 ≠ 0)).map fun y => (.misaligned, y)).or
       ((offs.find? fun y => decide (s.clp.kernel.spad < y + 1024)).map fun y => (.spadBounds, y)),
     .mact d.toNat o ob, offs.map fun y => ⟨some s.sh.clump, y, y + 1024, false⟩⟩,
   ⟨.gset g a, [], if va % 64 = 0 then none else some (.misaligned, va), .gset g.toNat va, [⟨none, va, va + 64, false⟩]⟩]

/-- A reservation of `n` units fits at `o` beside the clump's records other than `t` (R201, R206). -/
def fitsAt (c : Clump) (t n o : Nat) : Prop :=
  256 * (o + n) ≤ c.kernel.resv ∧ ∀ x ∈ c.tiles, x.1 ≠ t → x.2.own ≠ 0 → o + n ≤ x.2.off ∨ x.2.off + x.2.own ≤ o

/-- The bytes that a descriptor's tile owns (R201). -/
def ownedBytes (x : Nat) : Nat :=
  let t : Tile := { desc := x }
  t.rows * t.k * elemWidth t.fmt / 8 + if t.scaled then t.rows * t.k / t.blen else 0

/-- A record, accumulator or generator is set, and nothing else changes. -/
def SetsTile (s u : State) (n : Nat) (x : Tile) : Prop :=
  u = s.updClump s.sh.clump (fun c => { c with tiles := u.clp.tiles }) ∧ u.clp.tile n = x ∧
    ∀ k, k ≠ n → u.clp.tile k = s.clp.tile k
def SetsAcc (s u : State) (n : Nat) (x : Acc) : Prop :=
  u = s.updClump s.sh.clump (fun c => { c with accs := u.clp.accs }) ∧ u.clp.acc n = x ∧ ∀ k, k ≠ n → u.clp.acc k = s.clp.acc k
def SetsGen (s u : State) (n : Nat) (x : Gen) : Prop :=
  u = s.updClump s.sh.clump (fun c => { c with gens := u.clp.gens }) ∧ u.clp.gen n = x ∧ ∀ k, k ≠ n → u.clp.gen k = s.clp.gen k

/-- The sheaf's clump holds its matrix state in order. -/
structure MatSorted (c : Clump) : Prop where
  tiles : Sorted c.tiles
  accs : Sorted c.accs
  gens : Sorted c.gens
  stores : Sorted c.stores
  spad : Sorted c.spad
  resv : Sorted c.resv
  vals : ∀ x ∈ c.accs, Sorted x.2.vals

/-- The operations that an `mwait` waits for: those of its clump that change the accumulator or its drain store, which it follows as a
marker (R217), and those of its band that use them (R219). -/
def pendingOn (s : State) (k a : Nat) : List Nat :=
  let names (i : Item) : Bool := i == .acc a || i == .store a
  (s.ops.filter fun o => o.clump == s.sh.clump && (o.kind.writesItems.any names || (o.band == k && o.kind.readsItems.any names))).map
    (·.id)

/-! ### Matrix operations -/

/-- An operation may act: it is under way, and no earlier operation of its clump is in its way (R204). -/
structure MayAct (s : State) (i : Nat) (o : Op) : Prop where
  op : s.op i = some o
  under : o.paused = none
  first : s.itemBlocked o = false
  clump : (s.clumps.find? o.clump).isSome

/-- Row `r` of an A image as its elements, and a block's scale (R202). -/
def imageRow (c : Clump) (x : Tile) (o r k : Nat) : Nat := elemAt x.fmt (scratchValue c (o + r * x.rowBytes) x.rowBytes) k
def imageScale (c : Clump) (x : Tile) (o r b : Nat) : Nat :=
  if x.scaled then (c.spad.getD (o + x.scoff + r * x.blocks + b) 0).toNat else 127

/-- A block holds a NaN, an infinity or the scale 0xFF (R215). -/
def special (fmt scale n : Nat) (x : Nat → Nat) : Prop := scale = 255 ∨ ∃ i < n, ∀ s m e, elemVal fmt (x i) ≠ .fin s m e

/-- Element (k, n) of a B image, and the scale of block b of column n (R202). -/
def slotElem (c : Clump) (x : Tile) (o k n : Nat) : Nat :=
  elemAt x.fmt (scratchValue c (o + slotStride x.fmt * k) (slotStride x.fmt)) n
def slotScale (c : Clump) (x : Tile) (o b n : Nat) : Nat :=
  if x.scaled then (c.spad.getD (o + x.scoff + b * slotCols x.fmt + n) 0).toNat else 127

/-- A word, a zero of which is +0. -/
def plus (x : Word) : Word := if x = 0x80000000 then 0 else x

/-- The balanced tree of R49 over 2^n partials. -/
noncomputable def sumTree : Nat → (Nat → Word) → Word
  | 0, x => x 0
  | n + 1, x => sumTree n fun i => plus (Machine.Num.addRne (x (2 * i)) (x (2 * i + 1)))

/-- The product of row `r` of an A operand with column `n` of a slot (R48, R49, R212). -/
noncomputable def product (a : AOperand) (sl : Slot) (r n : Nat) : Word :=
  let blen := min a.blen sl.blen
  let row := (a.rows[r]?).getD []
  let block (k : Nat) : Aligned × Nat := (row[k / a.blen]?).getD (⟨[], 0⟩, 127)
  sumTree (if blen = 16 then 6 else 5) fun b =>
    if a.k ≤ b * blen then 0
    else
      let x := block (b * blen)
      let col := 256 * (b * blen / sl.blen) + n
      let sum := ((List.range blen).map fun i =>
        ((x.1.q[(b * blen + i) % a.blen]?).getD 0) * sl.q.getD (256 * (b * blen + i) + n) 0).sum
      plus (Machine.Num.rneF32 (.fin (decide (sum < 0)) sum.natAbs
        (x.1.exp + sl.qexp.getD col 0 + ((x.2 : Int) - 127) + ((sl.scale.getD col 127 : Int) - 127))))

/-- A step has been added to an accumulator: each product to its element, and the flags; other elements are as they were. -/
def Stepped (x y : Acc) (a : AOperand) (sl : Slot) (col : Nat) : Prop :=
  (∀ r < 32, ∀ c < 256, y.vals.getD (256 * r + c) 0 =
    if r < a.rows.length ∧ 64 * col ≤ c ∧ c < 64 * col + slotCols sl.fmt then
      plus (Machine.Num.addRne (x.vals.getD (256 * r + c) 0) (product a sl r (c - 64 * col)))
    else x.vals.getD (256 * r + c) 0) ∧
  y.rowFlags = x.rowFlags ||| a.flags ∧ y.colFlags = x.colFlags ||| (sl.colFlags <<< (64 * col)) ∧ y.chain = x.chain

/-- What a step has computed adds its products, to whatever accumulator. -/
def Computes (y : StepOut) (a : AOperand) (sl : Slot) (col : Nat) : Prop := ∀ x : Acc, Sorted x.vals → Stepped x (x.take y) a sl col

end Sys2Proof.Claims

/-- R201, R206, R209, R212 to R214, R227, R239: each of these words whose operands raise no trap, with nothing in its way and its
ranges free, is accepted as an operation; it is held while something is in its way or a range is locked, and traps otherwise.
What is in its way (notes/assumptions/52.md), and that its vector operands are lane 0's also where that lane has ended
(notes/assumptions/50.md), is read from the rules by inference. -/
def Obligations.MatrixWordsIssue : Prop :=
  ∀ (s : State) (k : Nat) (t g : BitVec 3) (d col : BitVec 2) (sl : BitVec 1) (a b : BitVec 7), OneBand s k →
    ∀ x ∈ matWords s (laneZero s.active) t g d col sl a b,
    (Free s x.reads [] → x.fault = none → s.lockWait s.clp.coreNo s.ctxNo x.ranges = false →
      Completes x.word s fun w => ActsForBand w fun u => Accepted s u k x.kind none x.ranges []) ∧
    ∀ m, s.active = [m] → s.sh.lanes = [m] →
      (¬ Free s x.reads [] → Completes x.word s fun w => Held s w m .engineIssue) ∧
      (Free s x.reads [] → ∀ c addr, x.fault = some (c, addr) → Completes x.word s fun w =>
        Trapped s w s.sh.clump m c addr 0 s.sh.at_ s.sh.at_) ∧
      (Free s x.reads [] → x.fault = none → x.ranges ≠ [] → s.lockWait s.clp.coreNo s.ctxNo x.ranges = true →
        Completes x.word s fun w => Held s w m .engineIssue)

/-- R201, R206, R217, R219, R239: `tres` writes a record and places its space at the lowest free run, or traps with nothing
changed; `trel` frees a record; `tinfo` reads one; `mzero` clears an accumulator, `mbegin` opens its chain and `mend` closes it;
`mwait` goes on at once with nothing pending and parks otherwise; `gseed` and `gscope` change one field; `gread` reads an entry
for each strand. That `mwait` waits for other bands' operations on the accumulator too (notes/assumptions/52.md), and that the operands of
lane 0 are read also where that lane has ended (50.md), are the model's choices. -/
def Obligations.MatrixStateWords : Prop :=
  ∀ (s : State) (k : Nat) (t g : BitVec 3) (d : BitVec 2) (r a b : BitVec 7), OneBand s k → MatSorted s.clp →
    let m := lowestLane s.active
    let z := laneZero s.active
    let x := (s.opA64 z a).toNat
    let new : Tile := { desc := x }
    let n := (ownedBytes x + 255) / 256
    let acc := s.clp.acc d.toNat
    let gen := s.clp.gen g.toNat
    (Free s [] [.tile t.toNat] → tileBad x = false →
      (new.rows = 0 → Completes (.tres t a) s fun w => ActsForBand w fun u => SetsTile s u t.toNat { new with st := 1 }) ∧
      (new.rows ≠ 0 → ∀ o, fitsAt s.clp t.toNat n o → (∀ o' < o, ¬ fitsAt s.clp t.toNat n o') →
        Completes (.tres t a) s fun w => ActsForBand w fun u => SetsTile s u t.toNat { new with st := 2, off := o, own := n }) ∧
      (new.rows ≠ 0 → (∀ o, ¬ fitsAt s.clp t.toNat n o) → s.active = [m] → s.sh.lanes = [m] → Completes (.tres t a) s fun w =>
        Trapped s w s.sh.clump m .operandBufferFull 0 0 s.sh.at_ s.sh.at_)) ∧
    (Free s [] [.tile t.toNat] → Completes (.trel t) s fun w => ActsForBand w fun u => SetsTile s u t.toNat {}) ∧
    (Free s [.tile t.toNat] [] → let y := s.clp.tile t.toNat
      let code := if y.st = 0 then 0 else if y.st = 3 then 2 else 1
      let lo := if y.st = 0 then 0 else y.desc % 2 ^ 32 + code * 2 ^ 6
      let hi := if y.st = 0 then 0 else y.desc / 2 ^ 32 + y.off * 2 ^ 20
      Completes (.tinfo r t) s fun w => ActsForBand w fun u => ∃ e : EngOut, EngineResult s u k e ∧ e.op = none ∧
        e.writes = s.active.flatMap fun l =>
          [.lane l.lane (.v r.toNat (BitVec.ofNat 32 lo)), .lane l.lane (.v (r.toNat + 1) (BitVec.ofNat 32 hi))]) ∧
    (Free s [] [.acc d.toNat] →
      (Completes (.mzero d) s fun w => ActsForBand w fun u => SetsAcc s u d.toNat { chain := acc.chain }) ∧
      (Completes (.mbegin d) s fun w => ActsForBand w fun u =>
        SetsAcc { s with uid := s.uid + 1 } u d.toNat { acc with chain := some s.uid }) ∧
      (Completes (.mend d) s fun w => ActsForBand w fun u => SetsAcc s u d.toNat { acc with chain := none })) ∧
    (Free s [] [] → pendingOn s k d.toNat = [] → Completes (.mwait d) s fun w => ActsForBand w fun u =>
      u = { s with coh := { s.coh with cts := u.coh.cts } } ∧
      ((s.band s.sh.clump k).etime ≠ 0 → (s.band s.sh.clump k).etime < u.cts s.clp.coreNo)) ∧
    (Free s [] [] → pendingOn s k d.toNat ≠ [] → s.active = s.sh.lanes → Completes (.mwait d) s fun w => ∃ u : State,
      Accepted s u k (.mwait d.toNat) none [] [] ∧ u.Changes w fun _ y =>
      { y with park := some ⟨.matWait (pendingOn s k d.toNat ++ [s.uid]), s.sh.pc, some s.sh.next⟩, redo := s.sh.start, overruled := false }) ∧
    (Free s [] [.gen g.toNat] →
      (Completes (.gseed g a) s fun w => ActsForBand w fun u => SetsGen s u g.toNat { gen with seed := s.opA64 z a }) ∧
      ((s.opA z a).toNat % 8 ≤ 4 → Completes (.gscope g a) s fun w => ActsForBand w fun u =>
        SetsGen s u g.toNat { gen with scope := (s.opA z a).toNat % 8 }) ∧
      (4 < (s.opA z a).toNat % 8 → s.active = [m] → s.sh.lanes = [m] → Completes (.gscope g a) s fun w =>
        Trapped s w s.sh.clump m .generatorDescriptor 0 0 s.sh.at_ s.sh.at_)) ∧
    (Free s [.gen g.toNat] [] → Completes (.gread r g b) s fun w => ActsForBand w fun u => EngineResult s u k
      { vregs := [r.toNat], writes := s.active.map fun l => .lane l.lane (.v r.toNat (Machine.Num.rneF32 (elemVal gen.fmt
          (gen.entry (s.genSeed s.sh.clump l gen) (s.opBword l b 0) (s.opBword l b 1))))) })

/-- R50, R202, R206, R209, R212, R215, R217, R239: what a matrix operation leaves when it ends: a loaded record holds its image and its row
flags, a slot its aligned elements and its column flags, an accumulator the products added to it, a generator its descriptor's
fields; a descriptor that breaks R234 leaves a pending band fault. A step of an open chain reads its operands first, and its results reach
the accumulator later, before or after those of the chain's other steps; that a step's whole tile is then added at once
(notes/assumptions/90.md), and that `gset` makes no poison check of its descriptor (56.md), are the model's choices. A descriptor read
whose buckets have too few tokens waits for them (R100). -/
def Obligations.MatrixOperationsEnd : Prop :=
  ∀ (s : State) (i : Nat) (o : Op), MayAct s i o → MatSorted (s.clump o.clump) →
    let c := s.clump o.clump
    (∀ n b, o.kind = .tload n b → let x := c.tile n
      tileBad x.desc = false → 2 ≤ x.st → Completes (.tileLoadComplete i) s fun t => OpEnded t o ∧ SameBytes s t ∧
        (∀ j < x.elemBytes x.rows, (t.clump o.clump).resv.getD (256 * x.off + j) 0 = c.spad.getD (b + j) 0) ∧
        (∀ j < x.scaleBytes x.rows, (t.clump o.clump).resv.getD (256 * x.off + x.elemBytes x.rows + j) 0 =
          c.spad.getD (b + x.scoff + j) 0) ∧
        ∃ y, (t.clump o.clump).tile n = y ∧ y = { x with st := 3, flags := y.flags, poison := y.poison } ∧
          ∀ r < x.rows, (y.flags.getLsbD r = true ↔
            ∃ q < x.blocks, special x.fmt (imageScale c x b r q) x.blen fun j => imageRow c x b r (q * x.blen + j))) ∧
    (∀ n b, o.kind = .tscale n b → let x := c.tile n
      Completes (.tileLoadComplete i) s fun t => OpEnded t o ∧ SameBytes s t ∧
        (∀ j < x.scaleBytes x.rows, (t.clump o.clump).resv.getD (256 * x.off + x.elemBytes x.rows + j) 0 = c.spad.getD (b + j) 0) ∧
        ∃ y, (t.clump o.clump).tile n = y ∧ y = { x with flags := y.flags, poison := y.poison }) ∧
    (∀ n r b, o.kind = .mload n r b → let x := c.tile r
      tileBad x.desc = false → Completes (.slotLoadComplete i) s fun t => OpEnded t o ∧ SameBytes s t ∧
        ∃ sl, (t.clump o.clump).mslots.find? n = some sl ∧ sl.fmt = x.fmt ∧ sl.k = x.k ∧ sl.blen = x.blen ∧
          (∀ j, j ≠ n → (t.clump o.clump).mslots.find? j = c.mslots.find? j) ∧
          ∀ q < x.blocks, ∀ col < slotCols x.fmt,
            let xs := (List.range x.blen).map fun j => slotElem c x b (q * x.blen + j) col
            let al := alignBlock x.fmt (slotScale c x b q col) xs
            (∀ j < x.blen, sl.q.getD (256 * (q * x.blen + j) + col) 0 = (al.q[j]?).getD 0) ∧
            sl.qexp.getD (256 * q + col) 0 = al.exp ∧ sl.scale.getD (256 * q + col) 127 = slotScale c x b q col ∧
            (special x.fmt (slotScale c x b q col) x.blen (fun j => slotElem c x b (q * x.blen + j) col) →
              sl.colFlags.getLsbD col = true ∧ ∀ j < x.blen, sl.q.getD (256 * (q * x.blen + j) + col) 0 = 0)) ∧
    (∀ n g row col, o.kind = .mloadg n g row col → let x := c.gen g
      arrayFmt x.fmt = true → Completes (.slotLoadComplete i) s fun t => OpEnded t o ∧ SameBytes s t ∧
        ∃ sl, (t.clump o.clump).mslots.find? n = some sl ∧ sl.fmt = x.fmt ∧ sl.k = 1024 ∧ sl.blen = 32 ∧ sl.colFlags = 0 ∧
          ∀ q < 32, ∀ j < slotCols x.fmt,
            let seed := s.genSeed o.clump ⟨o.band, 0⟩ x
            let entry (k : Nat) : Nat :=
              if x.trans then x.entry seed (row + BitVec.ofNat 32 j) (col + BitVec.ofNat 32 k)
              else x.entry seed (row + BitVec.ofNat 32 k) (col + BitVec.ofNat 32 j)
            ∀ k < 32, sl.q.getD (256 * (32 * q + k) + j) 0 =
              ((alignBlock x.fmt 127 ((List.range 32).map fun k => entry (32 * q + k))).q[k]?).getD 0) ∧
    (∀ a col n src sl, o.kind = .step a col n src false none → c.mslots.find? n = some sl →
      (sl.blen = 16 ∨ sl.blen = 32) → 64 * col + slotCols sl.fmt ≤ 256 → Completes (.matrixStepRetire i) s fun t => OpEnded t o ∧ SameBytes s t ∧
        Stepped (c.acc a) ((t.clump o.clump).acc a) (s.operandOf o src sl) sl col ∧
        ∀ j, j ≠ a → (t.clump o.clump).acc j = c.acc j) ∧
    (∀ a col n src sl sl' p, o.kind = .step a col n src true none → c.mslots.find? n = some sl → c.peer = some p →
      (s.clump p).mslots.find? n = some sl' → (∀ x ∈ [sl, sl'], x.blen = 16 ∨ x.blen = 32) → 64 * col + slotCols sl.fmt ≤ 256 → 64 * col + slotCols sl'.fmt ≤ 256 →
      Completes (.matrixStepRetire i) s fun t => OpEnded t o ∧
        Stepped (c.acc a) ((t.clump o.clump).acc a) (s.operandOf o src sl) sl col ∧
        Stepped (c.acc (a + 1)) ((t.clump o.clump).acc (a + 1)) (s.operandOf o src sl') sl' col) ∧
    (∀ a col n src pair ch sl, o.kind = .step a col n src pair (some ch) → c.mslots.find? n = some sl → (sl.blen = 16 ∨ sl.blen = 32) →
      64 * col + slotCols sl.fmt ≤ 256 → Completes (.matrixStepRetire i) s fun t => SameBytes s t ∧ t.clumps = s.clumps ∧
        ∃ y rest, t.op i = some { o with kind := .sum ((a, y) :: rest) ch } ∧ Computes y (s.operandOf o src sl) sl col ∧
        (pair = false → rest = []) ∧
        ∀ p sl', pair = true → c.peer = some p → (s.clump p).mslots.find? n = some sl' → (sl'.blen = 16 ∨ sl'.blen = 32) →
          64 * col + slotCols sl'.fmt ≤ 256 → ∃ z, rest = [(a + 1, z)] ∧ Computes z (s.operandOf o src sl') sl' col) ∧
    (∀ outs ch, o.kind = .sum outs ch → Completes (.matrixStepRetire i) s fun t => OpEnded t o ∧ SameBytes s t ∧
      ∀ j, (t.clump o.clump).acc j = (outs.filter fun x => x.1 == j).foldl (fun x y => x.take y.2) (c.acc j)) ∧
    (∀ a, o.kind = .mwait a → Completes (.matrixStepRetire i) s fun t => OpEnded t o ∧ SameBytes s t ∧
      ∀ j, (t.clump o.clump).acc j = c.acc j) ∧
    (∀ g va pa e base size pin, o.kind = .gset g va → s.Inv → va % 64 = 0 → va < 2 ^ 64 →
      s.translate o.ctx va 64 .engRead false = .ok pa e base size pin →
      let bytes := (List.range 64).map fun j => s.latest (pa + j)
      let paid : Prop := HasTokens s (s.readGset o g va) o.ctx o.paid
      (¬ paid → Completes (.gsetDescriptorRead i) s fun t => AsksForTokens s t i) ∧
      (paid → genBad bytes = false → Completes (.gsetDescriptorRead i) s fun t => OpEnded t o ∧ SameBytes s t ∧
        (t.clump o.clump).gen g = genOf bytes ∧ ∀ j, j ≠ g → (t.clump o.clump).gen j = c.gen j) ∧
      (paid → genBad bytes = true → o.band < c.bands.length → Completes (.gsetDescriptorRead i) s fun t => OpEnded t o ∧
        (t.clump o.clump).gens = c.gens ∧ (t.band o.clump o.band).pend = some ⟨.generatorDescriptor, va % 2 ^ 56, 0⟩))

namespace Sys2Proof.Claims
open Sys2Proof.Machine

/-! ### Drains -/

/-- The eight words of a drain descriptor. -/
def drainWords (s : State) (b : BitVec 7) : List Word := (List.range 8).map fun i => s.opBword (laneZero s.active) b i

/-- What a drain's operands raise (R225, R228): `raw` for `mst`. -/
def drainFault (s : State) (raw : Bool) (d : Nat) (ws : List Word) : Option (Cause × Nat) :=
  let x := drainDesc ws
  if raw = false ∧ x.dest ≠ 2 ∧ d ≠ 0 then some (.illegal, 0)
  else if drainBad x ws = true ∨ (raw = true ∧ drainRawBad x = true) then some (.matrixOperand, 0)
  else if x.daddr % 16 ≠ 0 ∨ x.dstride % 16 ≠ 0 ∨ x.scoff % 16 ≠ 0 then some (.misaligned, x.daddr)
  else
    ((x.spans.find? fun y => decide (x.dest = 0 ∧ (y.1 < 0 ∨ (s.clp.kernel.spad : Int) < y.1 + y.2))).map
      fun y => (.spadBounds, (y.1 % 2 ^ 32).toNat))

/-- The accumulator after a drain: with ZERO it is +0 throughout, its flags clear. -/
def drained (d : DrainDesc) (x : Acc) : Acc := if d.zero then { chain := x.chain } else x

/-- The element (r, c) that a drain writes (R224, R225); a marked one has no value. -/
noncomputable def drainElement (d : DrainDesc) (raw : Bool) (x : Acc) (st : DrainStore) (r c : Nat) : Option Word :=
  let v := x.vals.getD (256 * r + c) 0
  if raw = true then some v
  else if x.rowFlags.getLsbD r = true ∨ x.colFlags.getLsbD c = true then none
  else
    let v := if d.ts then Machine.Num.rneF32 (Machine.Num.mul (Machine.Num.ofF32 v) (Machine.Num.ofF32 d.tsv)) else v
    let v := if d.bias then Machine.Num.addRne v (st.biasOf c) else v
    some (if d.act then st.activate v else v)

/-- The segment of an activation table for an input that is not a NaN (R223). -/
def segmentOf (st : DrainStore) (x : Machine.Num.Val) (k : Nat) : Prop :=
  let reaches (i : Nat) : Prop := Machine.Num.lt (Machine.Num.ofF32 (st.word i)) x ∨ Machine.Num.eq (Machine.Num.ofF32 (st.word i)) x
  k ≤ 63 ∧ (k ≠ 0 → reaches k) ∧ ∀ i, k < i → i ≤ 63 → ¬ reaches i

/-- The scale byte and the element bits of block `q` of a row (R224, R60). -/
noncomputable def rowBlock (d : DrainDesc) (raw : Bool) (x : Acc) (st : DrainStore) (r q : Nat) : Nat × List Nat :=
  drainBlock d.fmt ((List.range d.blen).map fun i => drainElement d raw x st r (q * d.blen + i))

/-- Byte `j` of row `r` of a drain's output: F32 elements, or requantised ones packed as R39 says. -/
noncomputable def drainByte (d : DrainDesc) (raw : Bool) (x : Acc) (st : DrainStore) (r j : Nat) : Byte :=
  if d.rq = 0 then byteOf ((drainElement d raw x st r (j / 4)).getD 0x7FC00000).toNat (j % 4)
  else
    let elem (c : Nat) : Nat := (((rowBlock d raw x st r (c / d.blen)).2)[c % d.blen]?).getD 0
    if elemWidth d.fmt = 8 then BitVec.ofNat 8 (elem j) else BitVec.ofNat 8 (elem (2 * j) + 16 * elem (2 * j + 1))

/-- Where a drain's output lies, when its spans share no byte. -/
def Apart (d : DrainDesc) : Prop := d.spans.Pairwise fun x y => x.1 + (x.2 : Int) ≤ y.1 ∨ y.1 + (y.2 : Int) ≤ x.1

/-- The band of an operation is listed. -/
def ListsBand (s : State) (o : Op) : Prop := (s.clumps.find? o.clump).isSome ∧ o.band < (s.clump o.clump).bands.length

/-! ### The sequencer -/

/-- A band has posted an unreleased command with its next handle, which is also its result (R145). -/
def Posted (s u : State) (k : Nat) (d : BitVec 7) (c : Unreleased) : Prop :=
  (∃ f, (u.band s.sh.clump k).unrel = (s.band s.sh.clump k).unrel ++ [{ c with floor := f }]) ∧
  (u.band s.sh.clump k).handleStatus (nextHandle s k) = 2 ∧
  (u.band s.sh.clump k).engOut = (s.band s.sh.clump k).engOut ++ [toUniformIn s k d (nextHandle s k)] ∧
  u.ops = s.ops ∧ u.locks = s.locks ∧ u.mem = s.mem ∧ u.coh = s.coh ∧ ∀ c m, u.strand c m = s.strand c m

end Sys2Proof.Claims

/-- R100, R124, R221 to R228: a drain whose descriptor raises no trap is accepted, and its destination registers are promised; when it ends,
every element stands in the scratchpad, in memory or in the registers as R224 and R225 form it, and with ZERO the accumulator is
cleared; lines outside the drain's scope are to come later, and a drain whose buckets have too few tokens waits for them; `mact`'s tables are those of the scratchpad; an input's segment is the largest
that qualifies. That a drain's writes come at one moment, its completion, is the model's choice (notes/assumptions/31.md); its ranges are
read as notes/assumptions/54.md says. -/
def Obligations.Drains : Prop :=
  (∀ (s : State) (k : Nat) (d b : BitVec 7) (a : BitVec 2), OneBand s k →
    let ws := drainWords s b
    let y := drainDesc ws
    ∀ x ∈ [(Instr.mdrain d a b, d.toNat, false), (.mst a b, 0, true)],
    let regs := (List.range 8).map (x.2.1 + ·)
    (Free s [] [] → x.2.1 % 8 = 0 → drainFault s x.2.2 x.2.1 ws = none →
      (y.dest = 2 → ∀ e ∈ (s.band s.sh.clump k).engOut, ∀ r ∈ regs, r ∉ e.vregs) →
      s.lockWait s.clp.coreNo s.ctxNo (y.ranges s.sh.clump) = false → Completes x.1 s fun t => ActsForBand t fun u => ∃ v,
        Accepted s v k (.drain a.toNat y x.2.2 x.2.1) none (y.ranges s.sh.clump) y.lines ∧
        u = v.updBand s.sh.clump k fun z =>
          if y.dest = 2 then { z with engOut := z.engOut ++ [{ op := some s.uid, vregs := regs }] } else z) ∧
    (∀ m c addr, s.active = [m] → s.sh.lanes = [m] → Free s [] [] → drainFault s x.2.2 x.2.1 ws = some (c, addr) →
      Completes x.1 s fun t => Trapped s t s.sh.clump m c addr 0 s.sh.at_ s.sh.at_)) ∧
  (∀ (d b : BitVec 7) (a : BitVec 2) (x : Ext) (k : Kernel) (th : Nat),
    d.toNat % 8 ≠ 0 ∨ (d ≠ 0 ∧ k.regs < d.toNat + 8) → legal x k th (.mdrain d a b) = false) ∧
  (∀ (s : State) (i : Nat) (o : Op) (a : Nat) (d : DrainDesc) (raw : Bool) (reg : Nat), MayAct s i o → ListsBand s o →
    MatSorted (s.clump o.clump) → o.kind = .drain a d raw reg → ∀ ws, d = drainDesc ws → drainBad d ws = false → Apart d →
    (¬ HasTokens s (s.runDrain o a d raw reg) o.ctx o.paid → Completes (.drainComplete i) s fun t => AsksForTokens s t i) ∧
    (HasTokens s (s.runDrain o a d raw reg) o.ctx o.paid →
    let c := s.clump o.clump
    let x := c.acc a
    let st := c.store a
    (d.dest = 0 → (∀ y ∈ d.spans, 0 ≤ y.1) → Completes (.drainComplete i) s fun t => OpEnded t o ∧ SameBytes s t ∧
      (t.clump o.clump).acc a = drained d x ∧
      (∀ r < d.nrow, ∀ j < d.ncol * elemWidth d.fmt / 8,
        (t.clump o.clump).spad.getD (d.rowAt r + (j : Int)).toNat 0 = drainByte d raw x st r j) ∧
      (d.rq ≠ 0 → ∀ r < d.nrow, ∀ q < d.ncol / d.blen,
        (t.clump o.clump).spad.getD (d.scaleAt r + (q : Int)).toNat 0 = BitVec.ofNat 8 (rowBlock d raw x st r q).1) ∧
      ∀ z : Nat, (∀ y ∈ d.spans, ¬ (y.1 ≤ z ∧ (z : Int) < y.1 + y.2)) → (t.clump o.clump).spad.getD z 0 = c.spad.getD z 0) ∧
    (d.dest = 1 → d.rq = 0 → d.nrow = 1 → s.Inv →
      d.daddr % 4096 + 4 * d.ncol ≤ 4096 → d.daddr < 2 ^ 64 → ∀ pa e base size pin,
      s.translate o.ctx d.daddr (4 * d.ncol) .engWrite false = .ok pa e base size pin →
      Completes (.drainComplete i) s fun t => OpEnded t o ∧ (t.clump o.clump).acc a = drained d x ∧
        PutByLines (s.useLeaf o.ctx base size e pin) s t o pa (4 * d.ncol) (drainByte d raw x st 0)) ∧
    (d.dest = 2 → (s.band o.clump o.band).engOut.any (fun e => e.op == some i) = true → Completes (.drainComplete i) s fun t =>
      OpEnded t o ∧ SameBytes s t ∧ (t.clump o.clump).acc a = drained d x ∧
      ∃ e ∈ (t.band o.clump o.band).engOut, e.op = none ∧
        ∀ w, w ∈ e.writes ↔ ∃ l j, (∃ z ∈ (s.band o.clump o.band).strands, z.1 = l) ∧ l < d.nrow ∧ j < 8 ∧
          w = .lane l (.v (reg + j) ((drainElement d false x st l (8 * d.cgrp + j)).getD 0x7FC00000))))) ∧
  (∀ (s : State) (i : Nat) (o : Op) (a table bias : Nat), MayAct s i o → MatSorted (s.clump o.clump) →
    o.kind = .mact a table bias → let c := s.clump o.clump
    Completes (.drainComplete i) s fun t => OpEnded t o ∧ SameBytes s t ∧
      (∀ j < 256, ((t.clump o.clump).store a).word j = if table = 0xFFFFFFFF then (c.store a).word j
        else BitVec.ofNat 32 (scratchValue c (table + 4 * j) 4)) ∧
      (∀ j < 256, ((t.clump o.clump).store a).biasOf j = if bias = 0xFFFFFFFF then (c.store a).biasOf j
        else BitVec.ofNat 32 (scratchValue c (bias + 4 * j) 4)) ∧
      ∀ j, j ≠ a → (t.clump o.clump).store j = c.store j) ∧
  ∀ (st : DrainStore) (x : Word) (k : Nat), let v := Machine.Num.ofF32 x
    (Machine.Num.isNan v = true → st.activate x = 0x7FC00000) ∧
    (Machine.Num.isNan v = false → segmentOf st v k → st.activate x = Machine.Num.rneF32 (Machine.Num.add 0
      (Machine.Num.mul (Machine.Num.ofF32 (st.word (64 + k))) v) (Machine.Num.ofF32 (st.word (128 + k)))))

/-- R50, R51, R100, R139, R145, R229 to R233: `mgemm` posts its descriptor unreleased, or hands a legal one to the sequencer with the band's next
handle, or traps; the sequencer comes to its boundaries: a slot load, a step, and at the end the last tile's drain, once the tile's steps
have been added in some order, and status 0, each once its transfers have their tokens; `eng.release` puts every unreleased command of the band in flight: one that nothing holds
issues, others wait at issue. The model's choices: what a boundary does is one event (notes/assumptions/53.md), and a release that a check
refuses releases nothing, whereas one that waits is checked when it issues (notes/assumptions/25.md, 55.md). -/
def Obligations.Sequencer : Prop :=
  (∀ (s : State) (k : Nat) (d a : BitVec 7), OneBand s k →
    let m := lowestLane s.active
    let off := (s.opA (laneZero s.active) a).toNat
    let items (p : Mgemm) : List Item := [.tile p.ta, .tile p.tb]
    (Free s [] [] → (s.band s.sh.clump k).unrel.length < Config.maxUnreleased →
      Completes (.mgemm d a 1) s fun t => ActsForBand t fun u => Posted s u k d
        { op := 0x30, fn := 6, desc := [BitVec.ofNat 32 off], handle := nextHandle s k, compl := 0, scope := s.sh.ext.scope }) ∧
    (Free s [] [] → s.lockWait s.clp.coreNo s.ctxNo [⟨some s.sh.clump, off, off + 64, false⟩] = false →
      (∀ p, s.clp.mgemmAt off none = .ok p → s.itemsWritten s.sh.clump (items p) = false →
        s.lockWait s.clp.coreNo s.ctxNo (p.ranges s.clp s.sh.clump) = false →
        Completes (.mgemm d a 0) s fun t => ActsForBand t fun u =>
          (∃ f, u.ops = s.ops ++ [{ id := s.uid, ctx := s.ctxNo, clump := s.sh.clump, band := k, die := s.sh.die, core := s.sh.core,
                                    kind := .mgemm p, scope := s.sh.ext.scope, handle := some (nextHandle s k), lines := p.lines s.clp
                                    floor := f, time := f }]) ∧
          (u.band s.sh.clump k).engOut = (s.band s.sh.clump k).engOut ++ [toUniformIn s k d (nextHandle s k)] ∧
          (u.band s.sh.clump k).handleStatus (nextHandle s k) = 1 ∧
          (∀ r ∈ p.ranges s.clp s.sh.clump, ∃ l ∈ u.locks, l.2.lo = r.lo ∧ l.2.hi = r.hi ∧ l.2.write = r.write ∧ l.2.op = s.uid) ∧
          u.mem = s.mem ∧ u.coh = s.coh ∧ ∀ c m, u.strand c m = s.strand c m) ∧
      (∀ x, s.clp.mgemmAt off none = .error x → s.itemsWritten s.sh.clump ((List.range 8).map .tile) = false →
        s.active = [m] → s.sh.lanes = [m] → Completes (.mgemm d a 0) s fun t =>
        Trapped s t s.sh.clump m x.cause x.addr x.detail s.sh.at_ s.sh.at_))) ∧
  (∀ (s : State) (i : Nat) (o : Op) (p : Mgemm) (h : Nat), MayAct s i o → ListsBand s o → s.slaved o.clump = false →
    MatSorted (s.clump o.clump) → o.kind = .mgemm p → o.handle = some h →
    (p.rows = 0 ∨ ∃ l ∈ s.locks, l.2.op = o.id) →
    (¬ HasTokens s (s.runMgemm o p) o.ctx o.paid → Completes (.mgemmSequenceStep i) s fun t => AsksForTokens s t i) ∧
    (HasTokens s (s.runMgemm o p) o.ctx o.paid →
    let c := s.clump o.clump
    let moved (t : State) (q : Mgemm) : Prop := t.op i = some { o with kind := .mgemm q, paid := [] } ∧ SameBytes s t ∧ t.locks = s.locks
    (p.rows = 0 → p.m = 0 → (s.band o.clump o.band).handles.any (fun x => x.1 == h) = true → h < 2 ^ 16 →
      Completes (.mgemmSequenceStep i) s fun t => OpEnded t o ∧ (t.band o.clump o.band).handleStatus h = 0 ∧ SameBytes s t) ∧
    (p.afterLoad = true → 32 * p.m < p.rows → (p.c ≠ 0 ∨ p.m = 0) →
      let b := p.word 2 + p.c * p.word 3
      b % 128 = 0 → (∀ x ∈ (c.tile p.tb).slotSpans b, x.1 + x.2 ≤ c.kernel.spad) →
      Completes (.mgemmSequenceStep i) s fun t => moved t { p with afterLoad := false } ∧
        (t.clump o.clump).mslots.find? (p.c % 2) = some (c.slotOf (c.tile p.tb) b) ∧
        (t.clump o.clump).acc p.acc = if p.c = 0 then { chain := some s.uid } else c.acc p.acc) ∧
    (p.afterLoad = false → 32 * p.m < p.rows → p.c ≠ 0 → ∀ sl, c.mslots.find? (p.c % 2) = some sl →
      (sl.blen = 16 ∨ sl.blen = 32) →
      let a := p.word 0 + (p.m * p.kt + p.c) * p.word 1
      let x := (c.tile p.ta).withRows (min 32 (p.rows - 32 * p.m))
      a % 16 = 0 → (∀ y ∈ x.spans a, y.1 + y.2 ≤ c.kernel.spad) →
      legalStep x.fmt (some x.k) (some sl) 0 = true → x.rows = min 32 (p.rows - 32 * p.m) →
      Completes (.mgemmSequenceStep i) s fun t =>
        ((t.clump o.clump).tile p.ta).st = 3 ∧ ((t.clump o.clump).tile p.ta).rows = x.rows ∧
        (t.clump o.clump).acc p.acc = c.acc p.acc ∧
        ∃ y, Computes y ((t.clump o.clump).tileOperand ((t.clump o.clump).tile p.ta)) sl 0 ∧
          moved t (if p.c + 1 < p.kt then { p with c := p.c + 1, afterLoad := true, held := p.held ++ [y] }
            else { p with m := p.m + 1, c := 0, afterLoad := decide (1 < p.kt), held := p.held ++ [y] })) ∧
    (let d := p.drainOf (p.m - 1)
     let x := c.acc p.acc
     p.m ≠ 0 → p.mt = p.m → p.c = 0 → (p.afterLoad = true ∨ p.kt = 1) → drainBad (drainDesc p.drainWords) p.drainWords = false →
     d.dest = 0 → Apart d → (∀ y ∈ d.spans, 0 ≤ y.1 ∧ y.1 + (y.2 : Int) ≤ c.kernel.spad) →
     (s.band o.clump o.band).handles.any (fun x => x.1 == h) = true → h < 2 ^ 16 →
      Completes (.mgemmSequenceStep i) s fun t => OpEnded t o ∧ (t.band o.clump o.band).handleStatus h = 0 ∧ SameBytes s t ∧
        (∃ ys : List StepOut, ys.Perm p.held ∧ let sum := ys.foldl Acc.take x
          (t.clump o.clump).acc p.acc = drained d { sum with chain := none } ∧
          ∀ r < d.nrow, ∀ j < d.ncol * elemWidth d.fmt / 8,
            (t.clump o.clump).spad.getD (d.rowAt r + (j : Int)).toNat 0 = drainByte d false sum (c.store p.acc) r j) ∧
        ∀ z : Nat, (∀ y ∈ d.spans, ¬ (y.1 ≤ z ∧ (z : Int) < y.1 + y.2)) → (t.clump o.clump).spad.getD z 0 = c.spad.getD z 0))) ∧
  (∀ (s : State) (k : Nat) (d : BitVec 7), OneBand s k → (∀ o ∈ s.ops, o.id < s.uid) →
    let us := (s.band s.sh.clump k).unrel
    (∀ m u x, s.active = [m] → s.sh.lanes = [m] → s.pending s.sh.clump k = [] → us.head? = some u → u.op = 0x22 →
      s.releasable s.sh.clump u = .error x → Completes (.engRelease d) s fun t =>
      Trapped s t s.sh.clump m x.cause x.addr x.detail s.sh.at_ s.sh.at_) ∧
    ((s.pending s.sh.clump k ≠ [] ∨ ∀ u ∈ us, u.op = 0x22 ∧ ∃ y, s.releasable s.sh.clump u = .ok y) →
      Completes (.engRelease d) s fun t => ActsForBand t fun v =>
      (v.band s.sh.clump k).unrel = [] ∧
      (v.band s.sh.clump k).engOut = (s.band s.sh.clump k).engOut ++ [toUniformIn s k d us.length] ∧
      (∃ new, v.ops = s.ops ++ new ∧ (new.map (·.handle)).Perm (us.map fun u => some u.handle) ∧
        ∀ o ∈ new, o.clump = s.sh.clump ∧ o.band = k ∧ o.ctx = s.ctxNo ∧ ∃ u ∈ us, o.handle = some u.handle ∧ o.scope = u.scope ∧
          (o.kind = .pend u ∨ (s.pending s.sh.clump k = [] ∧ ∃ rs, s.releasable s.sh.clump u = .ok (o.kind, rs, o.lines) ∧
            ∀ r ∈ rs, ∃ l ∈ v.locks, l.2.lo = r.lo ∧ l.2.hi = r.hi ∧ l.2.write = r.write ∧ l.2.op = o.id))) ∧
      v.mem = s.mem ∧ v.coh = s.coh ∧ ∀ c m, v.strand c m = s.strand c m) ∧
    (∀ u kind rs lines, us = [u] → u.op = 0x22 → s.pending s.sh.clump k = [] → s.releasable s.sh.clump u = .ok (kind, rs, lines) →
      Completes (.engRelease d) s fun t => ∃ o, t.ops = s.ops ++ [o] ∧ o.handle = some u.handle ∧
        o.kind = if s.lockWait (coreNo s.sh.die s.sh.core) s.ctxNo rs then .pend u else kind)) ∧
  ∀ (s : State) (c b : Nat) (o : Op) (u : Unreleased) (kind : OpKind) (rs : List RangeReq) (lines : List Nat),
    s.pending c b = [(o, u)] → u.op = 0x22 → s.releasable c u = .ok (kind, rs, lines) →
    (s.lockWait (coreNo o.die o.core) o.ctx rs = false → Completes (.engineIssueAfterLock c b) s fun t => ∃ f,
      t.ops = s.ops.filter (fun x => x.id != o.id) ++ [{ o with kind := kind, lines := lines, floor := f, time := f }] ∧
      (∀ r ∈ rs, ∃ l ∈ t.locks, l.2.lo = r.lo ∧ l.2.hi = r.hi ∧ l.2.write = r.write ∧ l.2.op = o.id) ∧
      (∀ l ∈ lines, (s.clumps.find? c).isSome → (l, o.id) ∈ (t.clump c).absent) ∧ t.mem = s.mem ∧ t.coh = s.coh) ∧
    (s.lockWait (coreNo o.die o.core) o.ctx rs = true → Completes (.engineIssueAfterLock c b) s fun t =>
      t.ops = s.ops ∧ t.locks = s.locks ∧ t.mem = s.mem ∧ t.coh = s.coh)

namespace Sys2Proof.Claims
open Sys2Proof.Machine

/-- A strand of a clump changes and no other strand and no byte of memory does. -/
structure StrandTo (s t : State) (c : Nat) (m : Lane) (x : Strand) : Prop where
  strand : t.strand c m = x
  others : ∀ c' y, (c' ≠ c ∨ y ≠ m) → t.strand c' y = s.strand c' y
  memory : SameBytes s t

/-! ### Launch and spawn -/

/-- The request of a strand (R290): its parameter pointer, its launcher's priority and node, and the nodes that wait for it. -/
def childRequest (s : State) (ptr : Nat) : ChildReq := ⟨ptr, (s.plantingOf s.sh.clump).prio, s.clp.node, s.clp.origins⟩

/-- The aggregation window that a request of the sheaf's clump joins (R291). -/
def windowFor (s : State) (id : Nat) (a : Agg) : Prop :=
  a.die = s.clp.die ∧ a.graph = (s.plantingOf s.sh.clump).graph ∧ a.launch = id

/-- The record of a strand for a bin (R294): four registers from field B on. -/
def binRecord (s : State) (m : Lane) (b : BitVec 7) : BinRec :=
  let p := s.plantingOf s.sh.clump
  { words := (List.range 4).map fun i => (s.str m).reg (b.toNat + i), prio := p.prio, graph := p.graph, node := s.clp.node
    origins := s.clp.origins }

/-- The bin that an entry of the clump's image is bound to (R294), and the entry as the graph's command has read it (R384). -/
def binFor (s : State) (e i : Nat) (b : Bin) (x : EntryRec) : Prop :=
  s.binOf s.clp.die s.clp.ctx (s.graphOf (s.plantingOf s.sh.clump)).image.addr e = some i ∧ s.bins[i]? = some b ∧
    (s.graphOf (s.plantingOf s.sh.clump)).image.entries[e]? = some x

/-- A planting of a bin's spawned bands for the records of a graph: what the graph's command has read of the entry sets it up (R295,
R384). -/
def Spawned (s : State) (b : Bin) (graph : Nat) (p : Planting) : Prop :=
  p.spawned = true ∧ p.ctx = b.ctx ∧ ∀ g x, s.graphs.find? graph = some g → g.image.entries[b.no]? = some x →
    p.kernel = { g.image.kernel x.kernel with bands := 1 } ∧ p.param = x.param ∧ p.entry = BitVec.ofNat 32 x.entry ∧
    p.handler = if x.handler % 2 ^ 32 = 0xFFFFFFFF then none else some (BitVec.ofNat 32 x.handler)

/-- A bin's records have been launched as one spawned band (R295, R388): it waits for a place on the bin's die, with one record for
each lane, in a planting of the bin's for the graph of the oldest record; the bin counts the launch, and its timer stands. -/
def Launched (s t : State) (i : Nat) (b : Bin) (rs : List BinRec) : Prop :=
  ∃ (w : Waiting) (p : Planting), t.waiting = s.waiting ++ [w] ∧ w.records = rs.map (·.words) ∧ w.die = some b.die ∧
    w.launchNo = b.launches ∧ w.saved = none ∧ (rs.head?.map (·.prio)) = some w.prio ∧ t.plantings.find? w.planting = some p ∧
    (∀ r, rs.head? = some r → Spawned s b r.graph p) ∧ w.no + 1 = p.clumps ∧ t.mem = s.mem ∧
    ∃ b', t.bins = s.bins.set i b' ∧ b'.all = b.all.drop 32 ∧ b'.launches = (b.launches + 1) % 2 ^ 32 ∧
      (b.all.length ≤ 32 → b'.timer = none)

end Sys2Proof.Claims

/-- What a parked fence waits for (R108, R113, R159): the sweeps it names and the band's queued updates; the strand's requests on the
CXL.io path, all or those for its live-in registers; the engine operations it names and their writes within the scope; or, as a release,
those, and at system scope the requests. -/
def Sys2Proof.Claims.FenceHolds (s : State) (c : Nat) (m : Lane) (fn scope : Nat) (ops : List Nat) : Prop :=
  let engines (k : Nat) : Prop := (∃ i ∈ ops, ∃ o ∈ s.ops, o.id = i) ∨ (∃ w ∈ s.late, w.clump = c ∧ w.band = m.band ∧ w.need ≤ k)
  let releases (k : Nat) : Prop := engines k ∨ (k = 6 ∧ (s.strand c m).host ≠ [])
  match fn with
  | 3 => (∃ i ∈ ops, i ∈ s.runningSweeps (s.clump c).ctx) ∨ s.bandUpdates c m.band = true
  | 5 => False
  | 6 => (s.strand c m).host ≠ []
  | 7 => stillToCome (s.strand c m) ((s.strand c m).fast.map (·.1)) = true
  | 1 => engines scope
  | 2 => releases 6
  | _ => releases scope

/-- A request on the CXL.io path is one of an atomic's, and a lower lane of the sheaf has still to update the same bytes (R107). -/
def Sys2Proof.Claims.goesAfter (s : State) (c : Nat) (m : Lane) (q : HostReq) : Prop :=
  q.group ≠ none ∧ ∃ b ∈ (s.clump c).bands, ∃ x ∈ b.strands, x.1 < m.lane ∧ ∃ y ∈ x.2.host, y.group = q.group

/-- R15, R87, R107, R110, R128, R159: a request on the CXL.io path performs on the latest bytes and is complete, an atomic's after those of the
sheaf's lower lanes at its address; what it returns goes to the
registers that no later word has written, and what was outstanding to them is dropped; a live-in register that its region has not written
has the value as its head value. A read of an update that no single request
carries takes 8 bytes at a time (notes/assumptions/29.md), and its writes follow. -/
def Sys2Proof.Claims.HostRequests : Prop :=
  ∀ (s : State) (c : Nat) (m : Lane) (i : Nat) (q : HostReq), s.Inv → s.Lists c m → m.lane < 32 →
    (s.strand c m).host[i]? = some q →
    (Claims.goesAfter s c m q → exec (.shortLatencyResultReturn c m.band (64 + m.lane) i) s = .next (s.clearMarker c m)) ∧
    (¬ Claims.goesAfter s c m q → q.pa + 16 ≤ 2 ^ 52 →
    let x := s.strand c m
    let returns (t : State) (new : List (Nat × HostAct)) (ws : List RegWrite) : Prop :=
      let y := t.strand c m
      let ws := ws.filter fun w => !q.dead.contains w.key
      let sent (r : HostReq) : Nat × HostAct := (r.pa, r.act)
      y.host.map sent = (x.host.take i).map sent ++ new ++ (x.host.drop (i + 1)).map sent ∧
      y.v = (x.applyAll ws).v ∧ y.p = x.p ∧ y.pc = x.pc ∧ y.park = x.park ∧
      y.out.flatten = x.out.flatten.filter (fun w => ws.all fun z => z.key != w.key) ∧
      (∀ (j r : Nat) (v : Word) (b : Bool), x.fast[j]? = some (r, v) → x.super[j]? = some b →
        y.fast[j]? = some (r, if b = false ∧ ∃ w ∈ ws, w.key = r then y.reg r else v)) ∧
      ∀ c' z, (c' ≠ c ∨ z ≠ m) → t.strand c' z = s.strand c' z
    let performs (P : State → Prop) : Prop := Completes (.shortLatencyResultReturn c m.band (64 + m.lane) i) s P
    let stored (t : State) (n : Nat) (b : Nat → Byte) : Prop :=
      ∀ a < 2 ^ 52, t.latest a = if q.pa ≤ a ∧ a < q.pa + n then b (a - q.pa) else s.latest a
    match q.act with
    | .read r n signed => r < 128 → n ∈ [1, 2, 4, 8] → performs fun t =>
        SameBytes s t ∧ returns t [] (loadedWords (BitVec.ofNat 7 r) n signed (s.latestNat q.pa n))
    | .write bs => 0 < bs.length → bs.length ≤ 8 → performs fun t => stored t bs.length (fun k => bs.getD k 0) ∧ returns t [] []
    | .update op d => op.n ∈ [4, 8, 16] → (∀ r ∈ d, r < 128) → performs fun t => let old := s.latestNat q.pa op.n
        stored t op.n (byteOf (op.apply old)) ∧
        returns t [] (match d with | some r => loadedWords (BitVec.ofNat 7 r) op.n false old | none => [])
    | .fetch op d got => op.n ∈ [4, 8, 16] → got.length ∈ [0, 8] → got.length < op.n → (∀ r ∈ d, r < 128) → performs fun t =>
        let k := min 8 (op.n - got.length)
        let bytes := got ++ (List.range k).map fun j => s.latest (q.pa + got.length + j)
        let old := leNat bytes
        SameBytes s t ∧ if bytes.length < op.n then returns t [(q.pa, .fetch op d bytes)] []
          else returns t ((hostSpans op.n).map fun p =>
              (q.pa + p.1, .write ((List.range p.2).map fun j => byteOf (op.apply old) (p.1 + j))))
            (match d with | some r => loadedWords (BitVec.ofNat 7 r) op.n false old | none => []))

/-- R14, R15, R19 to R22, R153, R159, R267, R276, R315, R113, R135: extension words have no effect of their own; a short-latency
result lands in its registers, and drops earlier ones to them (notes/assumptions/74.md); a trap under delivery, a parked scratchpad load, a fence, a
region-table entry and the restart of a band reach their strands; a gather window runs out after 256 issue slots. That the words of
a chain which waits for a load or a fence issue together once it is over, and the order in which results may land, are choices of
notes/assumptions/81.md, 32.md and 36.md. -/
def Sys2Proof.Claims.Resuming : Prop :=
  (∀ (s : State) (imm : BitVec 22) (g n o1 o2 : BitVec 1) (p rm sc : BitVec 3) (od ca : BitVec 2) (e f : BitVec 7) (md : BitVec 8),
    ∀ i ∈ [Instr.immext imm, .qual g n p sc od o1 o2 ca rm, .regext e f md], exec i s = .next s) ∧
  ∀ (s : State) (c : Nat) (m : Lane), s.Lists c m →
    let x := s.strand c m
    let next (f : Strand) (i : Instr) : Prop := Completes i s fun t => StrandTo s t c m f
    (∀ i ws, m.lane < 32 → x.out[i]? = some ws → Completes (.shortLatencyResultReturn c m.band m.lane i) s fun t =>
      (∀ c' y, (c' ≠ c ∨ y ≠ m) → t.strand c' y = s.strand c' y) ∧ SameBytes s t ∧
      let y := t.strand c m
      y.v = (ws.foldl Strand.apply x).v ∧ y.p = (ws.foldl Strand.apply x).p ∧ y.pc = x.pc ∧ y.park = x.park ∧
      y.out.flatten = (x.out.take i).flatten.filter (fun w => ws.all fun z => z.key != w.key) ++ (x.out.drop (i + 1)).flatten ∧
      y.marker = (x.marker && (x.loads || x.hostResults || y.out != [] || (s.band c m.band).kout.any fun w => w.lanes.contains m.lane))) ∧
    (∀ i w, (s.band c m.band).kout[i]? = some w → Sorted (s.band c m.band).k →
      Completes (.shortLatencyResultReturn c m.band 32 i) s fun t => SameBytes s t ∧
        (∀ r, (t.band c m.band).ureg r = if r = w.r then w.x else (s.band c m.band).ureg r) ∧
        (t.strand c m).v = x.v ∧ (t.strand c m).out = x.out) ∧
    (∀ z, x.trap = some z → x.park = none →
      (x.hostResults = true → exec (.trapDelivery c m.band m.lane) s = .next s) ∧
      (x.hostResults = false → Completes (.trapDelivery c m.band m.lane) s fun t =>
        TrapTaken s t c m z.cause z.addr z.detail x.pc (if z.cause = .userTrap ∨ z.cause = .breakpoint then x.redo else x.pc))) ∧
    (∀ o n r w pc, x.park = some ⟨.spad o n r, w, pc⟩ → r < 128 → 0 < n →
      (scratchAbsent (s.clump c) o n → exec (.spadParkedLoadComplete c m.band m.lane) s = .next s) ∧
      (¬ scratchAbsent (s.clump c) o n → ¬ scratchPoison (s.clump c) o n → next (resumes s c m ⟨.spad o n r, w, pc⟩
        (if pc.isSome then x.push (loadedWords (BitVec.ofNat 7 r) n false (scratchValue (s.clump c) o n))
          else { x with got := some (o, n, scratchValue (s.clump c) o n) })) (.spadParkedLoadComplete c m.band m.lane)) ∧
      (¬ scratchAbsent (s.clump c) o n → scratchPoison (s.clump c) o n → Completes (.spadParkedLoadComplete c m.band m.lane) s fun t =>
        Trapped s t c m .poison o 0 x.pc x.pc)) ∧
    (∀ fn sc ops w pc, x.park = some ⟨.fence fn sc ops, w, pc⟩ →
      (FenceHolds s c m fn sc ops → exec (.fenceComplete c m.band m.lane) s = .next s) ∧
      (¬ FenceHolds s c m fn sc ops → next (let y := resumes s c m ⟨.fence fn sc ops, w, pc⟩ x
        if pc = none ∧ fn < 4 then { y with fenced := true } else y) (.fenceComplete c m.band m.lane))) ∧
    (∀ idx w pc, x.park = some ⟨.regionMiss idx, w, pc⟩ → Completes (.regionTableFill c m.band m.lane) s fun t =>
      StrandTo s t c m (resumes s c m ⟨.regionMiss idx, w, pc⟩ x) ∧
      ((s.clump c).coreNo, (s.clump c).ctx, (s.clump c).kernel.rtab, idx) ∈ t.coh.rtabs) ∧
    (∀ succ n, (s.band c m.band).restart = some (succ, n) → (s.band c m.band).settled = true → (s.clump c).place = .resident →
      Sorted (s.band c m.band).strands → (∀ y ∈ (s.band c m.band).strands, Sorted y.2.v) → Completes (.bandRestart c m.band) s fun t => SameBytes s t ∧
        (t.band c m.band).restart = none ∧ (t.band c m.band).k = (s.band c m.band).k ∧ (t.band c m.band).ptab = [] ∧
        (x.life ≠ .restart → t.strand c m = x) ∧
        (x.life = .restart → let y := t.strand c m
          y.life = .live ∧ y.pc = succ ∧ y.p = 1 ∧ y.gap = true ∧ y.fast = [] ∧ y.ctr = 0 ∧ y.out = [] ∧ y.park = none ∧
          (y.h, y.epc, y.tinfo) = (x.h, x.epc, x.tinfo) ∧ ∀ r, y.reg r = if r < n then x.reg r else 0)) ∧
    ((s.clump c).place ≠ .resident → exec (.bandRestart c m.band) s = .next s) ∧
    (∀ h, (s.band c m.band).held = some h → Completes (.gatherWindowExpiry c m.band) s fun t => SameBytes s t ∧
      (∀ c' y, t.strand c' y = s.strand c' y) ∧
      let late := h.slot + 256 ≤ s.slotCount (s.clump c).coreNo (s.band c m.band).quad
      (t.band c m.band).held = some { h with expired := h.expired || decide late })

/-- Two statements of one subject: `Resuming` and `HostRequests`.
Their choices of the model: notes/assumptions/81.md, 32.md, 36.md; that a read of an update takes 8 bytes at a time on the CXL.io path, 29.md;
and that a landed or returned result drops the earlier ones outstanding to its registers, 74.md. -/
def Obligations.LandingAndResuming : Prop := Claims.Resuming ∧ Claims.HostRequests

/-- R290 to R292: a launch submits the strand's request to the aggregator of its die: it opens a window for its launch id or joins
the open one; an id that the image does not list, or a kernel that no core can hold, traps, and at the child limit the strand is
held. A window closes 1,024 cycles after it opened, and its requests become one planting. -/
def Sys2Proof.Claims.Launches : Prop :=
  (∀ (s : State) (m : Lane) (a b : BitVec 7), Alone s m →
    let id := ((s.bnd m).ureg a.toNat).toNat
    let r := childRequest s ((s.str m).pair b.toNat).toNat
    let image := (s.graphOf (s.plantingOf s.sh.clump)).image
    (∀ y, image.children[id]? = some y → (image.kernel y.kernel).placeable (image.kernel y.kernel).bands = true →
      (s.childrenOf s.clp.ctx < Config.maxChildren →
        ((∀ x ∈ s.aggs, ¬ windowFor s id x) → Completes (.launch a b) s fun t =>
          State.Changes { s with aggs := s.aggs ++ [⟨s.clp.die, (s.plantingOf s.sh.clump).graph, id, s.cycle, [r]⟩] } t
            fun _ z => endsRegion s z) ∧
        (∀ l x l', s.aggs = l ++ x :: l' → windowFor s id x → (∀ z ∈ l ++ l', ¬ windowFor s id z) → x.reqs.length < 255 →
          Completes (.launch a b) s fun t =>
          State.Changes { s with aggs := l ++ { x with reqs := x.reqs ++ [r] } :: l' } t fun _ z => endsRegion s z)) ∧
      (Config.maxChildren ≤ s.childrenOf s.clp.ctx → Completes (.launch a b) s fun t => Held s t m .childLimit)) ∧
    ((∀ y, image.children[id]? = some y → (image.kernel y.kernel).placeable (image.kernel y.kernel).bands = false) →
      Completes (.launch a b) s fun t => Trapped s t s.sh.clump m .launchMisuse id 0 s.sh.at_ s.sh.at_)) ∧
  ∀ (s : State) (l l' : List Agg) (a : Agg), s.aggs = l ++ a :: l' →
    let close : Instr := .aggregationWindowClose a.die (l.filter fun x => x.die == a.die).length
    (s.cycle < a.opened + 1024 → exec close s = .next s) ∧
    (∀ g y, s.graphs.find? a.graph = some g → g.image.children[a.launch]? = some y → a.opened + 1024 ≤ s.cycle → 0 < y.clumps →
      a.reqs ≠ [] → Completes close s fun t => t.aggs = l ++ l' ∧ t.mem = s.mem ∧ t.clumps = s.clumps ∧
        ∃ p, t.plantings.find? s.uid = some p ∧ p.id = (s.ctx g.ctx).nextId ∧ p.ctx = g.ctx ∧ p.kernel = g.image.kernel y.kernel ∧
          p.kids = a.reqs ∧ p.perChild = y.clumps ∧ p.clumps = a.reqs.length * y.clumps ∧
          (a.reqs.head?.map (·.prio)) = some p.prio ∧
          t.waiting = s.waiting ++ [{ planting := s.uid, no := 0, prio := p.prio, node := p.node }] ∧
          (Sorted s.ctxs → (t.ctx g.ctx).nextId = if (s.ctx g.ctx).nextId = 2 ^ 32 - 1 then 1 else (s.ctx g.ctx).nextId + 1))

/-- R294 to R296, R384: a spawn puts the strand's record into the bin of its entry, whose timer starts with its first record; the bin
launches a band of 32 records when it holds so many, and one of fewer when its timer runs out; an entry that the image does not
list, or a kernel that no core can hold, traps, and a full bin holds the strand. That the timer and the launch follow the table read
for the graph of the oldest record, and that an unplaceable kernel traps, are choices of notes/assumptions/58.md. -/
def Sys2Proof.Claims.Spawns : Prop :=
  (∀ (s : State) (m : Lane) (a b : BitVec 7), Alone s m →
    let e := ((s.bnd m).ureg a.toNat).toNat
    let r := binRecord s m b
    let kernel (y : EntryRec) : Kernel := (s.graphOf (s.plantingOf s.sh.clump)).image.kernel y.kernel
    let full (x : Bin) (y : EntryRec) : Prop := 64 ≤ x.recs.length ∧ y.spillCap ≤ x.spilled.length
    (∀ i x y, binFor s e i x y → (kernel y).placeable 1 = true →
      (x.all.length < 31 → Completes (.spawn a b) s fun t => ∃ x', x'.all = x.all ++ [r] ∧
        x' = { x with recs := x'.recs, spilled := x'.spilled, timer := if x.all = [] then some s.cycle else x.timer } ∧
        State.Changes { s with bins := s.bins.set i x' } t fun _ z => endsRegion s z) ∧
      (x.all.length = 31 → (∀ z ∈ x.plantings, ∃ p, s.plantings.find? z.2 = some p ∧ Spawned s x z.1 p) →
        Completes (.spawn a b) s fun t => Launched s t i { x with recs := x.all ++ [r], spilled := [] } (x.all ++ [r])) ∧
      (full x y → Completes (.spawn a b) s fun t => Held s t m (.spawnFull s.clp.die e))) ∧
    ((∀ i x y, binFor s e i x y → (kernel y).placeable 1 = false) → Completes (.spawn a b) s fun t =>
      Trapped s t s.sh.clump m .spawnMisuse e 0 s.sh.at_ s.sh.at_)) ∧
  ∀ (s : State) (l l' : List Bin) (x : Bin) (t0 : Nat), s.bins = l ++ x :: l' → x.timer = some t0 → x.plantings = [] →
    let run : Instr := .spawnBinTimerExpiry x.die (l.filter fun y => y.die == x.die).length
    ∀ r rs g y, x.all = r :: rs → s.graphs.find? r.graph = some g → g.image.entries[x.no]? = some y →
    let period := if y.timer = 0 then 2000 else y.timer
    (s.cycle < t0 + period → exec run s = .next s) ∧
    (t0 + period ≤ s.cycle → x.all.length ≤ 32 → Completes run s fun t => Launched s t l.length x x.all)

/-- Two statements of one subject: `Launches` and `Spawns`. Their choices of the model: notes/assumptions/58.md. -/
def Obligations.DeviceSideWork : Prop := Claims.Launches ∧ Claims.Spawns

namespace Sys2Proof.Claims
open Sys2Proof.Machine

/-- The strands that wait for a page being pulled go on, each as its park says; no other strand changes (R68). -/
def PulledOn (s t : State) : Prop :=
  ∀ c m, s.Lists c m → (∀ va w pc, (s.strand c m).park = some ⟨.migrating va, w, pc⟩ →
    t.strand c m = resumes s c m ⟨.migrating va, w, pc⟩ (s.strand c m)) ∧
    ((∀ va w pc, (s.strand c m).park ≠ some ⟨.migrating va, w, pc⟩) → t.strand c m = s.strand c m)

/-- The requests that a port can serve: they wait there, and their own bucket or that of an idle context holds a token (R101). -/
def servable (s : State) (slice : Nat) (r : PortReq) : Prop :=
  r ∈ s.coh.waiting ∧ r.slice = slice ∧ r.granted = false ∧
    (s.coh.spent.getD (16 * slice + r.ctx) 0 < s.depth r.ctx ∨
      ∃ c < 16, (16 * slice + c) ∈ s.coh.idle ∧ s.coh.spent.getD (16 * slice + c) 0 < s.depth c)

/-- The bucket that pays for a request: its own, or else that of the lowest idle context with a token. -/
def pays (s : State) (slice ctx c : Nat) : Prop :=
  if s.coh.spent.getD (16 * slice + ctx) 0 < s.depth ctx then c = ctx
  else c < 16 ∧ (16 * slice + c) ∈ s.coh.idle ∧ s.coh.spent.getD (16 * slice + c) 0 < s.depth c ∧
    ∀ d < c, ¬ ((16 * slice + d) ∈ s.coh.idle ∧ s.coh.spent.getD (16 * slice + d) 0 < s.depth d)

/-- The physical address that a host access of `n` bytes through a decoder reaches (R350): decoder 0 the shared pool, 1 the second
tier, 2 + c the channels of context c. -/
def hostReaches (s : State) (decoder offset n pa : Nat) : Prop :=
  (decoder = 0 ∧ offset + n ≤ s.ctl.setBytes 0 ∧ pa = offset) ∨
  (decoder = 1 ∧ offset + n ≤ secondEnd - secondBase ∧ pa = secondBase + offset) ∨
  (2 ≤ decoder ∧ decoder < 18 ∧ offset + n ≤ s.ctl.setBytes (decoder - 1) ∧ pa = 2 ^ 44 + (decoder - 2) * 2 ^ 40 + offset)

/-- A region that a sweep is registered on holds a part of a page at its old or its new place (R66). -/
def sweptPage (s : State) (old new size : Nat) : Prop :=
  ∃ w ∈ s.dram.sweeps, ∃ p ∈ w.pieces, ∃ b ∈ [old, new], p.1 < b + size ∧ b < p.1 + p.2

/-- A window's contributions to a location so far. -/
def partsAt (w : Window) (loc : Nat) : List (List Byte) := w.parts.getD loc []

/-- The sum of words in arrival order (R361). -/
noncomputable def arrivalSum : List (List Byte) → Word
  | [] => 0
  | b :: bs => bs.foldl (fun a x => Machine.Num.addRne a (BitVec.ofNat 32 (leNat x))) (BitVec.ofNat 32 (leNat b))

/-- Window `n` becomes `w`, and no other window and nothing else of control space changes. -/
def WindowTo (s t : State) (n : Nat) (w : Window) : Prop :=
  t.ctl = { s.ctl with windows := t.ctl.windows } ∧ t.ctl.windows.find? n = some w ∧
    ∀ k, k ≠ n → t.ctl.windows.find? k = s.ctl.windows.find? k

/-- A control-space write is refused whole, and counted in HSTAT [31:16], which saturates (R355). -/
def Refused (s t : State) : Prop :=
  t = { s with ctl := { s.ctl with hstat := min (s.ctl.hstat / 2 ^ 16 + 1) 0xFFFF * 2 ^ 16 + s.ctl.hstat % 2 ^ 16 } }

/-- WCFG may be enabled with a value (R355, R359). -/
def mayEnable (v : Nat) : Prop :=
  v % 4 ≠ 3 ∧ 2 ≤ v / 2 ^ 16 % 2 ^ 10 ∧ v / 2 ^ 16 % 2 ^ 10 ≤ 576 ∧ (v % 4 = 2 → v / 2 ^ 4 % 16 ∈ [5, 6, 8, 9, 14])

end Sys2Proof.Claims

/-- The copies that an entry of the sharer tracking covers (R97): a region entry those of the region's four lines; a cluster's filter those
of the cluster's eight cores; another die's proxy those of the die. -/
def Sys2Proof.Claims.tracks (line entry line' core : Nat) : Prop :=
  (entry = 0 ∧ line' / 4 = line / 4) ∨ (1 ≤ entry ∧ entry ≤ 112 ∧ line' = line ∧ core / 8 + 1 = entry) ∨
    (113 ≤ entry ∧ line' = line ∧ core / Config.coresPerDie + 113 = entry)

/-- R92, R97, R100, R101, R317, R350: an evicted line's times go into mts and its data is at home; an evicted filter entry's sharers
hold no copy; a bucket gains its rate; a port serves the request of the highest priority with its own token or that of the lowest
idle context, and its strand goes on, or its engine operation keeps the token; a snoop recalls or writes a host line; an error poisons what it strikes. None of them but
a snoop's write changes a byte. How an event names what it evicts, serves or strikes is a choice of notes/assumptions/73.md, 78.md and
79.md, and the price of a port request one of 24.md. -/
def Obligations.MemorySystemEvents : Prop :=
  ∀ (s : State), s.Inv →
    (∀ line, line < 2 ^ 45 → (s.coh.home.find? line).isSome →
      let pinned : Prop := ∃ p ∈ s.coh.pins, p.base ≤ 128 * line ∧ 128 * line < p.base + p.size
      let slice := s.ctl.homeSlice (128 * line)
      (pinned → exec (.l2Eviction line) s = .next s) ∧
      (¬ pinned → Sorted s.coh.mts → Completes (.l2Eviction line) s fun t => SameBytes s t ∧ t.coh.home.find? line = none ∧
        s.coh.mts.getD slice 0 ≤ t.coh.mts.getD slice 0 ∧ (∀ k, k ≠ slice → t.coh.mts.getD k 0 = s.coh.mts.getD k 0) ∧
        ∀ w < 32, ((s.recall line).homeLine line).wtsOf w ≤ t.coh.mts.getD slice 0 ∧
          ((s.recall line).homeLine line).rtsOf w ≤ t.coh.mts.getD slice 0)) ∧
    (∀ line entry, line / 4 * 4 + 3 < 2 ^ 45 → Completes (.sharerFilterEviction line entry) s fun t => SameBytes s t ∧
      ∀ line' core, line' < 2 ^ 45 → let covered : Prop := tracks line entry line' core ∧ core ∈ (s.homeLine line').sharers
        (covered → ∀ l, t.l1 core line' = some l → l.st ≠ .shared) ∧ (¬ covered → t.l1 core line' = s.l1 core line')) ∧
    (∀ slice ctx, Sorted s.coh.spent → Completes (.tokenBucketRefill slice ctx) s fun t =>
      t = { s with coh := { s.coh with spent := t.coh.spent } } ∧ ∀ k, t.coh.spent.getD k 0 =
        if k = 16 * slice + ctx then s.coh.spent.getD k 0 - (s.ctx ctx).params % 2 ^ 12 else s.coh.spent.getD k 0) ∧
    (∀ slice ctx, let waits : Prop := ∃ r ∈ s.coh.waiting, r.slice = slice ∧ r.ctx = ctx ∧ r.granted = false
      Completes (.portIdleDetect slice ctx) s fun t => t = { s with coh := { s.coh with idle := t.coh.idle } } ∧
        ∀ k, k ∈ t.coh.idle ↔ k ∈ s.coh.idle ∨ (k = 16 * slice + ctx ∧ ¬ waits)) ∧
    (∀ slice, Sorted s.coh.spent → (∀ c, Tidy (s.clump c)) →
      ((∀ r, ¬ servable s slice r) → exec (.portRequestServe slice) s = .next s) ∧
      ((∃ r, servable s slice r) → Completes (.portRequestServe slice) s fun t => ∃ r c, servable s slice r ∧
        (∀ x, servable s slice x → x.prio ≤ r.prio) ∧ pays s slice r.ctx c ∧ SameBytes s t ∧
        (∀ k, t.coh.spent.getD k 0 = if k = 16 * slice + c then s.coh.spent.getD k 0 + 1 else s.coh.spent.getD k 0) ∧
        (∀ i, r.op = some i → t.coh.waiting = s.coh.waiting.filter (· ≠ r) ∧ (∀ c' m, t.strand c' m = s.strand c' m) ∧
          let gets (p q : SMap Nat) : Prop := Sorted p →
            ∀ k, q.getD k 0 = if k = 16 * slice + r.ctx then p.getD k 0 + 1 else p.getD k 0
          (∀ o o', s.op i = some o → t.op i = some o' → o' = { o with paid := o'.paid } ∧ gets o.paid o'.paid) ∧
          t.ops.length = s.ops.length ∧ (∀ j, j ≠ i → t.op j = s.op j) ∧ t.late.length = s.late.length ∧
          ∀ (j : Nat) (w w' : LateWrite), s.late[j]? = some w → t.late[j]? = some w' → if w.id = i then w' = { w with paid := w'.paid } ∧ gets w.paid w'.paid
            else w' = w) ∧
        (r.op = none → t.coh.waiting = s.coh.waiting.map (fun x => if x = r then { r with granted := true } else x) ∧
          t.ops = s.ops ∧ t.late = s.late ∧ ∀ m, s.Lists r.clump m →
          let goesOn : Prop := m = r.lane ∨ ∀ x ∈ s.coh.waiting, x.op = none → x.clump = r.clump → x.lane ≠ m
          (∀ w pc, (s.strand r.clump m).park = some ⟨.port slice, w, pc⟩ →
            t.strand r.clump m = if goesOn then resumes s r.clump m ⟨.port slice, w, pc⟩ (s.strand r.clump m)
              else s.strand r.clump m) ∧
          ((∀ w pc, (s.strand r.clump m).park ≠ some ⟨.port slice, w, pc⟩) → t.strand r.clump m = s.strand r.clump m)))) ∧
    (∀ line bytes, s.fw.recovery = false → s.ctl.place (128 * line) = .host → bytes.length ≤ 128 →
      Completes (.hostSnoop line bytes) s fun t => (t.homeLine line).owner = none ∧ (t.homeLine line).sharers = [] ∧
        ∀ a < 2 ^ 52, t.latest a = if 128 * line ≤ a ∧ a < 128 * line + bytes.length then
          BitVec.ofNat 8 ((bytes[a - 128 * line]?).getD 0) else s.latest a) ∧
    ∀ n i,
      (Completes (.softError 0 n i) s fun t => t = { s with poison := t.poison } ∧ ∀ g, g ∈ t.poison ↔ g = n ∨ g ∈ s.poison) ∧
      (Completes (.softError 1 n i) s fun t => t = s.updClump n (fun c => { c with spadPoison := (t.clump n).spadPoison }) ∧
        ((s.clumps.find? n).isSome → ∀ l, l ∈ (t.clump n).spadPoison ↔ l = i ∨ l ∈ (s.clump n).spadPoison)) ∧
      (i / 16 < (s.clump n).bands.length → (s.clumps.find? n).isSome → Completes (.softError 2 n i) s fun t =>
        t = s.updBand n (i / 16) (fun b => { b with regPoison := (t.band n (i / 16)).regPoison }) ∧
        ∀ g, g ∈ (t.band n (i / 16)).regPoison ↔ g = i % 16 ∨ g ∈ (s.band n (i / 16)).regPoison) ∧
      ((s.clumps.find? n).isSome → Sorted (s.clump n).accs → Completes (.softError 3 n i) s fun t => SameBytes s t ∧
        (t.clump n).acc i = { (s.clump n).acc i with poison := true } ∧ ∀ k, k ≠ i → (t.clump n).acc k = (s.clump n).acc k) ∧
      (Completes (.softError 4 n i) s fun t => t = { s with dram := { s.dram with accPoison := t.dram.accPoison } } ∧
        ∀ b, b ∈ t.dram.accPoison ↔ b = n ∨ b ∈ s.dram.accPoison)

/-- An access of a context at `va` waits for a chunk of a migration (R68). -/
def Sys2Proof.Claims.awaits (s : State) (m : Migration) (chunk ctx va : Nat) : Prop :=
  ∃ base size e, s.leafFor ctx va = .leaf base size e ∧ let pa := e / 2 ^ 12 % 2 ^ 40 * 2 ^ 12 + (va - base)
    m.new ≤ pa ∧ (pa - m.new) / 4096 = chunk

/-- A chunk is the next to be pulled: an access waits for it, or it is the lowest that is left (R68). -/
def Sys2Proof.Claims.wanted (s : State) (m : Migration) (chunk : Nat) : Prop :=
  m.left.head? = some chunk ∨ (∃ o ∈ s.ops, ∃ va, o.pulling = some va ∧ awaits s m chunk o.ctx va) ∨
    ∃ c x va w pc, s.Lists c x ∧ (s.strand c x).park = some ⟨.migrating va, w, pc⟩ ∧ awaits s m chunk (s.clump c).ctx va

/-- R66, R68, R69, R128, R330, R331, R350, R358: a host access performs on the latest bytes, or is counted if it reaches no channel; a replayable
fault is posted to its context's ring, with its interrupt, unless the ring is full; a migration of a page whose leaf says so begins with
every chunk of the page to pull, or waits for the sweep of a region; a chunk that lands, an accessed one or the lowest left, holds its old
bytes, and one that cannot makes the page lost. That a request waits as an event of its own, and the fault ring as a physical address,
are choices of notes/assumptions/35.md and 46.md; that a lost page is
kept in a list, with its own bytes as they were, is one of 82.md; how the host's accesses arrive is one of 73.md and 79.md. -/
def Obligations.HostMemoryEvents : Prop :=
  ∀ (s : State), s.Inv →
    (∀ decoder offset bytes, s.fw.recovery = false →
      let n := if bytes = [] then 64 else bytes.length
      (∀ pa, hostReaches s decoder offset n pa → pa + n ≤ 2 ^ 52 → Completes (.hostCxlMemAccess decoder offset bytes) s fun t =>
        ∀ a < 2 ^ 52, t.latest a = if pa ≤ a ∧ a < pa + bytes.length then BitVec.ofNat 8 ((bytes[a - pa]?).getD 0) else s.latest a) ∧
      ((∀ pa, ¬ hostReaches s decoder offset n pa) → Completes (.hostCxlMemAccess decoder offset bytes) s fun t =>
        t = { s with ctl := { s.ctl with
          hstat := s.ctl.hstat / 2 ^ 16 * 2 ^ 16 + min (s.ctl.hstat % 2 ^ 16 + 1) 0xFFFF } })) ∧
    (∀ c l f l', s.coh.faults = l ++ f :: l' → (∀ x ∈ l, x.ctx ≠ c ∨ x.posted = true) → f.ctx = c → f.posted = false →
      (∀ x ∈ l ++ l', x ≠ f) → Sorted s.ctxs → let k := s.ctx c
      ((k.fqtail + 1) % 2 ^ k.fqcfg = k.fqhead → exec (.faultQueuePost c) s = .next s) ∧
      ((k.fqtail + 1) % 2 ^ k.fqcfg ≠ k.fqhead → let pa := k.fqbase + 32 * k.fqtail
        pa + 32 ≤ 2 ^ 52 → Completes (.faultQueuePost c) s fun t =>
          (∀ a < 2 ^ 52, t.latest a = if pa ≤ a ∧ a < pa + 32 then
              byteOf (f.va % 2 ^ 64 + f.info % 2 ^ 64 * 2 ^ 64 + f.time % 2 ^ 64 * 2 ^ 128) (a - pa) else s.latest a) ∧
          t.ctx c = { k with fqtail := (k.fqtail + 1) % 2 ^ k.fqcfg } ∧ t.irqs = s.irqs ++ [16 + 4 * c] ∧
          t.coh.faults = l ++ { f with posted := true } :: l' ∧ t.clumps = s.clumps)) ∧
    (∀ c va src base size e, s.leafFor c va = .leaf base size e → e / 2 ^ 9 % 2 = 0 → exec (.migrationRequest c va src) s = .next s) ∧
    (∀ c va src base size e, s.leafFor c va = .leaf base size e → e / 2 ^ 9 % 2 = 1 → let new := e / 2 ^ 12 % 2 ^ 40 * 2 ^ 12
      (¬ sweptPage s src new size → Completes (.migrationRequest c va src) s fun t =>
        t = { s with dram := { s.dram with migrations := s.dram.migrations ++
          [⟨new, src, size, List.range (size / 4096), c, base⟩] } }) ∧
      (sweptPage s src new size → exec (.migrationRequest c va src) s =
        .next { s with agenda := s.agenda ++ [.migrationRequest c va src] })) ∧
    ∀ l m l' chunk, s.dram.migrations = l ++ m :: l' → chunk ∈ m.left → (∀ c, Tidy (s.clump c)) →
      (¬ wanted s m chunk → ∀ ok, exec (.chunkPullLand l.length chunk ok) s = .next s) ∧
      (wanted s m chunk → ∀ ok, ok = false ∨ s.isLost (m.old + 4096 * chunk) = true →
        Completes (.chunkPullLand l.length chunk ok) s fun t => t.dram.migrations = l ++ l' ∧
          t.dram.lost = s.dram.lost ++ [(m.new, m.size)] ∧ SameBytes s t ∧ PulledOn s t) ∧
      (wanted s m chunk → s.isLost (m.old + 4096 * chunk) = false → m.new + 4096 * (chunk + 1) ≤ 2 ^ 52 → m.old + 4096 * (chunk + 1) ≤ 2 ^ 52 →
        Completes (.chunkPullLand l.length chunk true) s fun t =>
          (∀ a < 2 ^ 52, t.latest a = if m.new + 4096 * chunk ≤ a ∧ a < m.new + 4096 * (chunk + 1) then
            s.latest (m.old + (a - m.new)) else s.latest a) ∧ t.dram.lost = s.dram.lost ∧ PulledOn s t ∧
          t.dram.migrations = if ∀ k ∈ m.left, k = chunk then l ++ l'
            else l ++ { m with left := m.left.filter (· ≠ chunk) } :: l')

/-- Where a window's sum of a location is written: the word itself, or the block's result and scale (R361, R362). -/
def Sys2Proof.Claims.sumAt (w : Window) (loc a : Nat) : Prop :=
  if w.kind = 2 then w.res + 256 * loc ≤ a ∧ a < w.res + 256 * loc + 129 else w.base + 4 * loc ≤ a ∧ a < w.base + 4 * loc + 4

/-- What a contribution to a location makes of a window `w`, which becomes `w'` (R361 to R363): it waits for the others, or for the next
generation; with the last of RANKS the sum is written, in arrival order for words and exactly for blocks. -/
def Sys2Proof.Claims.Taken (s t : State) (w w' : Window) (loc : Nat) (b : List Byte) : Prop :=
  let all := partsAt w loc ++ [b]
  (loc ∈ w.full ∨ all.length < w.ranks → partsAt w' loc = all ∧ (loc ∈ w'.full ↔ loc ∈ w.full) ∧
    ∀ a < 2 ^ 52, sumAt w loc a → t.latest a = s.latest a) ∧
  (loc ∉ w.full → all.length = w.ranks → partsAt w' loc = [] ∧ loc ∈ w'.full ∧
    (w.kind = 1 → ∀ i < 4, t.latest (w.base + 4 * loc + i) = byteOf (arrivalSum all).toNat i) ∧
    (w.kind = 2 → (∀ n < 32, ∀ i < 4, t.latest (w.res + 256 * loc + 4 * n + i) =
        byteOf ((all.map (blockQ w.fmt (blocksScale w.fmt all) n)).sum % 2 ^ 32).toNat i) ∧
      t.latest (w.res + 256 * loc + 128) = BitVec.ofNat 8 (blocksScale w.fmt all)))

/-- Contributions have been taken, each to a location of its own; other locations and bytes are as they were. -/
def Sys2Proof.Claims.Contributed (s t : State) (n : Nat) (w : Window) (xs : List (Nat × List Byte)) : Prop :=
  ∃ w', WindowTo s t n w' ∧ w' = { w with parts := w'.parts, full := w'.full } ∧ (∀ x ∈ xs, Taken s t w w' x.1 x.2) ∧
    (∀ loc, (∀ x ∈ xs, x.1 ≠ loc) → partsAt w' loc = partsAt w loc ∧ (loc ∈ w'.full ↔ loc ∈ w.full)) ∧
    ∀ a < 2 ^ 52, (∀ x ∈ xs, ¬ sumAt w x.1 a) → t.latest a = s.latest a

/-- A window stands at its place in control space, and the sums of its locations lie in physical memory. -/
structure Sys2Proof.Claims.Stands (s : State) (n : Nat) (w : Window) : Prop where
  here : s.ctl.windows.find? n = some w
  parts : Sorted w.parts
  room : w.base + w.len ≤ 2 ^ 52 ∧ (w.kind = 2 → w.res + 256 * w.locations ≤ 2 ^ 52)

/-- R360, R361, R364: what reaches an enabled window that takes sums from this module: a `red.fadd` into a KIND 1 window is a contribution,
and so is each location of a copy's row, once what it moves has its tokens; any other atomic takes "policy fault". -/
def Sys2Proof.Claims.LocalContributions : Prop :=
  (∀ (s : State) (m : Lane) (d a b : BitVec 7) (pa home n : Nat) (w : Window), Alone s m → s.Inv → MayRelease s m pa →
    s.windowAt pa = some (n, w) → Stands s n w → w.kind ≠ 0 → let va := (s.opA64 m a).toNat
    (w.kind = 1 → (pa - w.base) / 4 < w.locations → Reaches s va 4 .atomic pa home → Completes (.redFadd a b) s fun t =>
      Contributed s t n w [((pa - w.base) / 4, (List.range 4).map (byteOf (s.operand m b 4)))]) ∧
    (∀ x ∈ (updates s d a b).map (fun x => (x.1, x.2.1)) ++ swaps d a b, (w.kind ≠ 1 ∨ x.1 ≠ .redFadd a b) →
      Reaches s va x.2 .atomic pa home → Completes x.1 s fun t => Trapped s t s.sh.clump m .policy va 0 s.sh.at_ s.sh.at_)) ∧
  ∀ (s : State) (i : Nat) (o : Op) (d : CopyDesc) (h compl pb n : Nat) (w : Window), s.Inv → Copying s i o d h compl → d.form = 1 →
    d.rows = 1 → d.cw = false → s.windowAt pb = some (n, w) → Stands s n w → w.kind ≠ 0 → pb % w.step = 0 → rowSize d % w.step = 0 →
    pb + rowSize d ≤ w.base + w.len → w.base % w.step = 0 →
    ∀ e base size pin, s.translate o.ctx (globalAt s o d 0) (rowSize d) .engWrite false = .ok pb e base size pin →
    (¬ HasTokens s (s.runCopy o d compl) o.ctx o.paid → Completes (.copyCompletion i) s fun t => AsksForTokens s t i) ∧
    (HasTokens s (s.runCopy o d compl) o.ctx o.paid →
    Completes (.copyCompletion i) s fun t => OpEnded t o ∧ (t.band o.clump o.band).handleStatus h = 0 ∧
      Contributed s t n w ((List.range (rowSize d / w.step)).map fun j => ((pb - w.base) / w.step + j,
        (List.range w.step).map fun k => (s.clump o.clump).spad.getD (otherAt d 0 + (w.step * j + k)) 0)))

/-- The fields of WCFG but its enable bit (R359). -/
def Sys2Proof.Claims.wcfgFields (v : Nat) : Nat := v % 4 + v / 2 ^ 4 % 16 * 2 ^ 4 + v / 2 ^ 16 % 2 ^ 10 * 2 ^ 16

/-- R355, R359 to R364: a contribution of another module to a location of an enabled window waits for the others, and with the last of them
the sum is written; to a word window such a request is an atomic on the value at home, and to a disabled window a write; with every location
summed the generation ends and DONE is written; enabling and disabling write WCFG, the one waits for the switches and the other discards
partial sums; a value that WCFG does not take is refused and counted. How another module's request names its atomic is a choice of
notes/assumptions/79.md. -/
def Sys2Proof.Claims.WindowEvents : Prop :=
  ∀ (s : State) (n : Nat), s.Inv →
    (∀ w loc bytes, Stands s n w → bytes.length = w.step → loc < w.locations →
      let dst := w.base + w.step * loc
      let run : Instr := .windowContribution n loc bytes
      (w.on = false → Completes run s fun t =>
        (∀ a < 2 ^ 52, t.latest a = if dst ≤ a ∧ a < dst + w.step then BitVec.ofNat 8 ((bytes[a - dst]?).getD 0) else s.latest a) ∧
        t.ctl = s.ctl) ∧
      (w.on = true → w.kind ≠ 0 → Completes run s fun t => Contributed s t n w [(loc, bytes.map (BitVec.ofNat 8))])) ∧
    (∀ w loc f fn u k x y, Stands s n w → loc < w.locations → w.on = true → w.kind = 0 → k ∈ [4, 8, 16] →
      [AtomFn.add, .min, .max, .and, .or, .xor, .xchg, .incw, .cas, .fadd][f]? = some fn →
      let num (z : Nat) : List Nat := (List.range k).map fun i => z / 2 ^ (8 * i) % 2 ^ 8
      let dst := w.base + 4 * loc
      let op : AtomOp := { fn := fn, n := k, unsigned := u % 2 == 1, x := x % 2 ^ (8 * k), new := y % 2 ^ (8 * k) }
      dst % k = 0 → dst + k ≤ 2 ^ 52 → Completes (.windowContribution n loc ([f, k, u] ++ num x ++ num y)) s fun t => t.ctl = s.ctl ∧
        ∀ a < 2 ^ 52, t.latest a = if dst ≤ a ∧ a < dst + k then byteOf (op.apply (s.latestNat dst k)) (a - dst) else s.latest a) ∧
    (∀ w, s.ctl.windows.find? n = some w → w.on = true → w.kind ≠ 0 → w.locations ≠ 0 →
      (w.full.length ≠ w.locations → exec (.windowGenerationEnd n) s = .next s) ∧
      (w.full.length = w.locations → w.parts = [] → w.done + 4 ≤ 2 ^ 52 → Completes (.windowGenerationEnd n) s fun t =>
        (∀ a < 2 ^ 52, t.latest a = if w.done ≤ a ∧ a < w.done + 4 then byteOf ((w.gen + 1) % 2 ^ 32) (a - w.done) else s.latest a) ∧
        WindowTo s t n { w with gen := (w.gen + 1) % 2 ^ 32, full := [] })) ∧
    (n < 64 → s.fw.recovery = false → Sorted s.ctl.windows → ∀ v, let w := s.ctl.windows.getD n {}
      let on := wcfgFields v + 2 ^ 31
      (mayEnable v → Completes (.windowEnable n v) s fun t => t = { s with ctl := t.ctl } ∧
        WindowTo s t n { w with cfg := on, pending := w.pending || !Nat.testBit w.cfg 31 }) ∧
      (¬ mayEnable v → Completes (.windowEnable n v) s fun t => Refused s t) ∧
      (Completes (.windowDisable n v) s fun t => t = { s with ctl := t.ctl } ∧
        WindowTo s t n { w with cfg := wcfgFields v, pending := false, parts := [], full := [] })) ∧
    (∀ w, s.ctl.windows.find? n = some w → Completes (.windowRegistrationComplete n) s fun t =>
      if w.pending = true then t = { s with ctl := t.ctl } ∧ WindowTo s t n { w with pending := false } else t = s)

/-- Two statements of one subject: `WindowEvents` and `LocalContributions`. Their choices of the model: notes/assumptions/79.md. -/
def Obligations.ReductionWindows : Prop := Claims.WindowEvents ∧ Claims.LocalContributions

namespace Sys2Proof.Claims
open Sys2Proof.Machine

/-- Context `c` becomes `x`, and nothing else changes. -/
def CtxTo (s t : State) (c : Nat) (x : Ctx) : Prop :=
  t = { s with ctxs := t.ctxs } ∧ t.ctx c = x ∧ ∀ k, k ≠ c → t.ctx k = s.ctx k

/-- Queue `q` becomes `x`, and nothing else changes. -/
def QueueTo (s t : State) (q : Nat) (x : SubQueue) : Prop :=
  t = { s with ctl := { s.ctl with queues := t.ctl.queues } } ∧ t.queue q = x ∧ ∀ k, k ≠ q → t.queue k = s.queue k

/-- A range that RESOLVE and INVAL take (R353, R355): base and length in 64 KiB units. -/
def goodRange (base len : Nat) : Prop := base < 2 ^ 40 ∧ len < 2 ^ 32 ∧ len ≠ 0 ∧ base + len ≤ 2 ^ 40

/-- A virtual address lies in a range of 64 KiB units. -/
def inRange (base len va : Nat) : Prop := 65536 * base ≤ va ∧ va < 65536 * (base + len)

/-- A strand is parked on a replayable fault in a range. -/
def faultedIn (x : Strand) (base len va k : Nat) : Prop :=
  (∃ w pc, x.park = some ⟨.xlate va k, w, pc⟩) ∧ inRange base len va

/-- A mode-switch command of a context is under way (R322). -/
def switching (s : State) (c : Nat) : Prop :=
  ∃ x ∈ s.ctl.queues, x.2.cfg / 2 ^ 8 % 16 = c ∧ ∃ j w ws p, x.2.cmd = some (j, w :: ws, p) ∧ w.toNat % 256 = 3

/-- The entries that bring a context's saved clumps back, a thicket with its leader, if that has not ended (R259, R327). -/
def comingBack (s : State) (c : Nat) : List Waiting :=
  let led (k : Clump) : Bool := decide (k.thicket = 2) && k.peer.any fun p => (s.clumps.find? p).isSome
  (s.clumps.filter fun x => decide (x.2.ctx = c) && decide (x.2.place = .saved) && !led x.2).map fun x =>
    { planting := x.2.planting, no := x.2.no, prio := (s.plantings.getD x.2.planting {}).prio, saved := some x.1 }

/-- A context comes back (R327). -/
def Resumed (s t : State) (c : Nat) : Prop :=
  t.ctx c = { s.ctx c with away := false, stopping := none, faulted := none, record := none } ∧
    t.waiting = comingBack s c ++ s.waiting ∧ t.clumps = s.clumps ∧ t.mem = s.mem

/-- The 64-bit registers of a context's block that software writes whole (R353). -/
def ctxRegisters : List (Nat × (Ctx → Nat)) :=
  [(0x008, Ctx.root), (0x010, Ctx.save), (0x018, Ctx.snap), (0x020, Ctx.fqbase)]

/-- The ownership that a table gives a channel is one that a change can make (R356): no code beyond 16, and sets of 0 or a power of
two channels. -/
def legalTable (t : SMap Nat) : Prop :=
  ∀ code ≤ 16, let n := ((List.range 256).filter fun g => t.getD g 0 = code).length
    n = 0 ∨ ∃ k, n = 2 ^ k

/-- The sets whose members a table changes (R356). -/
def setChanges (s : State) (t : SMap Nat) (code : Nat) : Prop :=
  code ≤ 16 ∧ ∃ g < 256, (s.ctl.owner.getD g 0 = code) ≠ (t.getD g 0 = code)

/-- A context is idle (R353): no resident clump and no engine operation. -/
def isIdle (s : State) (c : Nat) : Prop :=
  (∀ x ∈ s.clumps, x.2.ctx = c → x.2.place ≠ .resident) ∧ ∀ o ∈ s.ops, o.ctx ≠ c

/-- A change concerns a context: its own set changes, or the shared pool, while the context maps it (R356). -/
def concerned (s : State) (t : SMap Nat) (c : Nat) : Prop :=
  setChanges s t (c + 1) ∨ (setChanges s t 0 ∧ s.mapsPool c = true)

/-- Every context that a change concerns is idle. -/
def quietFor (s : State) (t : SMap Nat) : Prop := ∀ c < 16, concerned s t c → isIdle s c

/-- A physical address lies in the window of a set whose members a change moves, before or after it. -/
def movedAt (s : State) (t : SMap Nat) (a : Nat) : Prop :=
  ∃ code, setChanges s t code ∧ ∃ c ∈ [s.ctl, { s.ctl with owner := t }], setBase code ≤ a ∧ a < setBase code + c.setBytes code

/-! ### Pre-emption -/

/-- What a strand's rollback leaves (R157, R319): outside the gap it stands at its head with its live-in registers as they were
there and its counter; a barrier's waiter keeps its token and goes on past the word; a yield has performed; in the gap the word
it is parked on issues again, or, while it runs its handler and no word has ended its region since it entered it, the handler from its entry.
A strand pending restart keeps its registers. A WAIT or `sleep` that issues again returns its spurious status. -/
structure RolledBack (handler : Option Word) (x y : Strand) : Prop where
  life : y.life = x.life
  marker : y.marker = false ∧ y.trap = none ∧ y.aborted = [] ∧ y.overruled = false
  state : (y.h, y.epc, y.tinfo, y.detail) = (x.h, x.epc, x.tinfo, x.detail)
  predicates : (∀ p, x.park = some p → x.gap = true → p.next ≠ some x.redo) → y.p = x.p
  restart : x.life = .restart → y.park = none ∧ y.gap = true ∧ y.v = x.v
  barrier : x.life = .live → ∀ n tok w pc, x.park = some ⟨.barrier n tok, w, pc⟩ → y.park = x.park ∧ y.gap = true ∧ y.v = x.v
  yields : x.life = .live → ∀ n w pc, x.park = some ⟨.yield n, w, some pc⟩ → y.park = none ∧ y.gap = true ∧ y.v = x.v ∧
    y.stay = true ∧ y.pc = pc
  spurious : x.life = .live → ∀ p, x.park = some p → ((∃ i, p.on = .wait i) ∨ ∃ n d, p.on = .sleep n d) →
    (x.gap = true → p.next ≠ some x.redo) → y.spurious = some p.word
  gap : x.life = .live → x.gap = true → (∀ p, x.park = some p → (∀ n tok, p.on ≠ .barrier n tok) ∧ ∀ n, p.on ≠ .yield n) →
    y.park = none ∧ y.v = x.v ∧ y.ctr = x.ctr ∧ let pc := (match x.park with
      | some p => if p.next.isSome then x.redo else x.pc
      | none => x.pc)
    y.pc = if x.h = true ∧ x.stay = false then handler.getD pc else pc
  head : x.life = .live → x.gap = false → (∀ p, x.park = some p → (∀ n tok, p.on ≠ .barrier n tok) ∧ ∀ n, p.on ≠ .yield n) →
    (x.fast.map (·.1)).Nodup → y.park = none ∧ y.pc = x.head ∧ y.ctr = x.headCtr ∧ (∀ z ∈ x.fast, y.reg z.1 = z.2) ∧
      (127 ∉ x.fast.map (·.1) → y.reg 127 = x.reg 127) ∧ (∀ r, r ≠ 127 → r ∉ x.fast.map (·.1) → y.reg r = 0)

/-- The number that the first 40 bytes of a save area hold (R323); the rest of its 256 bytes are zero. -/
def saveHead (c reason n : Nat) (x : Ctx) (ltime : Nat) : Nat :=
  1 + c % 2 ^ 32 * 2 ^ 32 + reason % 4 * 2 ^ 64 + n % 2 ^ 32 * 2 ^ 96 + ltime % 2 ^ 64 * 2 ^ 128 + x.params % 2 ^ 64 * 2 ^ 192 +
    x.budget % 2 ^ 64 * 2 ^ 256

end Sys2Proof.Claims

/-- R281, R300, R316, R318, R322, R327, R332, R333, R352 to R355: what the host's writes to control space do: doorbells and counts,
registers of a context, requests to pre-empt, resume, discard and debug a context, answers to faults and invalidations; a value
that a register does not take is refused whole and counted, and reserved offsets and bits ignore writes. Which bytes of a register a
short write keeps, and what a discard drops, are choices of notes/assumptions/12.md, 14.md, 22.md and 68.md. -/
def Obligations.ControlSpace : Prop :=
  ∀ (s : State), s.fw.recovery = false → Sorted s.ctxs → (∀ y ∈ s.ctxs, y.2 ≠ {}) → Sorted s.ctl.queues →
    (∀ q v, q < 256 → v < 2 ^ 16 → let x := s.queue q
      (v < 2 ^ (x.cfg % 32) → Completes (.sqtailDoorbell q v) s fun t => QueueTo s t q { x with tail := v }) ∧
      (2 ^ (x.cfg % 32) ≤ v → Completes (.sqtailDoorbell q v) s fun t => Refused s t) ∧
      Completes (.sqrefClear q v) s fun t => QueueTo s t q { x with ref := x.ref &&& (0xFFFF - v) }) ∧
    (∀ v < 2 ^ 32, Completes (.hstatClear v) s fun t => t = { s with ctl := { s.ctl with hstat :=
      (if v / 2 ^ 16 = 0 then s.ctl.hstat / 2 ^ 16 * 2 ^ 16 else 0) + if v % 2 ^ 16 = 0 then s.ctl.hstat % 2 ^ 16 else 0 } }) ∧
    (∀ c < 16, let x := s.ctx c
      let block := 0x100000 + 0x1000 * c
      (Completes (.cctlDebugEnable c) s fun t => CtxTo s t c { x with debug := true }) ∧
      (Completes (.cctlDebugDisable c) s fun t => CtxTo s t c { x with debug := false }) ∧
      (x.away = true → exec (.cctlPreempt c) s = .next s) ∧
      (x.away = false → ¬ switching s c → Completes (.cctlPreempt c) s fun t =>
        CtxTo s t c { x with stopping := some (x.stopping.getD 3) }) ∧
      (x.away = false → switching s c → Completes (.cctlPreempt c) s fun t =>
        CtxTo s t c { x with modeSwitch := some (x.modeSwitch.getD 3) }) ∧
      (x.away = true → x.broke = false → s.fw.hot = false → Completes (.cctlResume c) s fun t => Resumed s t c) ∧
      (x.away = false ∨ x.broke = true ∨ s.fw.hot = true → exec (.cctlResume c) s = .next s) ∧
      (s.Inv → Completes (.cctlDiscard c) s fun t => SameBytes s t ∧
        ((∀ o ∈ s.ops, ∀ w left, o.kind ≠ .queue w left) →
          (∀ y, y ∈ t.clumps ↔ y ∈ s.clumps ∧ y.2.ctx ≠ c) ∧ ∀ o, o ∈ t.ops ↔ o ∈ s.ops ∧ o.ctx ≠ c) ∧
        (∀ y ∈ t.clumps, y.2.ctx ≠ c) ∧ (∀ o ∈ t.ops, o.ctx ≠ c) ∧
        (∀ o ∈ s.ops, o.ctx ≠ c → (∀ o' ∈ s.ops, o'.id = o.id → ∀ w left, o'.kind ≠ .queue w left) → o ∈ t.ops) ∧
        (∀ y, y ∈ t.plantings ↔ y ∈ s.plantings ∧ y.2.ctx ≠ c) ∧ (∀ y, y ∈ t.graphs ↔ y ∈ s.graphs ∧ y.2.ctx ≠ c) ∧
        (∀ w, w ∈ t.late ↔ w ∈ s.late ∧ w.ctx ≠ c) ∧
        (∀ x ∈ t.dram.deltas, ∀ u ∈ x.2, u.ctx ≠ c) ∧ (∀ b, b ∈ t.bins ↔ b ∈ s.bins ∧ b.ctx ≠ c) ∧
        (∀ p, p ∈ t.coh.pins ↔ p ∈ s.coh.pins ∧ p.ctx ≠ c) ∧ (∀ l ∈ t.coh.l1, l.2.ctx ≠ c) ∧
        (t.ctx c).stopping = none ∧ (t.ctx c).away = s.fw.hot) ∧
      (∀ r ∈ ctxRegisters, ∀ v < 2 ^ 64, Completes (.controlSpaceWrite (block + r.1) 8 v) s fun t =>
        t = { s with ctxs := t.ctxs } ∧ r.2 (t.ctx c) = (if r.1 = 0x008 then v % 2 + v / 2 ^ 12 % 2 ^ 40 * 2 ^ 12 else v) ∧ (∀ r' ∈ ctxRegisters, r'.1 ≠ r.1 → r'.2 (t.ctx c) = r'.2 x) ∧
        (t.ctx c).params = x.params ∧ ∀ k, k ≠ c → t.ctx k = s.ctx k) ∧
      (∀ v < 2 ^ 64, let lease := v / 2 ^ 32 % 2 ^ 10
        let good : Prop := (lease = 0 ∨ 16 ≤ lease) ∧ v / 2 ^ 16 % 2 ^ 12 ≠ 0 ∧ v % 2 ^ 12 ≤ 2048 ∧ v / 2 ^ 42 = 0 ∧
          v / 2 ^ 28 % 8 = 0 ∧ v / 2 ^ 12 % 16 = 0
        (good → Completes (.controlSpaceWrite block 8 v) s fun t => CtxTo s t c { x with params := v }) ∧
        (¬ good → Completes (.controlSpaceWrite block 8 v) s fun t => Refused s t)) ∧
      (∀ base len, goodRange base len → (∀ k, Tidy (s.clump k)) → Sorted s.clumps →
        (∀ f, ∀ i ∈ [Instr.resolveRetry c base len, .resolveAbort c base len], Completes i s fun t =>
          (f ∈ t.coh.faults ↔ f ∈ s.coh.faults ∧ ¬ (f.ctx = c ∧ f.base < 65536 * (base + len) ∧ 65536 * base < f.base + f.size)) ∧
          t.mem = s.mem) ∧
        (∀ k m, s.Lists k m → (s.clump k).ctx = c → ∀ va a, faultedIn (s.strand k m) base len va a → ∀ p,
          (s.strand k m).park = some p → s.ops = [] →
          (Completes (.resolveRetry c base len) s fun t => t.strand k m = resumes s k m p (s.strand k m)) ∧
          (a < 8 → Completes (.resolveAbort c base len) s fun t => t.strand k m =
            { s.strand k m with park := none, trap := some ⟨.translationAbort, va % 2 ^ 56, 0⟩ }) ∧
          (8 ≤ a → Completes (.resolveAbort c base len) s fun t => t.strand k m =
            resumes s k m p { s.strand k m with aborted := (s.strand k m).aborted ++ if va ∈ (s.strand k m).aborted then [] else [va] })) ∧
        Completes (.invalRequest c base len) s fun t =>
          t = { s with coh := { s.coh with invals := s.coh.invals ++ [(c, 65536 * base, 65536 * len)] } }) ∧
      (∀ base len, base < 2 ^ 40 → len < 2 ^ 32 → ¬ goodRange base len →
        ∀ i ∈ [Instr.resolveRetry c base len, .resolveAbort c base len, .invalRequest c base len], Completes i s fun t => Refused s t) ∧
      (s.usesOld c = true → exec (.invalidationComplete c) s = .next s) ∧
      (s.usesOld c = false → Completes (.invalidationComplete c) s fun t => t.mem = s.mem ∧ t.clumps = s.clumps ∧
        (∀ y, y ∈ t.coh.invals ↔ y ∈ s.coh.invals ∧ y.1 ≠ c) ∧
        ∀ y, y ∈ t.coh.tlb ↔ y ∈ s.coh.tlb ∧
          ¬ (y.ctx = c ∧ ∃ r ∈ s.coh.invals, r.1 = c ∧ y.va < r.2.1 + r.2.2 ∧ r.2.1 < y.va + y.size))) ∧
    (∀ g v, g < 256 → v < 256 → Sorted s.ctl.chown → (∀ x ∈ s.ctl.chown, x.2 < 256) →
      Completes (.controlSpaceWrite (0x100 + g) 1 v) s fun t => t = { s with ctl := { s.ctl with chown := t.ctl.chown } } ∧
        ∀ k < 256, t.ctl.chown.getD k 0 = if k = g then v else s.ctl.chown.getD k 0) ∧
    ∀ off v, off % 4 = 0 → off ∈ [0x0000, 0x0008, 0x000C, 0x0010, 0x0204, 0x0300, 0x0708, 0x20000, 0x110000, 0x800000] →
      exec (.controlSpaceWrite off 4 v) s = .next s

/-- R53 to R55, R76, R355, R356: writing 1 to CHCMD refuses a table with a reserved code or a set whose size is no power of two,
waits for the contexts concerned, or begins; while CHST reads 1 the write is refused whole, with what it covers of CHOWN; when it is through, the ownership is that of the table, and every byte of the sets
that changed is zero, with their tables and accumulators; no other byte changes. Which contexts map the shared pool is read from their
tables as notes/assumptions/13.md says, and that memory reads zero all at once is a choice of 64.md. -/
def Obligations.ChannelOwnership : Prop :=
  ∀ (s : State), s.fw.recovery = false → let t0 := s.ctl.chown
    let set (t : State) (st : Nat) (c : Option (SMap Nat × Nat)) : Prop := t = { s with ctl := { s.ctl with chst := st, change := c } }
    (s.ctl.chst = 1 → Completes (.chcmdApply 1) s (Refused s) ∧
      ∀ v < 2 ^ 64, v / 2 ^ 32 % 2 = 1 → Completes (.controlSpaceWrite 0x1FC 8 v) s (Refused s)) ∧
    (s.ctl.chst ≠ 1 → (∀ x ∈ t0, x.2 < 17) →
      (¬ legalTable t0 → Completes (.chcmdApply 1) s fun t => set t 2 none) ∧
      (legalTable t0 → quietFor s t0 → Completes (.chcmdApply 1) s fun t => set t 1 (some (t0, 3))) ∧
      (legalTable t0 → ¬ quietFor s t0 → Completes (.chcmdApply 1) s fun t => set t 3 (some (t0, 2)))) ∧
    (s.ctl.chst ≠ 1 → (∃ x ∈ t0, 17 ≤ x.2) → Completes (.chcmdApply 1) s fun t => ∃ u, set u 2 none ∧ Refused u t) ∧
    (∀ c, s.ctl.change = some (c, 2) →
      (quietFor s c → Completes .channelChangeProceed s fun t => set t 1 (some (c, 3))) ∧
      (¬ quietFor s c → exec .channelChangeProceed s = .next s)) ∧
    ∀ c, s.ctl.change = some (c, 3) → s.Inv → Completes .channelZeroingComplete s fun t =>
      t.ctl = { s.ctl with owner := c, chst := 0, change := none } ∧
      (∀ a < 2 ^ 52, (movedAt s c a → t.latest a = 0) ∧ (¬ movedAt s c a → t.latest a = s.latest a)) ∧
      (∀ x ∈ t.dram.acc, ¬ ∃ code, setChanges s c code ∧
        (s.ctl.owner.getD (x.1 / 32768) 0 = code ∨ c.getD (x.1 / 32768) 0 = code)) ∧
      ∀ e ∈ t.coh.tlb, e.ctx < 16 → ¬ concerned s c e.ctx

/-- R157, R316, R318, R319, R321, R323: a pre-empted context whose clumps have settled is put away: its clumps are saved with their
strands rolled back, its save area's header is written, and after a context fault its record, with an interrupt; a pre-emption for
higher priority asks for one only where that work fits nowhere; a clump that has not drained in 2^20 cycles is saved by rollback. When a
clump counts as settled, where a strand in a chain goes back to, and who outranks whom are choices of notes/assumptions/47.md, 59.md,
65.md and 66.md; that SAVE and SNAP hold physical addresses is one of 46.md. -/
def Obligations.Preemptions : Prop :=
  (∀ (x : Strand) handler pred, RolledBack handler x (x.rollBack handler pred)) ∧
  ∀ (s : State) (c : Nat), s.Inv → Sorted s.ctxs → s.sheaf = none → let x := s.ctx c
    (x.stopping = none → s.outranked c = false → exec (.preemption c) s = .next s) ∧
    (x.stopping = none → s.outranked c = true → x.away = false → ¬ switching s c → Completes (.preemption c) s fun t =>
      CtxTo s t c { x with stopping := some 0 }) ∧
    (∀ r, x.stopping = some r → (∀ y ∈ s.clumps, y.2.ctx ≠ c) → x.save + 256 ≤ 2 ^ 52 →
      let saved (a : Nat) : Byte :=
        if x.save ≤ a ∧ a < x.save + 256 then byteOf (saveHead c r 0 x x.ltime) (a - x.save) else s.latest a
      (r = 3 → x.record = none → Completes (.preemption c) s fun t => t.clumps = s.clumps ∧
        t.ctx c = { x with away := true, stopping := none } ∧ ∀ a < 2 ^ 52, t.latest a = saved a) ∧
      (∀ w0 w1 w2 w3, r = 2 → x.record = some (w0, w1, w2, w3) → x.snap + 64 ≤ 2 ^ 52 → Completes (.preemption c) s fun t =>
        t.ctx c = { x with away := true, stopping := none, record := none } ∧ t.irqs = s.irqs ++ [16 + 4 * c + 2] ∧
        ∀ a < 2 ^ 52, t.latest a = if x.snap ≤ a ∧ a < x.snap + 64 then byteOf (w0 % 2 ^ 64 + w1 % 2 ^ 64 * 2 ^ 64 +
          w2 % 2 ^ 64 * 2 ^ 128 + w3 % 2 ^ 64 * 2 ^ 192 + s.time % 2 ^ 64 * 2 ^ 256) (a - x.snap) else saved a)) ∧
    (∀ k, x.stopping = some 3 → x.record = none → (∀ y ∈ s.clumps, y.2.ctx = c ↔ y.1 = k) → (s.clumps.find? k).isSome →
      Sorted s.clumps → (s.clump k).record = none → s.clumpSettled k = true → (s.clump k).kernel.drain = false → (s.clump k).place = .resident →
      (∀ b ∈ (s.clump k).bands, b.tape.mode = 0) → let kn := (s.clump k).kernel
      (kn.spad ≤ 2 ^ 18 ∧ kn.resv ≤ 2 ^ 17 ∧ kn.acc ≤ 4 ∧ kn.slots ≤ 2 ∧ kn.regs ≤ 128) → (s.clump k).bands.length ≤ 64 → x.save + 2 ^ 40 ≤ 2 ^ 52 → Completes (.preemption c) s fun t =>
        (t.clump k).place = .saved ∧ (t.ctx c).away = true ∧ (t.ctx c).stopping = none ∧ (∀ o ∈ t.ops, o.clump ≠ k) ∧
        (∀ m, s.Lists k m → RolledBack (s.plantingOf k).handler (s.strand k m) (t.strand k m)) ∧
        (∀ i < 16, t.latest (x.save + i) = byteOf (saveHead c 3 1 x 0) i) ∧
        ∀ a < x.save, t.latest a = s.latest a) ∧
    ∀ k n, (s.clump k).draining = some n → Completes (.drainFallbackTimeout k) s fun t => SameBytes s t ∧
      t.clump k = if n + 2 ^ 20 ≤ s.cycle ∧ (s.clump k).drainedTo (s.drainTable (s.clump k)) = false ∧ (s.clumps.find? k).isSome
        then { s.clump k with fallback := true } else s.clump k

namespace Sys2Proof.Claims
open Sys2Proof.Machine

/-! ### Commands (R281 to R283, R369, R386) -/

/-- An aligned access of the command processor reaches memory: its translation, in the tables of the context, succeeds. -/
def CpReaches (s : State) (ctx va n : Nat) (k : Kind) (pa : Nat) : Prop :=
  va % n = 0 ∧ va < 2 ^ 64 ∧ pa + n ≤ 2 ^ 52 ∧ ∃ e base size pin, s.translate ctx va n k false = .ok pa e base size pin

/-- An aligned access of the command processor meets a replayable fault, or is refused without replay. -/
def CpAbsent (s : State) (ctx va n : Nat) (k : Kind) : Prop :=
  va % n = 0 ∧ va < 2 ^ 64 ∧ ∃ level pte base size, s.translate ctx va n k false = .absent level pte base size
def CpRefused (s : State) (ctx va n : Nat) (k : Kind) : Prop :=
  va % n = 0 ∧ va < 2 ^ 64 ∧ ∃ c, s.translate ctx va n k false = .bad c

/-- A command's words, from the bytes of its ring entry, and the number in words `i` and `i + 1`. -/
def ringWords (x : Nat) : List Word := (List.range 16).map fun i => BitVec.ofNat 32 (x / 2 ^ (32 * i))
def wordOf (w : List Word) (i : Nat) : Nat := ((w[i]?).getD 0).toNat
def pairOf (w : List Word) (i : Nat) : Nat := wordOf w i + wordOf w (i + 1) * 2 ^ 32

/-- A context parameter word that R355 takes. -/
def goodParams (v : Nat) : Prop :=
  (v / 2 ^ 32 % 2 ^ 10 = 0 ∨ 16 ≤ v / 2 ^ 32 % 2 ^ 10) ∧ v / 2 ^ 16 % 2 ^ 12 ≠ 0 ∧ v % 2 ^ 12 ≤ 2048 ∧ v / 2 ^ 42 = 0 ∧
    v / 2 ^ 28 % 8 = 0 ∧ v / 2 ^ 12 % 16 = 0

/-- A command that is refused as it stands (R283): a reserved opcode or field, or a mode switch with a parameter word that R355
refuses. -/
def badCommand (w : List Word) : Prop :=
  4 < wordOf w 0 % 2 ^ 8 ∨ wordOf w 0 / 2 ^ 9 ≠ 0 ∨ (∃ i ∈ [13, 14, 15], wordOf w i ≠ 0) ∨
    (wordOf w 0 % 2 ^ 8 = 3 ∧ ¬ goodParams (pairOf w 8))

/-- A queue and a journal entry become `x` and `e`; no other queue or entry changes. -/
structure QueueStep (s t : State) (q : Nat) (x : SubQueue) (j : Nat) (e : JEntry) : Prop where
  queue : t.queue q = x
  queues : ∀ k, k ≠ q → t.queue k = s.queue k
  entry : t.journal.getD j {} = e
  entries : ∀ k, k ≠ j → t.journal.getD k {} = s.journal.getD k {}

/-- Nothing changes but submission queues and the journal. -/
def OnlyQueues (s t : State) : Prop :=
  t = { s with ctl := { s.ctl with queues := t.ctl.queues }, journal := t.journal, jcount := t.jcount }

/-- A command of a queue moves on: its journal entry's state becomes `st` (R369), and it is at phase `ph`. -/
def Runs (s t : State) (q j : Nat) (w : List Word) (ph st : Nat) : Prop :=
  QueueStep s t q { s.queue q with cmd := some (j, w, ph), aborted := false } j
    { s.journal.getD j {} with state := st, tdone := if st = 4 then s.time else (s.journal.getD j {}).tdone }

/-- A context's budget has just reached zero, and nothing stops the context yet: before a new one is supplied it is stopped, with its
snapshot and interrupt (R301; notes/assumptions/60.md). -/
abbrev Spent (c : Ctx) : Prop := c.budget = 0 ∧ c.broke = false ∧ c.away = false ∧ c.stopping = none

/-- The spawn entries of an image at `a` that no command of a context has bound yet (R294). -/
def unbound (s : State) (ctx a n : Nat) : List Nat :=
  (List.range n).filter fun e => !s.bins.any fun b => b.ctx == ctx && b.image == a && b.no == e

/-- A queue has a command of one opcode at a phase, and waits for no fault. -/
def HasCommand (s : State) (q j opc : Nat) (w : List Word) (ph : Nat) : Prop :=
  (s.queue q).cmd = some (j, w, ph) ∧ (s.queue q).fault = none ∧ (s.queue q).aborted = false ∧ wordOf w 0 % 2 ^ 8 = opc

/-- A command is closed: it leaves its queue, which counts refusals, is journalled, and its interrupt is raised if asked for. -/
def Closed (s t : State) (q j : Nat) (w : List Word) (refused : Bool) : Prop :=
  let x := s.queue q
  let e := s.journal.getD j {}
  QueueStep s t q { x with cmd := none, aborted := false, ref := if refused then min (x.ref + 1) 0xFFFF else x.ref } j
      (if refused then { e with state := 4, tdone := if e.state = 4 then e.tdone else s.time } else { e with state := 3, tdone := s.time }) ∧
    t.irqs = s.irqs ++ (if Nat.testBit (wordOf w 0) 8 then [16 + 4 * x.ctx + 3] else [])

/-- Four bytes at an address hold a word, and every other byte is as it was. -/
def WordStored (s t : State) (pa x : Nat) : Prop :=
  ∀ a < 2 ^ 52, t.latest a = if pa ≤ a ∧ a < pa + 4 then byteOf x (a - pa) else s.latest a

/-! ### Graphs (R284 to R286, R383, R388) -/

/-- An edge's test holds of a result word (R285). -/
def taken (e : Edge) (r : Nat) : Prop :=
  match e.test with
  | 0 => True
  | 1 => r = e.c
  | 2 => r ≠ e.c
  | 3 => r < e.c
  | 4 => e.c ≤ r
  | 5 => r &&& e.c ≠ 0
  | 6 => r &&& e.c = 0
  | _ => False

/-- The state of a node, and whether it has completed or been skipped. -/
def nodeAt (g : Graph) (n : Nat) : NodeState := (g.states[n]?).getD .skipped
def isOver (g : Graph) (n : Nat) : Prop := nodeAt g n = .done ∨ nodeAt g n = .skipped

/-- What a graph's walk leaves once node `m` has completed with a result (R284): nodes that had been decided stay as they were; a
waiting node whose sources are all over runs if some edge to it is taken, and is skipped if none is. -/
structure Walked (g h : Graph) (m r : Nat) : Prop where
  image : h.image = g.image ∧ h.queue = g.queue ∧ h.ctx = g.ctx ∧ h.prio = g.prio
  results : h.results = g.results.set m r
  length : h.states.length = g.states.length
  done : nodeAt h m = .done
  decided : ∀ n, n ≠ m → nodeAt g n ≠ .waiting → nodeAt h n = nodeAt g n
  waiting : ∀ n, nodeAt g n = .waiting → let ins := g.image.edges.filter fun e => e.dst == n
    ((∃ e ∈ ins, ¬ isOver h e.src) → nodeAt h n = .waiting) ∧
    ((∀ e ∈ ins, isOver h e.src) → (ins = [] ∨ ∃ e ∈ ins, nodeAt h e.src = .done ∧ taken e ((h.results[e.src]?).getD 0)) →
      nodeAt h n = .running) ∧
    ((∀ e ∈ ins, isOver h e.src) → ins ≠ [] → (∀ e ∈ ins, nodeAt h e.src = .done → ¬ taken e ((h.results[e.src]?).getD 0)) →
      nodeAt h n = .skipped)

/-- A node has started (R284, R287, R288): its planting is in the state, under an id of its context, and waits for its place. -/
def NodeStarted (t : State) (gid n : Nat) (g : Graph) : Prop :=
  ∃ pn p, ∃ r : NodeRec, t.plantings.find? pn = some p ∧ g.image.nodes[n]? = some r ∧ p.graph = gid ∧ p.node = n ∧ p.ctx = g.ctx ∧
    p.prio = g.prio ∧ some p.kernel = g.image.kernels[r.kernel]? ∧ p.clumps = r.clumps ∧ p.param = r.param ∧ p.s0 = r.s0 ∧
    p.s1 = r.s1 ∧ p.result = none ∧ (p.handler = none ↔ r.handler % 2 ^ 32 = 0xFFFFFFFF) ∧
    (r.clumps ≠ 0 → { planting := pn, no := 0, prio := g.prio, node := n } ∈ t.waiting)

/-- Work of a node is left (R286): its own clumps, or anything launched or spawned from it. -/
def workLeft (s : State) (gid n : Nat) : Prop :=
  (∃ x ∈ s.plantings, x.2.graph = gid ∧ x.2.node = n ∧ x.2.kids = [] ∧ x.2.spawned = false ∧ x.2.ended < x.2.clumps) ∨
  (∃ c ∈ s.clumps, (gid, n) ∈ c.2.origins) ∨ (∃ a ∈ s.aggs, ∃ r ∈ a.reqs, (gid, n) ∈ r.origins) ∨
  (∃ b ∈ s.bins, ∃ r ∈ b.recs ++ b.spilled, (gid, n) ∈ r.origins) ∨
  ∃ w ∈ s.waiting, (gid, n) ∈ w.origins ∨ (w.saved = none ∧
    ∃ k ∈ (s.plantings.getD w.planting {}).kids.drop (w.no / (s.plantings.getD w.planting {}).perChild), (gid, n) ∈ k.origins)

/-- A node's own planting. -/
def OwnPlanting (gid n : Nat) (p : Planting) : Prop := p.graph = gid ∧ p.node = n ∧ p.kids = [] ∧ p.spawned = false

/-- A node has incoming edges. -/
def hasSource (x : Image) (n : Nat) : Prop := ∃ e ∈ x.edges, e.dst = n

/-- A graph command's nodes have all completed or been skipped: the graph leaves the state, and its command is done (R283). -/
def GraphEnded (s t : State) (gid q : Nat) : Prop :=
  t.graphs.find? gid = none ∧ (∀ j w p, (s.queue q).cmd = some (j, w, p) → (t.queue q).cmd = some (j, w, 2)) ∧
    ∀ k, k ≠ gid → t.graphs.find? k = s.graphs.find? k

end Sys2Proof.Claims

/-- R281 to R283, R369, R386: an enabled queue whose last command has completed accepts the entry at SQHEAD once the journal has a
slot: it is read at that moment, journalled, and refused if it is ill-formed; nop is done at once; signal writes a word; a mode
switch loads parameters and budget; wait value holds the queue until a word reaches a value. A command that has had its effect is
completed with COMPV at COMPL and its interrupt. Which bad addresses refuse a command, and how a supplied budget meets one that has run
out, are choices of notes/assumptions/60.md and 61.md. -/
def Obligations.Commands : Prop :=
  ∀ (s : State) (q : Nat), s.Inv → Sorted s.ctl.queues → Sorted s.ctxs → let x := s.queue q
    let slot := s.jcount % 65536
    let full : Prop := (s.journal.getD slot {}).state = 1 ∨ (s.journal.getD slot {}).state = 2
    let va := (x.base + 64 * x.head) % 2 ^ 64
    let accepts (w : List Word) : Prop := Completes (.commandAccept q) s fun t => OnlyQueues s t ∧
      t.jcount = (s.jcount + 1) % 2 ^ 64 ∧
      let y (ph : Nat) : SubQueue := { x with head := (x.head + 1) % 2 ^ (x.cfg % 32), cmd := some (slot, w, ph), aborted := false }
      let e : JEntry := { seq := wordOf w 1, queue := q, idx := x.head, state := 1, tacc := s.time, ctx := x.ctx }
      let bad : Prop := badCommand w ∨ ∃ c, s.translate x.ctx va 64 .engRead false = .bad c
      (bad → QueueStep s t q (y 3) slot { e with state := 4, tdone := s.time }) ∧ (¬ bad → QueueStep s t q (y 0) slot e)
    (x.cfg.testBit 31 = false ∨ x.cmd ≠ none ∨ x.fault ≠ none ∨ x.head = x.tail ∨ full → exec (.commandAccept q) s = .next s) ∧
    (x.cfg.testBit 31 = true → x.cmd = none → x.fault = none → x.aborted = false → x.head ≠ x.tail → ¬ full →
      (∀ pa, CpReaches s x.ctx va 64 .engRead pa → accepts (ringWords (s.latestNat pa 64))) ∧
      (CpRefused s x.ctx va 64 .engRead → accepts (List.replicate 16 0)) ∧
      (∀ level pte base size, va % 64 = 0 → s.translate x.ctx va 64 .engRead false = .absent level pte base size →
        Completes (.commandAccept q) s fun t => t.journal = s.journal ∧ t.mem = s.mem ∧ t.queue q = { x with fault := some va } ∧
          ∃ f ∈ t.coh.faults, f.ctx = x.ctx ∧ f.die = 0 ∧ f.pte = pte)) ∧
    (∀ y ∈ [(Instr.cmdNop q, 0, 0), (.cmdGraph q, 1, 0), (.cmdSignal q, 2, 0), (.cmdModeSwitch q, 3, 0), (.cmdWaitValue q, 4, 0),
        (.waitValueSatisfied q, 4, 1)],
      (x.fault ≠ none ∨ ∀ j w p, x.cmd = some (j, w, p) → wordOf w 0 % 2 ^ 8 ≠ y.2.1 ∨ p ≠ y.2.2) → exec y.1 s = .next s) ∧
    ∀ j w, let c := s.ctx x.ctx
      let a := pairOf w 2
      let refuses (i : Instr) : Prop := Completes i s fun t => OnlyQueues s t ∧ Runs s t q j w 3 4
      (HasCommand s q j 0 w 0 → Completes (.cmdNop q) s fun t => OnlyQueues s t ∧ Runs s t q j w 2 2) ∧
      (HasCommand s q j 2 w 0 → (a % 4 ≠ 0 ∨ CpRefused s x.ctx a 4 .engWrite → refuses (.cmdSignal q)) ∧
        ∀ pa, CpReaches s x.ctx a 4 .engWrite pa → Completes (.cmdSignal q) s fun t => t.clumps = s.clumps ∧
          Runs s t q j w 2 2 ∧ WordStored s t pa (wordOf w 4)) ∧
      (HasCommand s q j 3 w 0 → let b := pairOf w 6
        let d : Ctx := { c with params := pairOf w 8, budget := if b = 0 then c.budget else b
                                metered := decide (b ≠ 0) || c.metered, broke := decide (b = 0) && c.broke
                                modeSwitch := if b ≠ 0 ∧ Spent c then some (c.modeSwitch.getD 1) else c.modeSwitch }
        Completes (.cmdModeSwitch q) s fun t => (¬ (b ≠ 0 ∧ Spent c) → t.mem = s.mem) ∧ t.clumps = s.clumps ∧ Runs s t q j w 2 2 ∧
          (∀ k, k ≠ x.ctx → t.ctx k = s.ctx k) ∧
          if b ≠ 0 ∧ c.broke = true ∧ c.away = true ∧ s.fw.hot = false then
            t.ctx x.ctx = { d with away := false, stopping := none, faulted := none, record := none } ∧
              t.waiting = comingBack s x.ctx ++ s.waiting
          else t.ctx x.ctx = d ∧ t.waiting = s.waiting) ∧
      (HasCommand s q j 4 w 0 → (a % 4 ≠ 0 ∨ CpRefused s x.ctx a 4 .engRead → refuses (.cmdWaitValue q)) ∧
        ∀ pa, CpReaches s x.ctx a 4 .engRead pa → Completes (.cmdWaitValue q) s fun t => OnlyQueues s t ∧
          Runs s t q j w (if wordOf w 4 ≤ s.latestNat pa 4 then 2 else 1) 2) ∧
      (HasCommand s q j 4 w 1 → ∀ pa, CpReaches s x.ctx a 4 .engRead pa →
        (s.latestNat pa 4 < wordOf w 4 → exec (.waitValueSatisfied q) s = .next s) ∧
        (wordOf w 4 ≤ s.latestNat pa 4 → Completes (.waitValueSatisfied q) s fun t => OnlyQueues s t ∧
          QueueStep s t q { x with cmd := some (j, w, 2), aborted := false } j (s.journal.getD j {}))) ∧
      ∀ p, x.cmd = some (j, w, p) → x.fault = none → x.aborted = false → let at_ := pairOf w 10
        let refused := decide (p = 3)
        (p < 2 → exec (.commandCompletion q) s = .next s) ∧
        (2 ≤ p → c.modeSwitch = none →
          (at_ = 0 ∨ at_ % 4 ≠ 0 ∨ CpRefused s x.ctx at_ 4 .engWrite → Completes (.commandCompletion q) s fun t =>
            Closed s t q j w refused ∧ t.mem = s.mem ∧ t.clumps = s.clumps) ∧
          ∀ pa, at_ ≠ 0 → CpReaches s x.ctx at_ 4 .engWrite pa → Completes (.commandCompletion q) s fun t =>
            Closed s t q j w refused ∧ t.clumps = s.clumps ∧
            WordStored s t pa (if refused then 0xFFFFFFFF else wordOf w 12)) ∧
        (∀ r, 2 ≤ p → at_ = 0 → wordOf w 0 % 2 ^ 8 = 3 → c.modeSwitch = some r → Completes (.commandCompletion q) s fun t =>
          Closed s t q j w refused ∧ t.ctx x.ctx = { c with modeSwitch := none, stopping := some (c.stopping.getD r) })

/-- R284 to R286, R294, R383, R386, R388: a graph command whose image is accepted starts every node without incoming edges, with the
command's parameter block, and binds spawn bins; an image that is not one, or bins that do not suffice, refuse it. A node completes
once nothing of it is left; its edges are resolved with its result, and nodes run or are skipped as they say; when all are over, the
command is done. Which values refuse an image is read as notes/assumptions/62.md says. -/
def Obligations.Graphs : Prop :=
  (∀ (s : State) (q j : Nat) (w : List Word), s.Inv → Sorted s.ctl.queues → Sorted s.ctxs → Sorted s.graphs →
    HasCommand s q j 1 w 0 → let x := s.queue q
    let a := pairOf w 2
    let reads (xs : List (Nat × Nat)) : Prop := s.cpMeets x.ctx (xs.map fun y => (Kind.engRead, y.1, y.2)) = none
    let refuses : Prop := Completes (.cmdGraph q) s fun t => OnlyQueues s t ∧ Runs s t q j w 3 4
    (CpRefused s x.ctx a 64 .engRead → refuses) ∧
    (∀ pa, CpReaches s x.ctx a 64 .engRead pa → s.latestNat pa 8 ≠ 0x00424744 + 2 ^ 32 → refuses) ∧
    ∀ h, reads [(a, 64)] → headerOf (s.cpBytes x.ctx a 64) = some h → let spans := h.tables.map fun y => ((a + y.1) % 2 ^ 64, y.2)
      let image := s.imageOf x.ctx a h (spans.map fun y => s.cpBytes x.ctx y.1 y.2)
      reads spans → (image = none → refuses) ∧
      ∀ y, image = some y → let new := unbound s x.ctx a y.entries.length
        let room : Prop := ∀ d < 4, (s.bins.countP fun b => b.die == d) + new.length ≤ 256
        (new ≠ [] → ¬ room → refuses) ∧
        (new = [] ∨ room → Completes (.cmdGraph q) s fun t =>
          (¬ (pairOf w 6 ≠ 0 ∧ Spent (s.ctx x.ctx)) → t.mem = s.mem) ∧ t.clumps = s.clumps ∧
          (y.nodes ≠ [] → ∃ bs, t.bins = s.bins ++ bs ∧ bs.length = 4 * new.length ∧ ∀ d < 4, ∀ e ∈ new,
            ∃ b ∈ bs, b.die = d ∧ b.ctx = x.ctx ∧ b.image = a ∧ b.no = e ∧ b.recs = [] ∧ b.spilled = [] ∧ b.timer = none) ∧
          (let b := pairOf w 6
           (t.ctx x.ctx).budget = if b = 0 then (s.ctx x.ctx).budget else b) ∧
          (y.nodes = [] → (t.queue q).cmd = some (j, w, 2)) ∧
          (y.nodes ≠ [] → (t.queue q).cmd = some (j, w, 1) ∧ ∃ gid g, t.graphs.find? gid = some g ∧ g.queue = q ∧ g.ctx = x.ctx ∧
            g.prio = x.cfg / 2 ^ 16 % 64 ∧ g.image.edges = y.edges ∧ g.image.kernels = y.kernels ∧
            (∀ n r, y.nodes[n]? = some r → ∃ z, g.image.nodes[n]? = some { r with param := z } ∧
              (hasSource y n ∨ pairOf w 4 = 0 → z = r.param) ∧ (¬ hasSource y n → pairOf w 4 ≠ 0 → z = pairOf w 4)) ∧
            ∀ n < y.nodes.length, (hasSource y n → nodeAt g n = .waiting) ∧
              (¬ hasSource y n → nodeAt g n = .running ∧ NodeStarted t gid n g)))) ∧
  ∀ (s : State) (gid m : Nat) (g : Graph), s.graphs.find? gid = some g → Sorted s.graphs → Sorted s.ctl.queues →
    (nodeAt g m ≠ .running ∨ workLeft s gid m → exec (.nodeCompletion gid m) s = .next s) ∧
    (nodeAt g m = .running → ¬ workLeft s gid m → ∀ pn p, (pn, p) ∈ s.plantings →
      (∀ y ∈ s.plantings, OwnPlanting gid m y.2 ↔ y = (pn, p)) → Completes (.nodeCompletion gid m) s fun t =>
        t.mem = s.mem ∧ t.clumps = s.clumps ∧ ∃ h, Walked g h m (p.result.getD 0).toNat ∧
          ((∃ n < g.states.length, ¬ isOver h n) → t.graphs.find? gid = some h ∧
            ∀ n, nodeAt g n = .waiting → nodeAt h n = .running → NodeStarted t gid n h) ∧
          ((∀ n < g.states.length, isOver h n) → GraphEnded s t gid g.queue))

namespace Sys2Proof.Claims
open Sys2Proof.Machine

/-! ### Issue slots (R261 to R264, R267) -/

/-- A strand is ready in a quadrant of a core, but for being held at an engine word (R261). -/
def ReadyAt (s : State) (core quad c : Nat) (m : Lane) : Prop :=
  s.Lists c m ∧ (s.clump c).place = .resident ∧ (s.issues (s.clump c) = true ∨ (s.band c m.band).begun = true) ∧
    (s.clump c).coreNo = core ∧ (s.band c m.band).quad = quad ∧
    (s.strand c m).life = .live ∧ (s.strand c m).park = none ∧ (s.strand c m).marker = false ∧ (s.strand c m).trap = none

/-- A strand is due (R263). -/
def isDue (s : State) (c : Nat) (m : Lane) : Prop := 63 ≤ (s.strand c m).passes

/-- The order of ready strands (R262): the greater age, then the lower band slot, then the lower lane. -/
def ahead (s : State) (c : Nat) (m : Lane) (d : Nat) (n : Lane) : Prop :=
  let x := ((s.strand c m).since, (s.band c m.band).slot, m.lane)
  let y := ((s.strand d n).since, (s.band d n.band).slot, n.lane)
  x.1 < y.1 ∨ (x.1 = y.1 ∧ (x.2.1 < y.2.1 ∨ (x.2.1 = y.2.1 ∧ x.2.2 < y.2.2)))

/-- The chooser's pick (R262, R263): no due strand stands ahead of it, and unless it is due itself no strand at all is due. -/
def Chosen (s : State) (core quad c : Nat) (m : Lane) : Prop :=
  ReadyAt s core quad c m ∧ ∀ d n, ReadyAt s core quad d n →
    ¬ (isDue s d n ∧ ¬ isDue s c m) ∧ ((isDue s d n ↔ isDue s c m) → ¬ ahead s d n c m)

/-- A strand can take its lane's place in the sheaf of a clump at a program counter value (R263, R264). -/
def CanJoin (s : State) (core quad c : Nat) (pc : Word) (m : Lane) : Prop :=
  ReadyAt s core quad c m ∧ (s.strand c m).pc = pc ∧ m.lane < 32 ∧
    (isDue s c m ∨ ∀ d n, ReadyAt s core quad d n → n.lane = m.lane → ¬ isDue s d n)

/-- The sheaf that is formed (R264): in each lane the strand that can join and stands ahead of the others, and no other strand. -/
structure SheafOf (s : State) (core quad c : Nat) (pc : Word) (ls : List Lane) : Prop where
  distinct : ls.Pairwise fun x y => x.lane ≠ y.lane
  only : ∀ m ∈ ls, CanJoin s core quad c pc m ∧ ∀ n, CanJoin s core quad c pc n → n.lane = m.lane → ¬ ahead s c n c m
  every : ∀ n, CanJoin s core quad c pc n → ∃ m ∈ ls, m.lane = n.lane

/-! ### Placement (R287, R288, R295, R387) -/

/-- The clumps resident on a core, and the granules and bands taken in a quadrant of it. -/
def onCore (s : State) (core : Nat) : List Clump :=
  (s.clumps.map (·.2)).filter fun c => decide (c.place = .resident) && decide (c.coreNo = core)
def bandsIn (s : State) (core q : Nat) : List (Nat × Band) :=
  (onCore s core).flatMap fun c => (c.bands.filter fun b => b.holds && b.quad == q).map fun b => ((c.kernel.regs + 7) / 8, b)
def granulesIn (s : State) (core q : Nat) : Nat := ((bandsIn s core q).map (·.1)).sum

/-- A core holds no more than it has: scratchpad and reservation space in units of 4 KiB, accumulators, resident slots, barriers. -/
def withinCore (s : State) (core : Nat) : Prop :=
  let total (f : Kernel → Nat) : Nat := ((onCore s core).map fun c => f c.kernel).sum
  total (fun k => (k.spad + 4095) / 4096) ≤ 64 ∧ total (fun k => (k.resv + 4095) / 4096) ≤ 22 ∧ total (·.acc) ≤ 4 ∧
    total (·.slots) ≤ 2 ∧ total (·.bar) ≤ 64

/-- k0 to k9 of the bands of a clump (R288): of a node's clump, of a launched child's, or of a spawned band. -/
def startWords (p : Planting) (w : Waiting) (no bands : Nat) : List Nat :=
  let words (i node idx param : Nat) : List Nat :=
    [p.id, i, node, idx, param % 2 ^ 32, param / 2 ^ 32, p.perChild, bands, p.s0, p.s1]
  if w.records ≠ [] then words w.launchNo w.node w.records.length p.param
  else match p.kids[no / p.perChild]? with
    | some k => words (no % p.perChild) k.node (no / p.perChild) k.ptr
    | none => words no p.node 0 p.param

/-- A clump has started on a core (R149, R150, R288, R295): its bands' uniform registers are set, its strands stand at the entry
in the gap, a spawned band's lanes hold its records, and every other register is zero. -/
def Started (s t : State) (w : Waiting) (no die core name thicket : Nat) (peer : Option Nat) : Prop :=
  let p := s.plantings.getD w.planting {}
  let n := if w.records ≠ [] then 1 else p.kernel.bands
  ∃ c : Clump, t.clumps.find? name = some c ∧ c.ctx = p.ctx ∧ c.planting = w.planting ∧ c.no = no ∧ c.die = die ∧ c.core = core ∧
    c.place = .resident ∧ c.thicket = thicket ∧ c.peer = peer ∧ c.kernel = { p.kernel with bands := n } ∧ c.spad = [] ∧
    c.bands.length = n ∧
    ∀ b ∈ c.bands, b.quad < 4 ∧ b.slot < 16 ∧ granulesIn t (224 * die + core) b.quad ≤ 128 ∧
      (((bandsIn t (224 * die + core) b.quad).map fun x => x.2.slot).count b.slot = 1) ∧
      (∀ r, b.ureg r = BitVec.ofNat 32 (((startWords p w no n)[r]?).getD 0)) ∧
      ∀ l, ((b.strands.find? l).isSome ↔ l < (if w.records ≠ [] then w.records.length else 32)) ∧
        ∀ x, b.strands.find? l = some x → x.life = .live ∧ x.pc = p.entry ∧ x.p = 1 ∧ x.gap = true ∧ x.park = none ∧
          ∀ r, x.reg r = if r < 4 then (((w.records[l]?).getD [])[r]?).getD 0 else 0

/-- A strand of lane `l` stands as the record of its band at `a` has it (R161, R325, R327). -/
structure FromRecord (s : State) (a regs l : Nat) (y : Strand) : Prop where
  life : y.life = .live ↔ (s.latestNat a 4).testBit l = true
  pc : y.pc = BitVec.ofNat 32 (s.latestNat (a + 0x10 + 4 * l) 4)
  predicates : y.p = BitVec.ofNat 8 (s.latestNat (a + 0x110 + l) 1) ||| 1
  counter : y.ctr = BitVec.ofNat 32 (s.latestNat (a + 0x130 + 4 * l) 4)
  gap : y.gap = (s.latestNat (a + 8) 4).testBit l
  link : regs ≤ 127 → y.gap = true → y.reg 127 = BitVec.ofNat 32 (s.latestNat (a + 0x200 + 4 * l) 4)
  vectors : (s.latestNat (a + 4) 4).testBit 8 = true → y.gap = true → ∀ r < regs,
    y.reg r = BitVec.ofNat 32 (s.latestNat (a + 0x0C80 + 128 * r + 4 * l) 4)
  trap : let e := a + 0x0C80 + if (s.latestNat (a + 4) 4).testBit 8 then 128 * regs else 0
    y.h = (s.latestNat (e + 8 * l) 8).testBit 0 ∧ y.epc = BitVec.ofNat 32 (s.latestNat (e + 0x100 + 4 * l) 4) ∧
      y.tinfo = BitVec.ofNat 64 (s.latestNat (e + 0x180 + 8 * l) 8)

/-- Where the record of a clump's first band lies in the clump's record (R324). -/
def firstBand (k : Kernel) : Nat :=
  let up (n : Nat) : Nat := (n + 255) / 256 * 256
  0x800 + 0x8900 * k.acc + 0x20100 * k.slots + up k.resv + up k.spad

/-- What waits after `n` clumps of entry `i` have been placed. -/
def stillWaiting (s : State) (i : Nat) (w : Waiting) (n : Nat) : List Waiting :=
  if w.saved ≠ none ∨ w.records ≠ [] ∨ (s.plantings.getD w.planting {}).clumps ≤ w.no + n then s.waiting.eraseIdx i
  else s.waiting.set i { w with no := w.no + n }

end Sys2Proof.Claims

/-- R261 to R264, R267: an issue slot is counted; the ready strand of greatest age, a due one first, fixes the clump and the
program counter value, and the sheaf takes in each lane the strand that stands ahead; those whose lane is taken by another are
passed over. At an engine word the sheaf is its whole band, or the band is held; with no strand ready, nothing issues. When slots come,
and that one which fails at an engine word picks again, are choices of notes/assumptions/11.md and 69.md. -/
def Obligations.IssueSlots : Prop :=
  ∀ (s : State) (die core quad : Nat), die < 4 → core < 224 → quad < 4 → Sorted s.clumps → (∀ k, Tidy (s.clump k)) →
    (∀ c b, (s.band c b).held = none) → (∀ c m, (s.strand c m).held = false) → Sorted s.slots → let n := 224 * die + core
    let ready := ReadyAt s n quad
    let counted (t : State) : Prop := ∀ c q, q < 4 → t.slotCount c q = s.slotCount c q + if c = n ∧ q = quad then 1 else 0
    ((∀ c m, ¬ ready c m) → Completes (.issueSlot die core quad) s fun t => counted t ∧ t = { s with slots := t.slots }) ∧
    ((∃ c m, ready c m) → (∀ c m, ready c m → s.engineAt c (s.strand c m).pc = false) →
      Completes (.issueSlot die core quad) s fun t => counted t ∧ ∃ c m h, Chosen s n quad c m ∧ t.sheaf = some h ∧ h.clump = c ∧
        h.at_ = (s.strand c m).pc ∧ h.quad = quad ∧ h.stopped = [] ∧ SheafOf s n quad c h.at_ h.lanes ∧
        (∀ d x, let passed : Prop := ready d x ∧ (d ≠ c ∨ x ∉ h.lanes) ∧ ∃ z ∈ h.lanes, z.lane = x.lane
          (passed → t.strand d x = { s.strand d x with passes := (s.strand d x).passes + 1 }) ∧
          (¬ passed → t.strand d x = s.strand d x)) ∧
        t = { s with slots := t.slots, sheaf := t.sheaf, clumps := t.clumps }) ∧
    ∀ c b pc, s.engineAt c pc = true → (∃ m, ready c m) → (∀ d m, ready d m → d = c ∧ m.band = b ∧ (s.strand c m).pc = pc) →
      let whole : Prop := ∀ l x, (s.band c b).strands.find? l = some x → x.life = .live → ready c ⟨b, l⟩
      (whole → Completes (.issueSlot die core quad) s fun t => counted t ∧ ∃ h, t.sheaf = some h ∧ h.clump = c ∧ h.at_ = pc ∧
        (∀ m, m ∈ h.lanes ↔ ready c m) ∧ t = { s with slots := t.slots, sheaf := t.sheaf }) ∧
      (¬ whole → Completes (.issueSlot die core quad) s fun t => counted t ∧ t.sheaf = s.sheaf ∧
        t = { s with slots := t.slots, clumps := t.clumps } ∧
        (∀ d x, (ready d x → t.strand d x = { s.strand d x with held := true, passes := 0 }) ∧
          (¬ ready d x → t.strand d x = s.strand d x)) ∧
        (t.band c b).held = some { pc := pc, slot := s.slotCount n quad + 1 })

/-- R102, R199, R287, R288, R295, R300, R327, R387: a waiting clump is placed where all of it fits, in the order of placement, a
thicket on the two cores of a pair, a saved clump with its registers, from its record if it has one; a clump whose bands have all ended, with every request on the CXL.io path performed,
leaves with its resources, and is counted in its planting. Which quadrant and slot a band gets, and what a clump that comes back takes
from where, are choices of notes/assumptions/47.md, 51.md, 57.md and 68.md. -/
def Obligations.PlacementAndEnd : Prop :=
  (∀ (s : State) (i die core : Nat) (w : Waiting), s.waiting[i]? = some w → Sorted s.clumps → let p := s.plantings.getD w.planting {}
    (w.records ≠ [] → p.kids = []) → let n := 224 * die + core
    let runs (x : Waiting) : Prop := let c := s.ctx (s.plantings.getD x.planting {}).ctx
      c.stopping = none ∧ c.away = false ∧ c.faulted = none
    let before : Prop := ∃ j x, s.waiting[j]? = some x ∧ (w.prio < x.prio ∨ (x.prio = w.prio ∧ j < i)) ∧ runs x ∧
      ∃ d < 4, ∃ k < 224, (s.fitsAt x d k).isSome
    let place := Instr.clumpPlacement i die core
    (¬ runs w ∨ before ∨ s.fitsAt w die core = none → exec place s = .next s) ∧
    (runs w → ¬ before → (s.fitsAt w die core).isSome → 
      (w.saved = none → (w.records ≠ [] ∨ p.kernel.thicket = false) → Completes place s fun t => SameBytes s t ∧
        t.waiting = stillWaiting s i w 1 ∧ Started s t w w.no die core s.uid 0 none ∧ withinCore t n ∧
        (∀ k, k ≠ s.uid → t.clumps.find? k = s.clumps.find? k) ∧
        ∀ b, (t.clump s.uid).bands.head? = some b → (∀ q < 4, (bandsIn s n q).length < 16) → ∀ q < 4,
          granulesIn s n b.quad < granulesIn s n q ∨ (granulesIn s n b.quad = granulesIn s n q ∧ b.quad ≤ q)) ∧
      (w.saved = none → w.records = [] → p.kernel.thicket = true → core % 2 = 0 ∧ Completes place s fun t => SameBytes s t ∧
        t.waiting = stillWaiting s i w 2 ∧ Started s t w w.no die core s.uid 1 (some (s.uid + 1)) ∧
        Started s t w (w.no + 1) die (core + 1) (s.uid + 1) 2 (some s.uid) ∧ withinCore t n ∧ withinCore t (n + 1)) ∧
      ∀ k, w.saved = some k → (s.clumps.find? k).isSome → (s.clump k).thicket = 0 → (s.clump k).place ≠ .resident →
        Tidy (s.clump k) →
        let back (t : State) : Prop := SameBytes s t ∧ t.waiting = s.waiting.eraseIdx i ∧ t.ops = s.ops ∧
          ((t.clump k).place, (t.clump k).die, (t.clump k).core) = (.resident, die, core) ∧
          (s.clump k).ltime ≤ t.cts n
        ((s.clump k).record = none → (s.clump k).prog = none → Completes place s fun t => back t ∧ withinCore t n ∧
          ∀ m, s.Lists k m → let x := s.strand k m
            let y := t.strand k m
            (y.v, y.p, y.life, y.gap, y.ctr, y.out) = (x.v, x.p, x.life, x.gap || y.gap, x.ctr, x.out) ∧
            ((∀ b tok v pc, x.park ≠ some ⟨.barrier b tok, v, pc⟩) → y.park = x.park ∧ y.pc = x.pc ∧ y.gap = x.gap)) ∧
        (∀ a len, (s.clump k).record = some (a, len) → s.latestNat (a + 0x18) 4 = 0 → (s.clump k).bands.length = 1 →
          ((s.clump k).band 0).slot < 16 ∧ ((s.clump k).band 0).quad < 4 →
          Completes place s fun t => back t ∧ (t.clump k).record = none ∧ ∀ l, s.Lists k ⟨0, l⟩ → l < 32 →
            (∀ b tok v pc, (t.strand k ⟨0, l⟩).park ≠ some ⟨.barrier b tok, v, pc⟩) →
            (∀ b tok v pc, (s.strand k ⟨0, l⟩).park ≠ some ⟨.barrier b tok, v, pc⟩) → (s.clump k).kernel.regs ≤ 128 →
            (let r := a + firstBand (s.clump k).kernel
             let e := r + 0x0C80 + if (s.latestNat (r + 4) 4).testBit 8 then 128 * (s.clump k).kernel.regs else 0
             s.latestNat (e + 8 * l) 8 / 2 % 8 ≠ 1) →
            FromRecord s (a + firstBand (s.clump k).kernel) (s.clump k).kernel.regs l (t.strand k ⟨0, l⟩)))) ∧
  ∀ (s : State) (c : Nat), Sorted s.clumps → Sorted s.ctxs → Sorted s.plantings → (∀ k, Tidy (s.clump k)) → let x := s.clump c
    let ended : Prop := (∀ b ∈ x.bands, b.holds = false ∧ ∀ y ∈ b.strands, y.2.host = []) ∧ ∀ o ∈ s.ops, o.clump = c → o.kind = .close
    ((s.clumps.find? c = none ∨ x.place ≠ .resident ∨ ¬ ended) → exec (.clumpEnd c) s = .next s) ∧
    ((s.clumps.find? c).isSome → x.place = .resident → ended → (∀ b ∈ x.bands, b.tape.mode = 0) →
      Completes (.clumpEnd c) s fun t => t.mem = s.mem ∧ t.clumps.find? c = none ∧ t.waiting = s.waiting ∧
        (∀ o, o ∈ t.ops ↔ o ∈ s.ops ∧ o.clump ≠ c) ∧ (∀ k, k ≠ c → (t.clumps.find? k).isSome = (s.clumps.find? k).isSome) ∧
        (∀ p, s.plantings.find? x.planting = some p → t.plantings.find? x.planting =
          if p.kids ≠ [] ∧ p.clumps ≤ p.ended + 1 then none else some { p with ended := p.ended + 1 }) ∧
        (t.ctx x.ctx).ltime = max (s.ctx x.ctx).ltime (s.cts x.coreNo) ∧
        ∀ k m, k ≠ c → s.Lists k m → let y := s.strand k m
          (∀ v pc, y.park = some ⟨.childLimit, v, pc⟩ → (s.clump k).ctx = x.ctx →
            t.strand k m = resumes s k m ⟨.childLimit, v, pc⟩ y) ∧
          ((∀ v pc, y.park ≠ some ⟨.childLimit, v, pc⟩) ∨ (s.clump k).ctx ≠ x.ctx → t.strand k m = y))

namespace Sys2Proof.Claims
open Sys2Proof.Machine

/-- A module has been lost (R358): it is out of reach, and every page being pulled from its window is a lost page. -/
def ModuleLost (s t : State) (n : Nat) : Prop :=
  n ∈ t.ctl.gone ∧ (∀ k ∈ s.ctl.gone, k ∈ t.ctl.gone) ∧ (∀ m ∈ t.dram.migrations, s.ctl.place m.old ≠ .remote n) ∧
    ∀ m ∈ s.dram.migrations, s.ctl.place m.old = .remote n → (m.new, m.size) ∈ t.dram.lost

/-- A port of the partition is up (R353): its link, and its state. -/
def portUp (s : State) (p : Nat) : Prop := s.ctl.pstat.getD p 0 % 4 = 3

end Sys2Proof.Claims

/-- R353, R357, R358, R365 to R368, R372, R373: a module reset zeroes the stacks and the second tier, leaves every other byte and what
the trusted part keeps, and comes up or enters recovery as the image verifies; images are staged for the next reset; a signing request spends a
one-time index; a key is loaded where no channel has an owner, and what it covers is zeroed; the clock steps by 20 MHz between 400
and 940 MHz and %time goes on; at the junction limit every context stops and then the dies power down; a partition is built; a
module or the last port fails. How these arrive, what a reset keeps, and what powered-down dies still answer, are choices of
notes/assumptions/2.md, 70.md, 71.md, 72.md, 73.md and 79.md; that the caches, the stacks' own state and control space are empty after a
reset rests on 6.md, 7.md and 8.md, and that a lost module's pages are kept in a list of lost pages on 82.md. -/
def Obligations.ModuleEvents : Prop :=
  ∀ (s : State), s.Inv →
    (∀ v, let ok := s.fw.staged.getD v
      let own (a : Nat) : Prop := a < 2 ^ 40 ∨ (secondBase ≤ a ∧ a < secondEnd) ∨ (2 ^ 44 ≤ a ∧ a < 2 ^ 45)
      Completes (.moduleReset v) s fun t =>
        (∀ a < 2 ^ 52, (own a → t.latest a = 0) ∧ (¬ own a → t.latest a = s.mem.read a)) ∧ t.fw.recovery = !ok ∧ t.fw.bringUp = ok ∧
        t.fw.powered = true ∧ t.fw.staged = none ∧ t.fw.keys = [] ∧ t.fw.sigIndex = s.fw.sigIndex ∧
        (ok = true → t.fw.meas.length = 4) ∧
        (t.cycle, t.mhz, t.ctxs, t.clumps, t.graphs, t.ops, t.journal, t.coh, t.dram, t.sheaf) =
          (0, 940, [], [], [], [], [], {}, {}, none) ∧ t.ctl = { pstat := t.ctl.pstat } ∧
        (∀ p, t.ctl.pstat.getD p 0 % 2 ^ 8 ≤ 1 ∧ (ok = false → t.ctl.pstat.getD p 0 = 0)) ∧ t.agenda = s.agenda) ∧
    (∀ v, (s.fw.recovery = false → exec (.recoveryImageDelivery v) s = .next s ∧
        Completes (.firmwareUpdate v) s fun t => t = { s with fw := t.fw } ∧ t.fw.staged = some v ∧ t.fw.recovery = false) ∧
      (s.fw.recovery = true → exec (.firmwareUpdate v) s = .next s ∧
        Completes (.recoveryImageDelivery v) s fun t => t = { s with fw := t.fw } ∧ t.fw.staged = some v ∧ t.fw.recovery = true)) ∧
    (Completes .spdmRequest s fun t => t = { s with fw := t.fw } ∧ t.fw.keys = s.fw.keys ∧
      t.fw.sigIndex = if s.fw.sigIndex < 65536 then s.fw.sigIndex + 1 else 65536) ∧
    (Completes .pldmPlatformMonitoring s fun t => t = { s with fw := { s.fw with messages := t.fw.messages } }) ∧
    (∀ on, Completes (.atomicopRoutingEnable on) s fun t => t = { s with ctl := { s.ctl with atomicRouting := on } }) ∧
    (∀ slot key, let owned : Prop := slot ≤ 16 ∧ ∃ g < 256, s.ctl.owner.getD g 0 = slot
      (512 ≤ slot ∨ owned → exec (.keySlotLoad slot key) s = .next s) ∧
      (slot < 512 → ¬ owned → Completes (.keySlotLoad slot key) s fun t => t.fw.keys.find? slot = some key ∧
        ∀ a < 2 ^ 52, t.latest a = if secondBase ≤ a ∧ a < secondEnd ∧ regionSlot ((a - secondBase) / 2 ^ 30) = slot then 0
          else s.latest a)) ∧
    (∀ up, Completes (.clockThrottle up) s fun t => t.time = s.time ∧ t.cycle = s.cycle ∧ t.mem = s.mem ∧ t.clumps = s.clumps ∧
      t.mhz = if up then min 940 (s.mhz + 20) else max 400 (s.mhz - 20)) ∧
    (s.fw.hot = false → Completes .thermalShutdown s fun t => ((∀ c < 16, (s.ctx c).away = false) → t.mem = s.mem) ∧
      t.clumps = s.clumps ∧ t.fw.hot = true ∧ t.fw.powered = s.fw.powered ∧ ∀ c < 16, Sorted s.ctxs → (s.ctx c).faulted = none →
        (t.ctx c).faulted.isSome ∧ ((s.ctx c).away = false → (t.ctx c).stopping = some 2 ∧ (t.ctx c).record.isSome) ∧
        ((s.ctx c).away = true → (t.ctx c).record = none ∧ 16 + 4 * c + 2 ∈ t.irqs)) ∧
    (s.fw.hot = true → ((∃ c < 16, (s.ctx c).away = false) → exec .thermalShutdown s = .next s) ∧
      ((∀ c < 16, (s.ctx c).away = true) → Completes .thermalShutdown s fun t => t = { s with fw := { s.fw with powered := false } })) ∧
    (s.fw.powered = false → (s.sheaf.isSome → step s = .fault .poweredDown) ∧
      ∀ e r, s.sheaf = none → s.agenda = e :: r → (needsDies e = true → step s = .fault .poweredDown) ∧
        (needsDies e = false → e.isEvent = true → step s = exec e { s with agenda := r })) ∧
    (∀ chip size ports, let good : Prop := chip < size ∧ size ≤ 576 ∧ (∀ p ∈ ports, p < 24) ∧ s.fw.recovery = false
      (¬ good → exec (.partitionBuild chip size ports) s = .next s) ∧
      (good → Completes (.partitionBuild chip size ports) s fun t => t.mem = s.mem ∧ t.clumps = s.clumps ∧ t.ctl.chip = chip ∧
        t.ctl.psize = size ∧ t.ctl.gone = [] ∧ (∀ i, t.ctl.pools.getD i 0 ≤ 256 ∧ (size ≤ i → t.ctl.pools.getD i 0 = 0)) ∧
        ∀ p, (p ∈ ports → portUp t p) ∧ (p ∉ ports → t.ctl.pstat.getD p 0 = 0))) ∧
    (∀ n, (n = s.ctl.chip ∨ s.ctl.psize ≤ n → exec (.moduleFailure n) s = .next s) ∧
      (n ≠ s.ctl.chip → n < s.ctl.psize → Completes (.moduleFailure n) s fun t => t.mem = s.mem ∧ ModuleLost s t n)) ∧
    ∀ p, Sorted s.ctl.pstat → Completes (.mortasPortFailure p) s fun t => t.mem = s.mem ∧ t.ctl.pstat.getD p 0 % 2 = 0 ∧
      (∀ q, q ≠ p → t.ctl.pstat.getD q 0 = s.ctl.pstat.getD q 0) ∧
      ((∃ q, q ≠ p ∧ portUp s q) → t.ctl.gone = s.ctl.gone ∧ t.dram = s.dram ∧ t.clumps = s.clumps) ∧
      ((∀ q, q ≠ p → ¬ portUp s q) → ∀ n < s.ctl.psize, n ≠ s.ctl.chip → ModuleLost s t n)

namespace Sys2Proof.Claims
open Sys2Proof.Machine

/-! ### Words -/

/-- Words that the spec works out beside their instructions, at least one of every family. -/
noncomputable def specWords : List (BitVec 32 × Instr) :=
  [(0x00000000, .nop), (0x00020002, .movc 1 0), (0x00080004, .elect 4), (0x01060410, .add 3 1 2), (0x02040401, .addi 2 1 1),
   (0x030A0415, .div 5 1 2), (0x04080412, .xor 4 1 2), (0x060C0402, .shlImm 6 1 2), (0x050C2016, .shrD 6 8 2),
   (0x07060414, .bfe 3 1 2), (0x08040412, .cmpLt 2 1 2), (0x0A060410, .pand 3 1 2), (0x0B0A0413, .sel 5 1 2 3)] ++
  [(0x0C0C180C, .lea4 6 6 1), (0x0E020818, .fadd 1 2 3), (0x0F101838, .fma 8 6 7), (0x10081432, .fmaH2 4 5 6),
   (0x11020412, .fcmpLt 1 1 2), (0x12040400, .rcp 2 1), (0x15142C60, .dot8I4 10 11 12), (0x160A1013, .shflX 5 4 2),
   (0x16102416, .perm 8 9 2), (0x17122003, .bredFadd 9 8), (0x182854B0, .kadd 20 21 22), (0x19285001, .kaddi 20 20 1)] ++
  [(0x1C101806, .stW 8 6 0 1), (0x1D181818, .ldQ 12 6 1 2), (0x1D101802, .ldSvW 8 6 0), (0x1E061840, .atomAdd 3 6 8),
   (0x20101802, .ldSp 8 6 0 2), (0x21000001, .fenceE), (0x22284030, .cpG2s 20 16 6), (0x23122840, .binCount 9 10 8),
   (0x24281800, .swpReg 20 6), (0x25081801, .bankLut 4 6), (0x2A0FFFF5, .call 0 0 0x3FFFD 1), (0x2B045001, .exitNext 2 20)] ++
  [(0x2B005433, .launch 21 6), (0x2B005042, .spawn 20 8), (0x2B025404, .result 1 21), (0x2E10784A, .trec 8 30 1 1),
   (0x2F025002, .tld 1 20), (0x300004A0, .mload 0 1 20), (0x30020829, .mma 1 2 2 1), (0x30282006, .mgemm 20 8 0),
   (0x31000000, .mbegin 0), (0x310004C2, .mdrain 0 1 24), (0x32046000, .gset 2 24), (0x32140862, .gread 10 2 12)]

/-! ### One step -/

/-- The chain of the sheaf at hand can issue as one word with the extension fields `x`: the word is no extension word and is legal
for the clump, its descriptor included (R17 to R25, R141, R221); no fault waits for the bands, no register is poisoned, and no engine result or generator is waited
for (R14, R15, R42, R314, R317); an engine word has its whole band, whose guards agree (R23, R267). -/
structure CanIssue (s : State) (w : CWord) : Prop where
  powered : s.fw.powered = true
  sheaf : s.sheaf.isSome
  lanes : s.sh.lanes ≠ []
  fresh : s.sh.stopped = []
  word : w.instr.isExt = false
  legal : legal w.ext s.clp.kernel s.clp.thicket w.instr = true
  desc : s.descIllegal w = false
  pending : ∀ m ∈ s.sh.lanes, (s.bnd m).pend = none ∧ (s.bnd m).regPoison = [] ∧
    (s.bnd m).interlocked (touched w.ext w.instr) = false
  generator : w.draws = true → s.g0Busy s.sh.clump = false
  engine : w.isEngine = true → s.wholeBand = true ∧ s.guardAgrees w.ext = true

/-- The sheaf at hand with the word `w` being executed, alone in its chain, and the first word after it; what an engine is still to write
to a register that the word writes no longer counts (R15). -/
def atWord (s : State) (w : CWord) (next : Word) : State :=
  (s.updSh fun h => { h with
    ext := w.ext, pc := w.pc, start := w.start, next := next, solo := true, names := touched w.ext w.instr, cut := none }).overrule w

/-- What a step makes of what the instruction answers: a next state's strands go on where the chain sends them, and the sheaf is
gone; a fault or refusal ends the step. -/
def afterIssue (sw : Bool) : Host.Outcome State Fault Refusal → Host.Outcome State Fault Refusal
  | .next t => .next (t.finish sw)
  | .fault f => .fault f
  | .refused r => .refused r

/-- The word before a program counter value in its packet does not chain an extension word onto it (R24). -/
def entered (s : State) (pc : Word) : Prop :=
  pc.toNat % 4 = 0 ∨ ∀ w, (s.fetchWord s.sh.clump (pc - 1)).1 = .word w → ¬ (w.toNat / 2 ^ 24 % 64 = 0x3F ∧ w.getLsbD 31 = true)

/-- The program counter value after a word (R10). -/
def pcAfter (pc : Word) : Word := if 2 ≤ pc.toNat % 4 then BitVec.ofNat 32 (4 * (pc.toNat / 4 + 1)) else pc + 1

end Sys2Proof.Claims

/-- R7, R16 to R22, R25, R26: every instruction that has a word, with every value of its fields, is read back from the word that the
encoder gives it; and a word that is read as an instruction is that instruction's word. -/
def Obligations.DecodeEncode : Prop :=
  (∀ d : DWord, d.wf = true → ∃ w, encode d = some w ∧ decode w = .ok d) ∧
  ∀ (w : BitVec 32) (d : DWord), decode w = .ok d → d.wf = true ∧ encode d = some w

/-- Words that the spec writes out decode to their instructions, CH and SW as in bits 31 and 30; reserved opcodes and functions,
nonzero unused fields and ill-formed extension words decode to none (R17, R19, R21, R26). -/
def Obligations.SpecWordsDecode : Prop :=
  (∀ x ∈ specWords, decode x.1 = .ok ⟨false, false, x.2⟩) ∧ decode 0x420A047F = .ok ⟨false, true, .addi 5 1 (-1)⟩ ∧
  decode 0xBF410800 = .ok ⟨true, false, .qual 0 0 0 4 0 1 0 0 0⟩ ∧
  ∀ w ∈ [0x33000000, 0x3E000000, 0x04000007, 0x0408000E, 0x00080014, 0xBFC00000, 0x3F410800, 0xFF410800, 0xBF410801#32],
    IsIllegal w

/-- R10, R11, R18 to R20, R24, R25: with a sheaf formed, a step fetches the word at its program counter value; a word that decodes to
a legal instruction runs as `exec` of it, and so does one that carries the field of an extension word before it; the strands that the
word leaves alone then stand at the next word. With no sheaf, a step is the next event.
Which event comes next, that a word on the agenda changes nothing, and in which order a stopped chain runs again are the model's
choices (notes/assumptions/1.md, 63.md and 76.md), and so is that a word before the target which cannot be fetched counts as no extension
word (80.md). -/
def Obligations.StepRunsDecoded : Prop :=
  (∀ (s s' : State) (w : BitVec 32) (d : DWord), s.fetchWord s.sh.clump s.sh.at_ = (.word w, s') → decode w = .ok d → d.ch = false →
    s.sh.at_.toNat % 4 ≠ 3 → entered s' s.sh.at_ → let x : CWord := ⟨s.sh.at_, s.sh.at_, d.sw, {}, d.instr⟩
    CanIssue s x → step s = afterIssue d.sw (exec d.instr (atWord s' x (pcAfter s.sh.at_)))) ∧
  (∀ (s s' s'' : State) (v w : BitVec 32) (e d : DWord) (f : Ext), s.sh.at_.toNat % 4 < 2 →
    s.fetchWord s.sh.clump s.sh.at_ = (.word v, s') → decode v = .ok e → e.ch = true → ({} : Ext).addWord e.instr = some f →
    s'.fetchWord s.sh.clump (s.sh.at_ + 1) = (.word w, s'') → decode w = .ok d → d.ch = false → entered s'' s.sh.at_ →
    let x : CWord := ⟨s.sh.at_, s.sh.at_ + 1, d.sw, f, d.instr⟩
    CanIssue s x → step s = afterIssue d.sw (exec d.instr (atWord s'' x (pcAfter (s.sh.at_ + 1))))) ∧
  (∀ (t : State) (sw : Bool), (t.finish sw).sheaf = none ∧ ∀ m ∈ t.sh.lanes, t.sh.lanes.Nodup → t.Lists t.sh.clump m →
    t.sh.isStopped m = false → (∀ x ∈ t.sh.moved, x.1 ≠ m) → t.sh.users = [] → (∀ x ∈ t.sh.links, x.1 ≠ m) →
    (t.str m).life = .live → (t.str m).park = none → let y := (t.finish sw).strand t.sh.clump m
      y.pc = t.sh.next ∧ y.v = (t.str m).v ∧ y.out = (t.str m).out ∧
        y.marker = ((t.str m).marker || (sw && !(t.bnd m).quiet m.lane))) ∧
  (∀ (s : State) e r, s.fw.powered = true → s.sheaf = none → s.agenda = e :: r → e.isEvent = true →
    step s = exec e { s with agenda := r }) ∧
  ∀ (s : State), s.fw.powered = true → s.sheaf = none → s.agenda = [] → s.nextEvent.isEvent = true → step s = exec s.nextEvent s

/-- R91, R93, R94, R328: from every state that meets the invariant of the memory system, a step gives a state that meets it. -/
def Obligations.StepKeepsInvariant : Prop := ∀ s t : State, s.Inv → step s = .next t → t.Inv

/-- R102, R150, R301, R352, R353, R356, R365, R366: after reset the invariant holds; memory reads zero, no clump, graph or operation
exists, every context's parameters and budget hold their reset values, every channel belongs to the shared pool, and every
submission queue is disabled.
The contents of host-attached memory at reset, that bring-up is over, and each value that the spec does not give are the model's choices
(notes/assumptions/3.md, 4.md, 5.md, 6.md, 7.md and 8.md). -/
def Obligations.ResetInvariant : Prop :=
  let s := State.reset
  s.Inv ∧ (∀ a < 2 ^ 52, s.latest a = 0) ∧ (s.clumps, s.graphs, s.ops, s.locks, s.journal, s.coh.monitors) = ([], [], [], [], [], []) ∧
    s.sheaf = none ∧ (s.cycle, s.mhz, s.time) = (0, 940, 0) ∧ (s.fw.recovery, s.fw.powered) = (false, true) ∧
    (∀ c, (s.ctx c).params = 0x0FFF0800 ∧ (s.ctx c).budget = 2 ^ 64 - 1 ∧ (s.ctx c).root = 0 ∧ (s.ctx c).nextId = 1 ∧
      (s.ctx c).debug = false ∧ (s.ctx c).away = false) ∧
    (∀ g, s.ctl.owner.getD g 0 = 0) ∧ s.ctl.chip = 0x3FF ∧ s.ctl.psize = 0 ∧
    ∀ q, (s.queue q).cfg.testBit 31 = false ∧ (s.queue q).cmd = none
end

