-- ==== Sys2Proof/Laws/Engine.lean ====
section
/-!
SUPPORT. What an operation's payment for its transfers can do (R100): it waits, and only buckets, requests and tokens change; or its event
happens.
-/

namespace Sys2Proof.Machine

@[simp] theorem State.addPaid_mem (s : State) (id k n : Nat) : (s.addPaid id k n).mem = s.mem := rfl
@[simp] theorem State.addPaid_coh (s : State) (id k n : Nat) : (s.addPaid id k n).coh = s.coh := rfl
@[simp] theorem State.addPaid_clumps (s : State) (id k n : Nat) : (s.addPaid id k n).clumps = s.clumps := rfl
@[simp] theorem State.addPaid_ctxs (s : State) (id k n : Nat) : (s.addPaid id k n).ctxs = s.ctxs := rfl
@[simp] theorem State.dropReqs_mem (s : State) (id : Nat) : (s.dropReqs id).mem = s.mem := rfl
@[simp] theorem State.dropReqs_home (s : State) (id : Nat) : (s.dropReqs id).coh.home = s.coh.home := rfl
@[simp] theorem State.dropReqs_clumps (s : State) (id : Nat) : (s.dropReqs id).clumps = s.clumps := rfl
@[simp] theorem State.dropReqs_ctxs (s : State) (id : Nat) : (s.dropReqs id).ctxs = s.ctxs := rfl

/-- Whether buckets of a context are short of what an event from `s` to `t` spends, beyond the tokens that its operation holds. -/
def State.short (s t : State) (ctx : Nat) (paid : SMap Nat) : Bool :=
  (s.owed t ctx).any fun x => decide (s.tokens x.1 ctx + paid.getD x.1 0 < x.2)

/-- What payment at a port leaves alone. -/
structure SameButTokens (s t : State) : Prop where
  mem : t.mem = s.mem
  clumps : t.clumps = s.clumps
  ctxs : t.ctxs = s.ctxs
  home : t.coh.home = s.coh.home
  l1 : t.coh.l1 = s.coh.l1
  locks : t.locks = s.locks

theorem SameButTokens.refl (s : State) : SameButTokens s s := ⟨rfl, rfl, rfl, rfl, rfl, rfl⟩

theorem SameButTokens.trans {s t u : State} (h : SameButTokens s t) (h' : SameButTokens t u) : SameButTokens s u :=
  ⟨h'.mem.trans h.mem, h'.clumps.trans h.clumps, h'.ctxs.trans h.ctxs, h'.home.trans h.home, h'.l1.trans h.l1, h'.locks.trans h.locks⟩

theorem State.payPart_same (s : State) (id ctx clump k n paid : Nat) : SameButTokens s (s.payPart id ctx clump k n paid) := by
  unfold State.payPart
  dsimp only
  split <;> exact ⟨rfl, rfl, rfl, rfl, rfl, rfl⟩

/-- An event whose operation is short of tokens waits. -/
theorem State.paying_waits {s t : State} {id ctx clump : Nat} {paid : SMap Nat} (h : s.short t ctx paid = true) :
    SameButTokens s (s.paying id ctx clump paid t) := by
  have fold : ∀ (xs : List (Nat × Nat)) (u : State), SameButTokens s u →
      SameButTokens s (xs.foldl (fun u x => u.payPart id ctx clump x.1 x.2 (paid.getD x.1 0)) u) := by
    intro xs
    induction xs with
    | nil => exact fun _ hu => hu
    | cons x xs ih => exact fun u hu => ih _ (hu.trans (u.payPart_same _ _ _ _ _ _))
  unfold State.paying
  rw [State.short] at h
  simp only [h, if_true]
  exact fold _ _ (.refl s)

/-- An event whose operation has its tokens happens. -/
theorem State.paying_goes {s t : State} {id ctx clump : Nat} {paid : SMap Nat} (h : s.short t ctx paid = false) :
    SameButTokens t (s.paying id ctx clump paid t) := by
  unfold State.paying
  rw [State.short] at h
  simp only [h, Bool.false_eq_true, if_false]
  exact ⟨rfl, rfl, rfl, rfl, rfl, rfl⟩

end Sys2Proof.Machine
end

