-- ==== Sys2Proof/Laws/Map.lean ====
section
/-!
SUPPORT. Laws of sparse maps and of byte memory: reading what was inserted, and that every memory operation keeps the canonical
form.
-/

namespace Sys2Proof.Machine

namespace SMap
variable {α : Type}

theorem find?_insert (m : SMap α) (n j : Nat) (x : α) :
    (m.insert n x).find? j = if j = n then some x else m.find? j := by
  induction m with
  | nil =>
    simp only [insert, find?]
    split <;> split <;> simp_all <;> omega
  | cons h m ih =>
    obtain ⟨k, v⟩ := h
    simp only [insert]
    split
    · simp only [find?]; split <;> split <;> (try split) <;> simp_all <;> omega
    · split
      · simp only [find?]; split <;> split <;> simp_all <;> omega
      · simp only [find?, ih]; split <;> (try split) <;> simp_all <;> omega

@[simp] theorem find?_insert_self (m : SMap α) (n : Nat) (x : α) : (m.insert n x).find? n = some x := by
  simp [find?_insert]

theorem find?_insert_ne {m : SMap α} {n j : Nat} {x : α} (h : j ≠ n) : (m.insert n x).find? j = m.find? j := by
  simp [find?_insert, h]

theorem find?_modify (m : SMap α) (n j : Nat) (f : α → α) :
    (m.modify n f).find? j = if j = n then (m.find? n).map f else m.find? j := by
  unfold modify
  cases h : m.find? n with
  | none =>
    simp only
    split
    · next e => subst e; simp [h]
    · rfl
  | some v => simp [find?_insert]

/-- Changing the entry at a key changes what another key holds not at all. -/
@[simp] theorem getD_modify_ne {m : SMap α} {n j : Nat} {f : α → α} {d : α} (h : j ≠ n) :
    (m.modify n f).getD j d = m.getD j d := by
  simp [getD, find?_modify, h]

/-- A listed entry is changed. -/
theorem getD_modify_self {m : SMap α} {n : Nat} {f : α → α} {d : α} (h : (m.find? n).isSome) :
    (m.modify n f).getD n d = f (m.getD n d) := by
  obtain ⟨v, e⟩ := Option.isSome_iff_exists.mp h
  simp [getD, find?_modify, e]

theorem isSome_modify (m : SMap α) (n j : Nat) (f : α → α) : ((m.modify n f).find? j).isSome = (m.find? j).isSome := by
  rw [find?_modify]; split
  · next e => subst e; simp
  · rfl

theorem wfFrom_mono {ok : α → Bool} {lo lo' : Nat} {m : SMap α} (h : lo' ≤ lo) (hm : wfFrom ok lo m = true) :
    wfFrom ok lo' m = true := by
  cases m with
  | nil => rfl
  | cons x m =>
    simp only [wfFrom, Bool.and_eq_true, decide_eq_true_eq] at hm ⊢
    exact ⟨⟨by omega, hm.1.2⟩, hm.2⟩

theorem wfFrom_insert {ok : α → Bool} {lo n : Nat} {x : α} {m : SMap α} (hn : lo ≤ n) (hx : ok x = true)
    (hm : wfFrom ok lo m = true) : wfFrom ok lo (m.insert n x) = true := by
  induction m generalizing lo with
  | nil => simp [insert, wfFrom, hn, hx]
  | cons h m ih =>
    obtain ⟨k, v⟩ := h
    simp only [wfFrom, Bool.and_eq_true, decide_eq_true_eq] at hm
    obtain ⟨⟨hk, hv⟩, hm⟩ := hm
    simp only [insert]
    split
    · simp [wfFrom, hn, hx, hv, hm]; omega
    · split
      · next e => subst e; simp [wfFrom, hn, hx, hm]
      · simp [wfFrom, hk, hv]; exact ih (by omega) hm

theorem wfFrom_erase {ok : α → Bool} {lo n : Nat} {m : SMap α} (hm : wfFrom ok lo m = true) :
    wfFrom ok lo (m.erase n) = true := by
  induction m generalizing lo with
  | nil => rfl
  | cons h m ih =>
    obtain ⟨k, v⟩ := h
    simp only [erase]
    split
    · exact hm
    · simp only [wfFrom, Bool.and_eq_true, decide_eq_true_eq] at hm
      split
      · exact wfFrom_mono (by omega) hm.2
      · simp only [wfFrom, Bool.and_eq_true, decide_eq_true_eq]; exact ⟨hm.1, ih hm.2⟩

/-- In a map whose keys rise from `lo` on, nothing is listed below `lo`. -/
theorem find?_below {ok : α → Bool} {lo n : Nat} {m : SMap α} (hm : wfFrom ok lo m = true) (h : n < lo) : m.find? n = none := by
  cases m with
  | nil => rfl
  | cons x m =>
    simp only [wfFrom, Bool.and_eq_true, decide_eq_true_eq] at hm
    simp only [find?]; split <;> (try split) <;> first | rfl | omega

theorem find?_erase {ok : α → Bool} {lo n j : Nat} {m : SMap α} (hm : wfFrom ok lo m = true) :
    (m.erase n).find? j = if j = n then none else m.find? j := by
  induction m generalizing lo with
  | nil => simp [erase, find?]
  | cons h m ih =>
    obtain ⟨k, v⟩ := h
    simp only [wfFrom, Bool.and_eq_true, decide_eq_true_eq] at hm
    simp only [erase]
    split
    · split
      · next a e => subst e; simp [find?, a]
      · rfl
    · split
      · next e =>
        subst e
        split
        · next e => subst e; exact find?_below hm.2 (by omega)
        · simp only [find?]
          split
          · exact find?_below hm.2 (by omega)
          · simp_all
      · simp only [find?, ih hm.2]
        split <;> (try split) <;> simp_all <;> omega

end SMap

namespace Memory

theorem read_write {m : Memory} (h : m.wf = true) (a c : Nat) (b : Byte) :
    (m.write a b).read c = if c = a then b else m.read c := by
  unfold wf at h
  simp only [read, write, SMap.put, SMap.getD]
  split
  · next e => rw [SMap.find?_erase h]; split <;> simp [e]
  · rw [SMap.find?_insert]; split <;> simp

theorem wf_write {m : Memory} (a : Nat) (b : Byte) (h : m.wf = true) : (m.write a b).wf = true := by
  simp only [wf, write, SMap.put] at h ⊢
  split
  · exact SMap.wfFrom_erase h
  · next e => exact SMap.wfFrom_insert (Nat.zero_le _) (by simpa using e) h

theorem wf_writeBytes {m : Memory} (a : Nat) (bs : List Byte) (h : m.wf = true) : (m.writeBytes a bs).wf = true := by
  induction bs generalizing a m with
  | nil => exact h
  | cons b bs ih => exact ih _ (wf_write a b h)

theorem wf_writeNat {m : Memory} (a n x : Nat) (h : m.wf = true) : (m.writeNat a n x).wf = true := wf_writeBytes _ _ h

/-- A write leaves every byte outside it alone. -/
theorem read_writeBytes_other {m : Memory} (h : m.wf = true) {a c : Nat} {bs : List Byte} (hc : c < a ∨ a + bs.length ≤ c) :
    (m.writeBytes a bs).read c = m.read c := by
  induction bs generalizing a m with
  | nil => rfl
  | cons b bs ih =>
    simp only [List.length_cons] at hc
    rw [writeBytes, ih (wf_write a b h) (by omega), read_write h, if_neg (by omega)]

/-- A byte written reads as written. -/
theorem read_writeBytes {m : Memory} (h : m.wf = true) {a i : Nat} {bs : List Byte} (hi : i < bs.length) :
    (m.writeBytes a bs).read (a + i) = bs[i] := by
  induction bs generalizing a m i with
  | nil => simp at hi
  | cons b bs ih =>
    cases i with
    | zero => rw [writeBytes, read_writeBytes_other (wf_write a b h) (by omega), read_write h]; simp
    | succ i =>
      simp only [List.length_cons] at hi
      have := ih (wf_write a b h) (a := a + 1) (i := i) (by omega)
      rw [writeBytes, show a + (i + 1) = a + 1 + i by omega, this]; simp

end Memory

end Sys2Proof.Machine
end

