-- ==== Sys2Proof/Laws/Home.lean ====
section
/-!
SUPPORT. What the operations of a home slice do to the bytes of memory: recalling an owner, invalidating sharers and dropping a
copy change no byte's latest value, and a write at home changes exactly the bytes written.
-/

namespace Sys2Proof.Machine

/-! ### The fields that the operations leave alone -/

@[simp] theorem State.setHome_mem (s : State) (line : Nat) (h : HomeLine) : (s.setHome line h).mem = s.mem := rfl
@[simp] theorem State.setL1_mem (s : State) (core line : Nat) (l : L1Line) : (s.setL1 core line l).mem = s.mem := rfl
@[simp] theorem State.dropL1_mem (s : State) (core line : Nat) : (s.dropL1 core line).mem = s.mem := rfl
@[simp] theorem State.setHome_l1 (s : State) (line : Nat) (h : HomeLine) (c j : Nat) : (s.setHome line h).l1 c j = s.l1 c j := rfl
@[simp] theorem State.setL1_home (s : State) (core line : Nat) (l : L1Line) : (s.setL1 core line l).coh.home = s.coh.home := rfl
@[simp] theorem State.dropL1_home (s : State) (core line : Nat) : (s.dropL1 core line).coh.home = s.coh.home := rfl
@[simp] theorem State.spendLine_mem (s : State) (ctx line : Nat) : (s.spendLine ctx line).mem = s.mem := by
  unfold State.spendLine; split <;> rfl
@[simp] theorem State.spendLine_home (s : State) (ctx line : Nat) : (s.spendLine ctx line).coh.home = s.coh.home := by
  unfold State.spendLine; split <;> rfl
@[simp] theorem State.spendLine_l1 (s : State) (ctx line c j : Nat) : (s.spendLine ctx line).l1 c j = s.l1 c j := by
  unfold State.spendLine; split <;> rfl
@[simp] theorem State.writeBack_l1 (s : State) (line : Nat) (l : L1Line) (c j : Nat) : (s.writeBack line l).l1 c j = s.l1 c j := by
  unfold State.writeBack
  dsimp only
  split
  · rfl
  · exact State.spendLine_l1 ..

theorem State.raise_mem (s : State) (c t : Nat) : (s.raise c t).mem = s.mem := by unfold State.raise; split <;> rfl
theorem State.raise_home (s : State) (c t : Nat) : (s.raise c t).coh.home = s.coh.home := by unfold State.raise; split <;> rfl
theorem State.raise_l1 (s : State) (c t j line : Nat) : (s.raise c t).l1 j line = s.l1 j line := by
  unfold State.raise; split <;> rfl
@[simp] theorem State.raise_latest (s : State) (c t pa : Nat) : (s.raise c t).latest pa = s.latest pa := by
  unfold State.raise; split <;> rfl

/-! ### Writing back -/

/-- The bytes of a word of a copy, written home one word after another. -/
theorem read_writeWords {m : Memory} (h : m.wf = true) (base : Nat) (d : Nat → List Byte) (hd : ∀ w, (d w).length = 4) (ws : List Nat)
    (a : Nat) :
    let m' := ws.foldl (fun m w => m.writeBytes (base + 4 * w) (d w)) m
    m'.wf = true ∧ m'.read a = if base ≤ a ∧ (a - base) / 4 ∈ ws then (d ((a - base) / 4)).getD ((a - base) % 4) 0 else m.read a := by
  induction ws generalizing m with
  | nil => simpa using h
  | cons w ws ih =>
    obtain ⟨hw, hr⟩ := ih (m := m.writeBytes (base + 4 * w) (d w)) (Memory.wf_writeBytes _ _ h)
    refine ⟨hw, ?_⟩
    rw [List.foldl_cons, hr]
    by_cases hb : base ≤ a
    · by_cases hm : (a - base) / 4 ∈ ws
      · simp [hb, hm]
      · by_cases he : (a - base) / 4 = w
        · have hi : (a - base) % 4 < (d w).length := by rw [hd]; omega
          have ha : a = base + 4 * w + (a - base) % 4 := by omega
          have := Memory.read_writeBytes h (a := base + 4 * w) hi
          rw [← ha] at this
          subst he
          rw [if_neg (by tauto), if_pos (by simp [hb]), this, List.getD_eq_getElem _ _ hi]
        · rw [if_neg (by tauto), if_neg (by simp; tauto), Memory.read_writeBytes_other h]
          rw [hd]; omega
    · rw [if_neg (by tauto), if_neg (by tauto), Memory.read_writeBytes_other h]
      left; omega

theorem L1Line.bytes_length (l : L1Line) (o n : Nat) : (l.bytes o n).length = n := by simp [L1Line.bytes]

theorem L1Line.bytes_getD (l : L1Line) (o n i : Nat) (h : i < n) : (l.bytes o n).getD i 0 = l.data.getD (o + i) 0 := by
  simp [L1Line.bytes, h]

theorem State.writeBack_mem {s : State} (h : s.mem.wf = true) (line : Nat) (l : L1Line) (a : Nat) :
    (s.writeBack line l).mem.wf = true ∧ (s.writeBack line l).mem.read a =
      if a / 128 = line ∧ (a % 128 / 4) ∈ l.dirty then l.data.getD (a % 128) 0 else s.mem.read a := by
  have e : (s.writeBack line l).mem = l.written.foldl (fun m w => m.writeBytes (128 * line + 4 * w) (l.bytes (4 * w) 4)) s.mem := by
    unfold State.writeBack
    dsimp only
    split
    · rfl
    · rw [State.spendLine_mem]
  obtain ⟨w, r⟩ := read_writeWords h (128 * line) (fun w => l.bytes (4 * w) 4) (fun w => by simp [L1Line.bytes_length]) l.written a
  rw [e]
  refine ⟨w, r.trans ?_⟩
  by_cases hl : a / 128 = line
  · have e : (a - 128 * line) / 4 = a % 128 / 4 := by omega
    have e2 : (a - 128 * line) % 4 = a % 4 := by omega
    have hlt : a % 128 / 4 < 32 := by omega
    have hb : 128 * line ≤ a := by omega
    by_cases hd : (a % 128 / 4) ∈ l.dirty
    · simp only [e, e2, hl, hb, L1Line.written, List.mem_filter, hd, hlt, decide_true, and_self, ↓reduceIte]
      rw [L1Line.bytes_getD _ _ _ _ (by omega)]
      congr 1; omega
    · simp [e, hl, hd, L1Line.written]
  · rw [if_neg, if_neg (by tauto)]
    simp only [L1Line.written, List.mem_filter, decide_eq_true_eq]
    rintro ⟨h1, -, h2⟩; omega

/-! ### Recalling an owner -/

theorem State.homeLine_owner (s : State) (line : Nat) : (s.homeLine line).owner = (s.coh.home.find? line).bind (·.owner) := by
  unfold State.homeLine
  cases s.coh.home.find? line <;> rfl

theorem State.homeLine_setHome (s : State) (line j : Nat) (h : HomeLine) :
    (s.setHome line h).homeLine j = if j = line then h else s.homeLine j := by
  simp only [State.homeLine, State.setHome, SMap.find?_insert]
  split <;> rfl

/-- The latest value of a byte, by the owner of its line. -/
theorem State.latest_eq (s : State) (pa : Nat) : s.latest pa = match (s.homeLine (pa / 128)).owner with
    | some c => (match s.l1 c (pa / 128) with
      | some l => if l.st == .own && l.dirty.contains (pa % 128 / 4) then l.data.getD (pa % 128) 0 else s.mem.read pa
      | none => s.mem.read pa)
    | none => s.mem.read pa := by
  rw [State.homeLine_owner]; rfl

/-- After a recall the line has no owner, and other lines keep theirs. -/
theorem State.recall_owner (s : State) (line j : Nat) :
    ((s.recall line).homeLine j).owner = if j = line then none else (s.homeLine j).owner := by
  unfold State.recall
  split
  · next h => split
              · next e => rw [e, h]
              · rfl
  · next c h =>
    rw [State.homeLine_setHome]
    split
    · rfl
    · next hj =>
      split
      · split
        · rw [State.homeLine_owner, State.homeLine_owner, State.dropL1_home, State.writeBack]
          simp only [State.setHome, SMap.find?_insert, hj, ↓reduceIte]
          split
          · rfl
          · rw [State.spendLine_home]
        · rfl
      · rfl

/-- A recall keeps memory canonical, and leaves in memory the latest value of each byte of the line. -/
theorem State.recall_mem {s : State} (h : s.mem.wf = true) (line a : Nat) :
    (s.recall line).mem.wf = true ∧ (s.recall line).mem.read a = if a / 128 = line then s.latest a else s.mem.read a := by
  rw [State.latest_eq]
  unfold State.recall
  cases ho : (s.homeLine line).owner with
  | none =>
    refine ⟨h, ?_⟩
    by_cases e : a / 128 = line
    · subst e; simp [ho]
    · simp [e]
  | some c =>
    simp only [State.setHome_mem]
    cases hl : s.l1 c line with
    | none =>
      refine ⟨h, ?_⟩
      by_cases e : a / 128 = line
      · subst e; simp [ho, hl]
      · simp [e]
    | some l =>
      by_cases hs : l.st = .own
      · simp only [hs, ↓reduceIte, State.dropL1_mem]
        obtain ⟨w, r⟩ := State.writeBack_mem h line l a
        refine ⟨w, r.trans ?_⟩
        by_cases e : a / 128 = line
        · subst e; simp [ho, hl, hs]
        · simp [e]
      · refine ⟨by simpa [hs] using h, ?_⟩
        by_cases e : a / 128 = line
        · subst e; simp [ho, hl, hs]
        · simp [hs, e]

end Sys2Proof.Machine
end

