-- ==== Sys2Proof/Laws/Ops.lean ====
section
/-!
SUPPORT. What the shared operations over strands do, once each: changing one strand, changing every active strand, and giving
results to every active strand.
-/

namespace Sys2Proof.Machine

/-! ### One strand -/

theorem Clump.band_updBand (k : Clump) (b j : Nat) (f : Band → Band) :
    (k.updBand b f).band j = if j = b ∧ b < k.bands.length then f (k.band b) else k.band j := by
  simp only [Clump.band, Clump.updBand, List.getElem?_set]
  by_cases h : b = j
  · subst h
    by_cases hb : b < k.bands.length <;> simp [hb]
  · simp [h, Ne.symm h]

theorem State.clump_updClump (s : State) (c j : Nat) (f : Clump → Clump) (hc : (s.clumps.find? c).isSome) :
    (s.updClump c f).clump j = if j = c then f (s.clump c) else s.clump j := by
  simp only [State.clump, State.updClump]
  split
  · next e => subst e; exact SMap.getD_modify_self hc
  · next e => exact SMap.getD_modify_ne e

theorem State.strand_updStrand {s : State} {c : Nat} {m : Lane} (h : s.Lists c m) (f : Strand → Strand) (j : Nat) (x : Lane) :
    (s.updStrand c m f).strand j x = if j = c ∧ x = m then f (s.strand c m) else s.strand j x := by
  have hs := h.lane
  simp only [State.strand, State.band, State.updStrand, State.updBand, State.clump_updClump _ _ _ _ h.clump] at hs ⊢
  by_cases hj : j = c
  · subst hj
    simp only [↓reduceIte, Clump.band_updBand, true_and]
    by_cases hb : x.band = m.band
    · simp only [hb, true_and, h.band, ↓reduceIte, Band.strand, Band.updStrand]
      by_cases hl : x.lane = m.lane
      · have : x = m := by cases x; cases m; simp_all
        subst this
        simp only [↓reduceIte]
        exact SMap.getD_modify_self hs
      · have : x ≠ m := fun e => hl (e ▸ rfl)
        simp [this, SMap.getD_modify_ne hl]
    · have : x ≠ m := fun e => hb (e ▸ rfl)
      simp [hb, this]
  · simp [hj]

theorem State.onlyStrands_refl (s : State) : s.OnlyStrands s := ⟨rfl, fun _ => ⟨rfl, rfl, fun _ => rfl⟩⟩

theorem State.OnlyStrands.trans {s t u : State} (h : s.OnlyStrands t) (h' : t.OnlyStrands u) : s.OnlyStrands u := by
  refine ⟨?_, fun c => ⟨?_, ?_, fun b => ?_⟩⟩
  · rw [h'.rest, h.rest]
  · rw [(h'.clumps c).own, (h.clumps c).own]
  · rw [(h'.clumps c).length, (h.clumps c).length]
  · rw [(h'.clumps c).bands b, (h.clumps c).bands b]

theorem State.onlyStrands_updStrand (s : State) (c : Nat) (m : Lane) (f : Strand → Strand) :
    s.OnlyStrands (s.updStrand c m f) := by
  refine ⟨rfl, fun j => ?_⟩
  by_cases hc : (s.clumps.find? c).isSome
  · rw [State.updStrand, State.updBand, State.clump_updClump _ _ _ _ hc]
    split
    · next e =>
      subst e
      refine ⟨rfl, by simp [Clump.updBand], fun b => ?_⟩
      rw [Clump.band_updBand]
      split
      · next e => rw [← e.1]; rfl
      · rfl
    · exact ⟨rfl, rfl, fun _ => rfl⟩
  · have e : s.updStrand c m f = s := by
      simp only [Bool.not_eq_true, Option.isSome_eq_false_iff, Option.isNone_iff_eq_none] at hc
      simp [State.updStrand, State.updBand, State.updClump, SMap.modify, hc]
    rw [e]; exact ⟨rfl, rfl, fun _ => rfl⟩

theorem State.lists_updStrand {s : State} {c : Nat} {m : Lane} {f : Strand → Strand} {j : Nat} {x : Lane} (h : s.Lists j x) :
    (s.updStrand c m f).Lists j x := by
  have k := (s.onlyStrands_updStrand c m f).clumps j
  refine ⟨?_, ?_, ?_⟩
  · simpa [State.updStrand, State.updBand, State.updClump, SMap.isSome_modify] using h.clump
  · rw [k.length]; exact h.band
  · have hl := h.lane
    by_cases hc : (s.clumps.find? c).isSome
    · simp only [State.band, State.updStrand, State.updBand, State.clump_updClump _ _ _ _ hc] at hl ⊢
      split
      · next e =>
        subst e
        rw [Clump.band_updBand]
        split
        · next e =>
          rw [e.1] at hl
          simpa [Band.updStrand, SMap.isSome_modify] using hl
        · exact hl
      · exact hl
    · simp only [Bool.not_eq_true, Option.isSome_eq_false_iff, Option.isNone_iff_eq_none] at hc
      simpa [State.band, State.clump, State.updStrand, State.updBand, State.updClump, SMap.modify, hc] using hl

/-! ### Every active strand -/

/-- Changing distinct listed strands of a clump one after another changes each once, and nothing else. -/
theorem State.foldl_updStrand {s : State} {c : Nat} {ms : List Lane} (f : Lane → Strand → Strand) (hn : ms.Nodup)
    (hl : ∀ m ∈ ms, s.Lists c m) :
    let t := ms.foldl (fun u m => u.updStrand c m (f m)) s
    (∀ j x, t.strand j x = if j = c ∧ x ∈ ms then f x (s.strand c x) else s.strand j x) ∧ s.OnlyStrands t := by
  induction ms generalizing s with
  | nil => simpa using s.onlyStrands_refl
  | cons m ms ih =>
    have hm := hl m (by simp)
    obtain ⟨hd, hn⟩ := List.nodup_cons.mp hn
    obtain ⟨a, b⟩ := ih (s := s.updStrand c m (f m)) hn fun x hx => State.lists_updStrand (hl x (by simp [hx]))
    refine ⟨fun j x => ?_, (s.onlyStrands_updStrand c m (f m)).trans b⟩
    rw [List.foldl_cons, a]
    simp only [State.strand_updStrand hm, List.mem_cons]
    by_cases hj : j = c
    · subst hj
      by_cases hx : x = m
      · subst hx; simp [hd]
      · simp [hx]
    · simp [hj]

theorem State.active_nodup {s : State} (h : s.Formed) : s.active.Nodup := h.nodup.filter _

theorem State.active_lists {s : State} (h : s.Formed) : ∀ m ∈ s.active, s.Lists s.sh.clump m :=
  fun m hm => h.lists m (List.mem_filter.mp hm).1

theorem State.OnlyStrands.sh {s t : State} (h : s.OnlyStrands t) : t.sh = s.sh := by rw [h.rest]; rfl

/-- A change to every active strand. -/
theorem State.changes_active {s : State} (h : s.Formed) (f : Lane → Strand → Strand) :
    s.Changes (s.active.foldl (fun t m => t.updStrand s.sh.clump m (f m)) s) f := by
  obtain ⟨a, b⟩ := State.foldl_updStrand f (State.active_nodup h) (State.active_lists h)
  refine ⟨fun m hm => ?_, fun c m hc => ?_, b⟩
  · rw [State.str, b.sh, a]; simp [hm, State.str]
  · rw [a, if_neg (by tauto)]

theorem State.foldl_updStr (s : State) (ms : List Lane) (f : Lane → Strand → Strand) :
    ms.foldl (fun t m => t.updStr m (f m)) s = ms.foldl (fun t m => t.updStrand s.sh.clump m (f m)) s := by
  have : ∀ (u : State), u.sh = s.sh →
      ms.foldl (fun t m => t.updStr m (f m)) u = ms.foldl (fun t m => t.updStrand s.sh.clump m (f m)) u := by
    induction ms with
    | nil => intro u _; rfl
    | cons m ms ih => intro u hu; rw [List.foldl_cons, List.foldl_cons, State.updStr, hu]; exact ih _ hu
  exact this s rfl

/-- `perLane`: the results of `f` are outstanding in each active strand, and nothing else changes. -/
theorem State.perLane_gives {s : State} (h : s.Formed) (f : Lane → List RegWrite) : s.Gives (s.perLane f) f := by
  have e := State.changes_active h fun m x => x.push (f m)
  rw [← State.foldl_updStr] at e
  exact ⟨e.acts, e.others, e.frame⟩

/-- `perLaneSr`: the same, and each active strand's rounding counter takes its new value. -/
theorem State.perLaneSr_changes {s : State} (h : s.Formed) (f : Lane → List RegWrite × Word) :
    s.Changes (s.perLaneSr f) fun m x => { x.push (f m).1 with ctr := (f m).2 } := by
  have e := State.changes_active h fun m x => { x.push (f m).1 with ctr := (f m).2 }
  rw [← State.foldl_updStr] at e
  exact e

/-! ### Every band with a participant -/

theorem State.clump_updBand {s : State} {c : Nat} (hc : (s.clumps.find? c).isSome) (b : Nat) (f : Band → Band) (j : Nat) :
    (s.updBand c b f).clump j = if j = c then (s.clump c).updBand b f else s.clump j := by
  rw [State.updBand, State.clump_updClump _ _ _ _ hc]

theorem State.find?_updBand (s : State) (c b : Nat) (f : Band → Band) (j : Nat) :
    ((s.updBand c b f).clumps.find? j).isSome = (s.clumps.find? j).isSome := by
  simp [State.updBand, State.updClump, SMap.isSome_modify]

/-- Changing distinct bands of a listed clump one after another changes each once, and nothing else. -/
theorem State.foldl_updBand {α : Type} {s : State} {c : Nat} {xs : List α} (n : α → Nat) (f : α → Band → Band)
    (hc : (s.clumps.find? c).isSome) (hn : (xs.map n).Nodup) (hb : ∀ x ∈ xs, n x < (s.clump c).bands.length) :
    let t := xs.foldl (fun u x => u.updBand c (n x) (f x)) s
    (∀ x ∈ xs, t.band c (n x) = f x (s.band c (n x))) ∧
      (∀ j b, (j ≠ c ∨ ∀ x ∈ xs, n x ≠ b) → t.band j b = s.band j b) ∧
      t = { s with clumps := t.clumps } ∧ ∀ j, t.clump j = { s.clump j with bands := (t.clump j).bands } := by
  induction xs generalizing s with
  | nil => simp
  | cons x xs ih =>
    obtain ⟨hd, hn⟩ := List.nodup_cons.mp hn
    have hk := State.clump_updBand hc (n x) (f x)
    have hlen : ((s.updBand c (n x) (f x)).clump c).bands.length = (s.clump c).bands.length := by simp [hk, Clump.updBand]
    obtain ⟨a, o, r, k⟩ := ih (s := s.updBand c (n x) (f x)) (by rw [State.find?_updBand]; exact hc) hn
      fun y hy => by rw [hlen]; exact hb y (by simp [hy])
    have hx := hb x (by simp)
    have hband : ∀ j b, (s.updBand c (n x) (f x)).band j b = if j = c ∧ b = n x then f x (s.band c (n x)) else s.band j b := by
      intro j b
      simp only [State.band, hk]
      by_cases hj : j = c
      · subst hj; simp [Clump.band_updBand, hx]
      · simp [hj]
    refine ⟨?_, ?_, ?_, ?_⟩
    · intro y hy
      rw [List.foldl_cons]
      rcases List.mem_cons.mp hy with rfl | hy'
      · rw [o c (n y) (.inr fun z hz e => hd (List.mem_map.mpr ⟨z, hz, e⟩)), hband]; simp
      · rw [a y hy', hband, if_neg]
        rintro ⟨-, e⟩; exact hd (List.mem_map.mpr ⟨y, hy', e⟩)
    · intro j b h
      rw [List.foldl_cons, o j b (h.imp_right fun h y hy => h y (by simp [hy])), hband, if_neg]
      rintro ⟨rfl, rfl⟩
      rcases h with h | h
      · exact h rfl
      · exact h x (by simp) rfl
    · rw [List.foldl_cons, r]; rfl
    · intro j
      rw [List.foldl_cons, k j, hk]
      split
      · next e => subst e; rfl
      · rfl

theorem State.activeBands_nodup (s : State) : (s.activeBands.map (·.1)).Nodup := by
  have h : ∀ (l : List Nat) (p : Nat → List Lane), ((l.filterMap fun b => if p b = [] then none else some (b, p b)).map (·.1)) =
      l.filter fun b => decide (p b ≠ []) := by
    intro l p
    induction l with
    | nil => rfl
    | cons b l ih => by_cases hb : p b = [] <;> simp [List.filterMap_cons, List.filter_cons, hb, ih]
  rw [State.activeBands, h]
  exact List.nodup_range.filter _

theorem State.activeBands_lt (s : State) : ∀ x ∈ s.activeBands, x.1 < s.clp.bands.length := by
  intro x hx
  obtain ⟨b, hb, e⟩ := List.mem_filterMap.mp hx
  dsimp only at e
  split at e
  · cases e
  · cases e; exact List.mem_range.mp hb

/-- A change to every band with a participant. -/
theorem State.changes_bands {s : State} (h : (s.clumps.find? s.sh.clump).isSome) (f : Nat → List Lane → Band → Band) :
    s.ChangesBands (s.activeBands.foldl (fun t (x : Nat × List Lane) => t.updBand s.sh.clump x.1 (f x.1 x.2)) s) f := by
  obtain ⟨a, o, r, k⟩ := State.foldl_updBand (s := s) (fun x : Nat × List Lane => x.1) (fun x => f x.1 x.2) h s.activeBands_nodup s.activeBands_lt
  refine ⟨fun x hx => ?_, o, r, k⟩
  have e := a x hx
  have hs : (s.activeBands.foldl (fun t (x : Nat × List Lane) => t.updBand s.sh.clump x.1 (f x.1 x.2)) s).sh = s.sh := by rw [r]; rfl
  rw [State.clp, hs]; exact e

/-- `perBand`: the result of `f` is outstanding in each band with a participant (R168), and nothing else changes. -/
theorem State.perBand_changes {s : State} (h : (s.clumps.find? s.sh.clump).isSome) (r : Nat) (f : Nat → List Lane → Word) :
    s.ChangesBands (s.perBand r f) fun b ms x =>
      { x with kout := x.kout ++ [⟨r, f b ms, (s.sh.lanes.filter fun m => m.band == b).map (·.lane)⟩] } :=
  State.changes_bands h fun b ms (x : Band) =>
    { x with kout := x.kout ++ [⟨r, f b ms, (s.sh.lanes.filter fun m => m.band == b).map (·.lane)⟩] }

theorem State.formed_clump {s : State} (h : s.Formed) (hl : s.sh.lanes ≠ []) : (s.clumps.find? s.sh.clump).isSome := by
  obtain ⟨m, hm⟩ := List.exists_mem_of_ne_nil _ hl
  exact (h.lists m hm).clump

end Sys2Proof.Machine
end

