-- ==== Sys2Proof/Laws/State.lean ====
section
/-!
SUPPORT. What each update of the state leaves alone: one lemma for each field and update, so that no later proof unfolds a record
update.
-/

namespace Sys2Proof.Machine

/-! ### `updClump` -/

@[simp] theorem State.updClump_cycle (s : State) (c : Nat) (f : Clump → Clump) : (s.updClump c f).cycle = s.cycle := rfl
@[simp] theorem State.updClump_mhz (s : State) (c : Nat) (f : Clump → Clump) : (s.updClump c f).mhz = s.mhz := rfl
@[simp] theorem State.updClump_baseCycle (s : State) (c : Nat) (f : Clump → Clump) : (s.updClump c f).baseCycle = s.baseCycle := rfl
@[simp] theorem State.updClump_baseNs (s : State) (c : Nat) (f : Clump → Clump) : (s.updClump c f).baseNs = s.baseNs := rfl
@[simp] theorem State.updClump_baseDen (s : State) (c : Nat) (f : Clump → Clump) : (s.updClump c f).baseDen = s.baseDen := rfl
@[simp] theorem State.updClump_mem (s : State) (c : Nat) (f : Clump → Clump) : (s.updClump c f).mem = s.mem := rfl
@[simp] theorem State.updClump_poison (s : State) (c : Nat) (f : Clump → Clump) : (s.updClump c f).poison = s.poison := rfl
@[simp] theorem State.updClump_coh (s : State) (c : Nat) (f : Clump → Clump) : (s.updClump c f).coh = s.coh := rfl
@[simp] theorem State.updClump_dram (s : State) (c : Nat) (f : Clump → Clump) : (s.updClump c f).dram = s.dram := rfl
@[simp] theorem State.updClump_ctl (s : State) (c : Nat) (f : Clump → Clump) : (s.updClump c f).ctl = s.ctl := rfl
@[simp] theorem State.updClump_fw (s : State) (c : Nat) (f : Clump → Clump) : (s.updClump c f).fw = s.fw := rfl
@[simp] theorem State.updClump_ctxs (s : State) (c : Nat) (f : Clump → Clump) : (s.updClump c f).ctxs = s.ctxs := rfl
@[simp] theorem State.updClump_graphs (s : State) (c : Nat) (f : Clump → Clump) : (s.updClump c f).graphs = s.graphs := rfl
@[simp] theorem State.updClump_plantings (s : State) (c : Nat) (f : Clump → Clump) : (s.updClump c f).plantings = s.plantings := rfl
@[simp] theorem State.updClump_waiting (s : State) (c : Nat) (f : Clump → Clump) : (s.updClump c f).waiting = s.waiting := rfl
@[simp] theorem State.updClump_aggs (s : State) (c : Nat) (f : Clump → Clump) : (s.updClump c f).aggs = s.aggs := rfl
@[simp] theorem State.updClump_bins (s : State) (c : Nat) (f : Clump → Clump) : (s.updClump c f).bins = s.bins := rfl
@[simp] theorem State.updClump_ops (s : State) (c : Nat) (f : Clump → Clump) : (s.updClump c f).ops = s.ops := rfl
@[simp] theorem State.updClump_late (s : State) (c : Nat) (f : Clump → Clump) : (s.updClump c f).late = s.late := rfl
@[simp] theorem State.updClump_locks (s : State) (c : Nat) (f : Clump → Clump) : (s.updClump c f).locks = s.locks := rfl
@[simp] theorem State.updClump_journal (s : State) (c : Nat) (f : Clump → Clump) : (s.updClump c f).journal = s.journal := rfl
@[simp] theorem State.updClump_jcount (s : State) (c : Nat) (f : Clump → Clump) : (s.updClump c f).jcount = s.jcount := rfl
@[simp] theorem State.updClump_irqs (s : State) (c : Nat) (f : Clump → Clump) : (s.updClump c f).irqs = s.irqs := rfl
@[simp] theorem State.updClump_slots (s : State) (c : Nat) (f : Clump → Clump) : (s.updClump c f).slots = s.slots := rfl
@[simp] theorem State.updClump_placed (s : State) (c : Nat) (f : Clump → Clump) : (s.updClump c f).placed = s.placed := rfl
@[simp] theorem State.updClump_sheaf (s : State) (c : Nat) (f : Clump → Clump) : (s.updClump c f).sheaf = s.sheaf := rfl
@[simp] theorem State.updClump_agenda (s : State) (c : Nat) (f : Clump → Clump) : (s.updClump c f).agenda = s.agenda := rfl
@[simp] theorem State.updClump_free (s : State) (c : Nat) (f : Clump → Clump) : (s.updClump c f).free = s.free := rfl
@[simp] theorem State.updClump_uid (s : State) (c : Nat) (f : Clump → Clump) : (s.updClump c f).uid = s.uid := rfl

/-! ### `updBand` -/

@[simp] theorem State.updBand_cycle (s : State) (c b : Nat) (f : Band → Band) : (s.updBand c b f).cycle = s.cycle := rfl
@[simp] theorem State.updBand_mhz (s : State) (c b : Nat) (f : Band → Band) : (s.updBand c b f).mhz = s.mhz := rfl
@[simp] theorem State.updBand_baseCycle (s : State) (c b : Nat) (f : Band → Band) : (s.updBand c b f).baseCycle = s.baseCycle := rfl
@[simp] theorem State.updBand_baseNs (s : State) (c b : Nat) (f : Band → Band) : (s.updBand c b f).baseNs = s.baseNs := rfl
@[simp] theorem State.updBand_baseDen (s : State) (c b : Nat) (f : Band → Band) : (s.updBand c b f).baseDen = s.baseDen := rfl
@[simp] theorem State.updBand_mem (s : State) (c b : Nat) (f : Band → Band) : (s.updBand c b f).mem = s.mem := rfl
@[simp] theorem State.updBand_poison (s : State) (c b : Nat) (f : Band → Band) : (s.updBand c b f).poison = s.poison := rfl
@[simp] theorem State.updBand_coh (s : State) (c b : Nat) (f : Band → Band) : (s.updBand c b f).coh = s.coh := rfl
@[simp] theorem State.updBand_dram (s : State) (c b : Nat) (f : Band → Band) : (s.updBand c b f).dram = s.dram := rfl
@[simp] theorem State.updBand_ctl (s : State) (c b : Nat) (f : Band → Band) : (s.updBand c b f).ctl = s.ctl := rfl
@[simp] theorem State.updBand_fw (s : State) (c b : Nat) (f : Band → Band) : (s.updBand c b f).fw = s.fw := rfl
@[simp] theorem State.updBand_ctxs (s : State) (c b : Nat) (f : Band → Band) : (s.updBand c b f).ctxs = s.ctxs := rfl
@[simp] theorem State.updBand_graphs (s : State) (c b : Nat) (f : Band → Band) : (s.updBand c b f).graphs = s.graphs := rfl
@[simp] theorem State.updBand_plantings (s : State) (c b : Nat) (f : Band → Band) : (s.updBand c b f).plantings = s.plantings := rfl
@[simp] theorem State.updBand_waiting (s : State) (c b : Nat) (f : Band → Band) : (s.updBand c b f).waiting = s.waiting := rfl
@[simp] theorem State.updBand_aggs (s : State) (c b : Nat) (f : Band → Band) : (s.updBand c b f).aggs = s.aggs := rfl
@[simp] theorem State.updBand_bins (s : State) (c b : Nat) (f : Band → Band) : (s.updBand c b f).bins = s.bins := rfl
@[simp] theorem State.updBand_ops (s : State) (c b : Nat) (f : Band → Band) : (s.updBand c b f).ops = s.ops := rfl
@[simp] theorem State.updBand_late (s : State) (c b : Nat) (f : Band → Band) : (s.updBand c b f).late = s.late := rfl
@[simp] theorem State.updBand_locks (s : State) (c b : Nat) (f : Band → Band) : (s.updBand c b f).locks = s.locks := rfl
@[simp] theorem State.updBand_journal (s : State) (c b : Nat) (f : Band → Band) : (s.updBand c b f).journal = s.journal := rfl
@[simp] theorem State.updBand_jcount (s : State) (c b : Nat) (f : Band → Band) : (s.updBand c b f).jcount = s.jcount := rfl
@[simp] theorem State.updBand_irqs (s : State) (c b : Nat) (f : Band → Band) : (s.updBand c b f).irqs = s.irqs := rfl
@[simp] theorem State.updBand_slots (s : State) (c b : Nat) (f : Band → Band) : (s.updBand c b f).slots = s.slots := rfl
@[simp] theorem State.updBand_placed (s : State) (c b : Nat) (f : Band → Band) : (s.updBand c b f).placed = s.placed := rfl
@[simp] theorem State.updBand_sheaf (s : State) (c b : Nat) (f : Band → Band) : (s.updBand c b f).sheaf = s.sheaf := rfl
@[simp] theorem State.updBand_agenda (s : State) (c b : Nat) (f : Band → Band) : (s.updBand c b f).agenda = s.agenda := rfl
@[simp] theorem State.updBand_free (s : State) (c b : Nat) (f : Band → Band) : (s.updBand c b f).free = s.free := rfl
@[simp] theorem State.updBand_uid (s : State) (c b : Nat) (f : Band → Band) : (s.updBand c b f).uid = s.uid := rfl

/-! ### `updStrand` -/

@[simp] theorem State.updStrand_cycle (s : State) (c : Nat) (m : Lane) (f : Strand → Strand) : (s.updStrand c m f).cycle = s.cycle := rfl
@[simp] theorem State.updStrand_mhz (s : State) (c : Nat) (m : Lane) (f : Strand → Strand) : (s.updStrand c m f).mhz = s.mhz := rfl
@[simp] theorem State.updStrand_baseCycle (s : State) (c : Nat) (m : Lane) (f : Strand → Strand) : (s.updStrand c m f).baseCycle = s.baseCycle := rfl
@[simp] theorem State.updStrand_baseNs (s : State) (c : Nat) (m : Lane) (f : Strand → Strand) : (s.updStrand c m f).baseNs = s.baseNs := rfl
@[simp] theorem State.updStrand_baseDen (s : State) (c : Nat) (m : Lane) (f : Strand → Strand) : (s.updStrand c m f).baseDen = s.baseDen := rfl
@[simp] theorem State.updStrand_mem (s : State) (c : Nat) (m : Lane) (f : Strand → Strand) : (s.updStrand c m f).mem = s.mem := rfl
@[simp] theorem State.updStrand_poison (s : State) (c : Nat) (m : Lane) (f : Strand → Strand) : (s.updStrand c m f).poison = s.poison := rfl
@[simp] theorem State.updStrand_coh (s : State) (c : Nat) (m : Lane) (f : Strand → Strand) : (s.updStrand c m f).coh = s.coh := rfl
@[simp] theorem State.updStrand_dram (s : State) (c : Nat) (m : Lane) (f : Strand → Strand) : (s.updStrand c m f).dram = s.dram := rfl
@[simp] theorem State.updStrand_ctl (s : State) (c : Nat) (m : Lane) (f : Strand → Strand) : (s.updStrand c m f).ctl = s.ctl := rfl
@[simp] theorem State.updStrand_fw (s : State) (c : Nat) (m : Lane) (f : Strand → Strand) : (s.updStrand c m f).fw = s.fw := rfl
@[simp] theorem State.updStrand_ctxs (s : State) (c : Nat) (m : Lane) (f : Strand → Strand) : (s.updStrand c m f).ctxs = s.ctxs := rfl
@[simp] theorem State.updStrand_graphs (s : State) (c : Nat) (m : Lane) (f : Strand → Strand) : (s.updStrand c m f).graphs = s.graphs := rfl
@[simp] theorem State.updStrand_plantings (s : State) (c : Nat) (m : Lane) (f : Strand → Strand) : (s.updStrand c m f).plantings = s.plantings := rfl
@[simp] theorem State.updStrand_waiting (s : State) (c : Nat) (m : Lane) (f : Strand → Strand) : (s.updStrand c m f).waiting = s.waiting := rfl
@[simp] theorem State.updStrand_aggs (s : State) (c : Nat) (m : Lane) (f : Strand → Strand) : (s.updStrand c m f).aggs = s.aggs := rfl
@[simp] theorem State.updStrand_bins (s : State) (c : Nat) (m : Lane) (f : Strand → Strand) : (s.updStrand c m f).bins = s.bins := rfl
@[simp] theorem State.updStrand_ops (s : State) (c : Nat) (m : Lane) (f : Strand → Strand) : (s.updStrand c m f).ops = s.ops := rfl
@[simp] theorem State.updStrand_late (s : State) (c : Nat) (m : Lane) (f : Strand → Strand) : (s.updStrand c m f).late = s.late := rfl
@[simp] theorem State.updStrand_locks (s : State) (c : Nat) (m : Lane) (f : Strand → Strand) : (s.updStrand c m f).locks = s.locks := rfl
@[simp] theorem State.updStrand_journal (s : State) (c : Nat) (m : Lane) (f : Strand → Strand) : (s.updStrand c m f).journal = s.journal := rfl
@[simp] theorem State.updStrand_jcount (s : State) (c : Nat) (m : Lane) (f : Strand → Strand) : (s.updStrand c m f).jcount = s.jcount := rfl
@[simp] theorem State.updStrand_irqs (s : State) (c : Nat) (m : Lane) (f : Strand → Strand) : (s.updStrand c m f).irqs = s.irqs := rfl
@[simp] theorem State.updStrand_slots (s : State) (c : Nat) (m : Lane) (f : Strand → Strand) : (s.updStrand c m f).slots = s.slots := rfl
@[simp] theorem State.updStrand_placed (s : State) (c : Nat) (m : Lane) (f : Strand → Strand) : (s.updStrand c m f).placed = s.placed := rfl
@[simp] theorem State.updStrand_sheaf (s : State) (c : Nat) (m : Lane) (f : Strand → Strand) : (s.updStrand c m f).sheaf = s.sheaf := rfl
@[simp] theorem State.updStrand_agenda (s : State) (c : Nat) (m : Lane) (f : Strand → Strand) : (s.updStrand c m f).agenda = s.agenda := rfl
@[simp] theorem State.updStrand_free (s : State) (c : Nat) (m : Lane) (f : Strand → Strand) : (s.updStrand c m f).free = s.free := rfl
@[simp] theorem State.updStrand_uid (s : State) (c : Nat) (m : Lane) (f : Strand → Strand) : (s.updStrand c m f).uid = s.uid := rfl

/-! ### `updStr` -/

@[simp] theorem State.updStr_cycle (s : State) (m : Lane) (f : Strand → Strand) : (s.updStr m f).cycle = s.cycle := rfl
@[simp] theorem State.updStr_mhz (s : State) (m : Lane) (f : Strand → Strand) : (s.updStr m f).mhz = s.mhz := rfl
@[simp] theorem State.updStr_baseCycle (s : State) (m : Lane) (f : Strand → Strand) : (s.updStr m f).baseCycle = s.baseCycle := rfl
@[simp] theorem State.updStr_baseNs (s : State) (m : Lane) (f : Strand → Strand) : (s.updStr m f).baseNs = s.baseNs := rfl
@[simp] theorem State.updStr_baseDen (s : State) (m : Lane) (f : Strand → Strand) : (s.updStr m f).baseDen = s.baseDen := rfl
@[simp] theorem State.updStr_mem (s : State) (m : Lane) (f : Strand → Strand) : (s.updStr m f).mem = s.mem := rfl
@[simp] theorem State.updStr_poison (s : State) (m : Lane) (f : Strand → Strand) : (s.updStr m f).poison = s.poison := rfl
@[simp] theorem State.updStr_coh (s : State) (m : Lane) (f : Strand → Strand) : (s.updStr m f).coh = s.coh := rfl
@[simp] theorem State.updStr_dram (s : State) (m : Lane) (f : Strand → Strand) : (s.updStr m f).dram = s.dram := rfl
@[simp] theorem State.updStr_ctl (s : State) (m : Lane) (f : Strand → Strand) : (s.updStr m f).ctl = s.ctl := rfl
@[simp] theorem State.updStr_fw (s : State) (m : Lane) (f : Strand → Strand) : (s.updStr m f).fw = s.fw := rfl
@[simp] theorem State.updStr_ctxs (s : State) (m : Lane) (f : Strand → Strand) : (s.updStr m f).ctxs = s.ctxs := rfl
@[simp] theorem State.updStr_graphs (s : State) (m : Lane) (f : Strand → Strand) : (s.updStr m f).graphs = s.graphs := rfl
@[simp] theorem State.updStr_plantings (s : State) (m : Lane) (f : Strand → Strand) : (s.updStr m f).plantings = s.plantings := rfl
@[simp] theorem State.updStr_waiting (s : State) (m : Lane) (f : Strand → Strand) : (s.updStr m f).waiting = s.waiting := rfl
@[simp] theorem State.updStr_aggs (s : State) (m : Lane) (f : Strand → Strand) : (s.updStr m f).aggs = s.aggs := rfl
@[simp] theorem State.updStr_bins (s : State) (m : Lane) (f : Strand → Strand) : (s.updStr m f).bins = s.bins := rfl
@[simp] theorem State.updStr_ops (s : State) (m : Lane) (f : Strand → Strand) : (s.updStr m f).ops = s.ops := rfl
@[simp] theorem State.updStr_late (s : State) (m : Lane) (f : Strand → Strand) : (s.updStr m f).late = s.late := rfl
@[simp] theorem State.updStr_locks (s : State) (m : Lane) (f : Strand → Strand) : (s.updStr m f).locks = s.locks := rfl
@[simp] theorem State.updStr_journal (s : State) (m : Lane) (f : Strand → Strand) : (s.updStr m f).journal = s.journal := rfl
@[simp] theorem State.updStr_jcount (s : State) (m : Lane) (f : Strand → Strand) : (s.updStr m f).jcount = s.jcount := rfl
@[simp] theorem State.updStr_irqs (s : State) (m : Lane) (f : Strand → Strand) : (s.updStr m f).irqs = s.irqs := rfl
@[simp] theorem State.updStr_slots (s : State) (m : Lane) (f : Strand → Strand) : (s.updStr m f).slots = s.slots := rfl
@[simp] theorem State.updStr_placed (s : State) (m : Lane) (f : Strand → Strand) : (s.updStr m f).placed = s.placed := rfl
@[simp] theorem State.updStr_sheaf (s : State) (m : Lane) (f : Strand → Strand) : (s.updStr m f).sheaf = s.sheaf := rfl
@[simp] theorem State.updStr_agenda (s : State) (m : Lane) (f : Strand → Strand) : (s.updStr m f).agenda = s.agenda := rfl
@[simp] theorem State.updStr_free (s : State) (m : Lane) (f : Strand → Strand) : (s.updStr m f).free = s.free := rfl
@[simp] theorem State.updStr_uid (s : State) (m : Lane) (f : Strand → Strand) : (s.updStr m f).uid = s.uid := rfl

/-! ### `updCtx` -/

@[simp] theorem State.updCtx_cycle (s : State) (c : Nat) (f : Ctx → Ctx) : (s.updCtx c f).cycle = s.cycle := rfl
@[simp] theorem State.updCtx_mhz (s : State) (c : Nat) (f : Ctx → Ctx) : (s.updCtx c f).mhz = s.mhz := rfl
@[simp] theorem State.updCtx_baseCycle (s : State) (c : Nat) (f : Ctx → Ctx) : (s.updCtx c f).baseCycle = s.baseCycle := rfl
@[simp] theorem State.updCtx_baseNs (s : State) (c : Nat) (f : Ctx → Ctx) : (s.updCtx c f).baseNs = s.baseNs := rfl
@[simp] theorem State.updCtx_baseDen (s : State) (c : Nat) (f : Ctx → Ctx) : (s.updCtx c f).baseDen = s.baseDen := rfl
@[simp] theorem State.updCtx_mem (s : State) (c : Nat) (f : Ctx → Ctx) : (s.updCtx c f).mem = s.mem := rfl
@[simp] theorem State.updCtx_poison (s : State) (c : Nat) (f : Ctx → Ctx) : (s.updCtx c f).poison = s.poison := rfl
@[simp] theorem State.updCtx_coh (s : State) (c : Nat) (f : Ctx → Ctx) : (s.updCtx c f).coh = s.coh := rfl
@[simp] theorem State.updCtx_dram (s : State) (c : Nat) (f : Ctx → Ctx) : (s.updCtx c f).dram = s.dram := rfl
@[simp] theorem State.updCtx_ctl (s : State) (c : Nat) (f : Ctx → Ctx) : (s.updCtx c f).ctl = s.ctl := rfl
@[simp] theorem State.updCtx_fw (s : State) (c : Nat) (f : Ctx → Ctx) : (s.updCtx c f).fw = s.fw := rfl
@[simp] theorem State.updCtx_graphs (s : State) (c : Nat) (f : Ctx → Ctx) : (s.updCtx c f).graphs = s.graphs := rfl
@[simp] theorem State.updCtx_plantings (s : State) (c : Nat) (f : Ctx → Ctx) : (s.updCtx c f).plantings = s.plantings := rfl
@[simp] theorem State.updCtx_waiting (s : State) (c : Nat) (f : Ctx → Ctx) : (s.updCtx c f).waiting = s.waiting := rfl
@[simp] theorem State.updCtx_aggs (s : State) (c : Nat) (f : Ctx → Ctx) : (s.updCtx c f).aggs = s.aggs := rfl
@[simp] theorem State.updCtx_bins (s : State) (c : Nat) (f : Ctx → Ctx) : (s.updCtx c f).bins = s.bins := rfl
@[simp] theorem State.updCtx_clumps (s : State) (c : Nat) (f : Ctx → Ctx) : (s.updCtx c f).clumps = s.clumps := rfl
@[simp] theorem State.updCtx_ops (s : State) (c : Nat) (f : Ctx → Ctx) : (s.updCtx c f).ops = s.ops := rfl
@[simp] theorem State.updCtx_late (s : State) (c : Nat) (f : Ctx → Ctx) : (s.updCtx c f).late = s.late := rfl
@[simp] theorem State.updCtx_locks (s : State) (c : Nat) (f : Ctx → Ctx) : (s.updCtx c f).locks = s.locks := rfl
@[simp] theorem State.updCtx_journal (s : State) (c : Nat) (f : Ctx → Ctx) : (s.updCtx c f).journal = s.journal := rfl
@[simp] theorem State.updCtx_jcount (s : State) (c : Nat) (f : Ctx → Ctx) : (s.updCtx c f).jcount = s.jcount := rfl
@[simp] theorem State.updCtx_irqs (s : State) (c : Nat) (f : Ctx → Ctx) : (s.updCtx c f).irqs = s.irqs := rfl
@[simp] theorem State.updCtx_slots (s : State) (c : Nat) (f : Ctx → Ctx) : (s.updCtx c f).slots = s.slots := rfl
@[simp] theorem State.updCtx_placed (s : State) (c : Nat) (f : Ctx → Ctx) : (s.updCtx c f).placed = s.placed := rfl
@[simp] theorem State.updCtx_sheaf (s : State) (c : Nat) (f : Ctx → Ctx) : (s.updCtx c f).sheaf = s.sheaf := rfl
@[simp] theorem State.updCtx_agenda (s : State) (c : Nat) (f : Ctx → Ctx) : (s.updCtx c f).agenda = s.agenda := rfl
@[simp] theorem State.updCtx_free (s : State) (c : Nat) (f : Ctx → Ctx) : (s.updCtx c f).free = s.free := rfl
@[simp] theorem State.updCtx_uid (s : State) (c : Nat) (f : Ctx → Ctx) : (s.updCtx c f).uid = s.uid := rfl

/-! ### `updPlanting` -/

@[simp] theorem State.updPlanting_cycle (s : State) (p : Nat) (f : Planting → Planting) : (s.updPlanting p f).cycle = s.cycle := rfl
@[simp] theorem State.updPlanting_mhz (s : State) (p : Nat) (f : Planting → Planting) : (s.updPlanting p f).mhz = s.mhz := rfl
@[simp] theorem State.updPlanting_baseCycle (s : State) (p : Nat) (f : Planting → Planting) : (s.updPlanting p f).baseCycle = s.baseCycle := rfl
@[simp] theorem State.updPlanting_baseNs (s : State) (p : Nat) (f : Planting → Planting) : (s.updPlanting p f).baseNs = s.baseNs := rfl
@[simp] theorem State.updPlanting_baseDen (s : State) (p : Nat) (f : Planting → Planting) : (s.updPlanting p f).baseDen = s.baseDen := rfl
@[simp] theorem State.updPlanting_mem (s : State) (p : Nat) (f : Planting → Planting) : (s.updPlanting p f).mem = s.mem := rfl
@[simp] theorem State.updPlanting_poison (s : State) (p : Nat) (f : Planting → Planting) : (s.updPlanting p f).poison = s.poison := rfl
@[simp] theorem State.updPlanting_coh (s : State) (p : Nat) (f : Planting → Planting) : (s.updPlanting p f).coh = s.coh := rfl
@[simp] theorem State.updPlanting_dram (s : State) (p : Nat) (f : Planting → Planting) : (s.updPlanting p f).dram = s.dram := rfl
@[simp] theorem State.updPlanting_ctl (s : State) (p : Nat) (f : Planting → Planting) : (s.updPlanting p f).ctl = s.ctl := rfl
@[simp] theorem State.updPlanting_fw (s : State) (p : Nat) (f : Planting → Planting) : (s.updPlanting p f).fw = s.fw := rfl
@[simp] theorem State.updPlanting_ctxs (s : State) (p : Nat) (f : Planting → Planting) : (s.updPlanting p f).ctxs = s.ctxs := rfl
@[simp] theorem State.updPlanting_graphs (s : State) (p : Nat) (f : Planting → Planting) : (s.updPlanting p f).graphs = s.graphs := rfl
@[simp] theorem State.updPlanting_waiting (s : State) (p : Nat) (f : Planting → Planting) : (s.updPlanting p f).waiting = s.waiting := rfl
@[simp] theorem State.updPlanting_aggs (s : State) (p : Nat) (f : Planting → Planting) : (s.updPlanting p f).aggs = s.aggs := rfl
@[simp] theorem State.updPlanting_bins (s : State) (p : Nat) (f : Planting → Planting) : (s.updPlanting p f).bins = s.bins := rfl
@[simp] theorem State.updPlanting_clumps (s : State) (p : Nat) (f : Planting → Planting) : (s.updPlanting p f).clumps = s.clumps := rfl
@[simp] theorem State.updPlanting_ops (s : State) (p : Nat) (f : Planting → Planting) : (s.updPlanting p f).ops = s.ops := rfl
@[simp] theorem State.updPlanting_late (s : State) (p : Nat) (f : Planting → Planting) : (s.updPlanting p f).late = s.late := rfl
@[simp] theorem State.updPlanting_locks (s : State) (p : Nat) (f : Planting → Planting) : (s.updPlanting p f).locks = s.locks := rfl
@[simp] theorem State.updPlanting_journal (s : State) (p : Nat) (f : Planting → Planting) : (s.updPlanting p f).journal = s.journal := rfl
@[simp] theorem State.updPlanting_jcount (s : State) (p : Nat) (f : Planting → Planting) : (s.updPlanting p f).jcount = s.jcount := rfl
@[simp] theorem State.updPlanting_irqs (s : State) (p : Nat) (f : Planting → Planting) : (s.updPlanting p f).irqs = s.irqs := rfl
@[simp] theorem State.updPlanting_slots (s : State) (p : Nat) (f : Planting → Planting) : (s.updPlanting p f).slots = s.slots := rfl
@[simp] theorem State.updPlanting_placed (s : State) (p : Nat) (f : Planting → Planting) : (s.updPlanting p f).placed = s.placed := rfl
@[simp] theorem State.updPlanting_sheaf (s : State) (p : Nat) (f : Planting → Planting) : (s.updPlanting p f).sheaf = s.sheaf := rfl
@[simp] theorem State.updPlanting_agenda (s : State) (p : Nat) (f : Planting → Planting) : (s.updPlanting p f).agenda = s.agenda := rfl
@[simp] theorem State.updPlanting_free (s : State) (p : Nat) (f : Planting → Planting) : (s.updPlanting p f).free = s.free := rfl
@[simp] theorem State.updPlanting_uid (s : State) (p : Nat) (f : Planting → Planting) : (s.updPlanting p f).uid = s.uid := rfl

/-! ### `updSh` -/

@[simp] theorem State.updSh_cycle (s : State) (f : Sheaf → Sheaf) : (s.updSh f).cycle = s.cycle := rfl
@[simp] theorem State.updSh_mhz (s : State) (f : Sheaf → Sheaf) : (s.updSh f).mhz = s.mhz := rfl
@[simp] theorem State.updSh_baseCycle (s : State) (f : Sheaf → Sheaf) : (s.updSh f).baseCycle = s.baseCycle := rfl
@[simp] theorem State.updSh_baseNs (s : State) (f : Sheaf → Sheaf) : (s.updSh f).baseNs = s.baseNs := rfl
@[simp] theorem State.updSh_baseDen (s : State) (f : Sheaf → Sheaf) : (s.updSh f).baseDen = s.baseDen := rfl
@[simp] theorem State.updSh_mem (s : State) (f : Sheaf → Sheaf) : (s.updSh f).mem = s.mem := rfl
@[simp] theorem State.updSh_poison (s : State) (f : Sheaf → Sheaf) : (s.updSh f).poison = s.poison := rfl
@[simp] theorem State.updSh_coh (s : State) (f : Sheaf → Sheaf) : (s.updSh f).coh = s.coh := rfl
@[simp] theorem State.updSh_dram (s : State) (f : Sheaf → Sheaf) : (s.updSh f).dram = s.dram := rfl
@[simp] theorem State.updSh_ctl (s : State) (f : Sheaf → Sheaf) : (s.updSh f).ctl = s.ctl := rfl
@[simp] theorem State.updSh_fw (s : State) (f : Sheaf → Sheaf) : (s.updSh f).fw = s.fw := rfl
@[simp] theorem State.updSh_ctxs (s : State) (f : Sheaf → Sheaf) : (s.updSh f).ctxs = s.ctxs := rfl
@[simp] theorem State.updSh_graphs (s : State) (f : Sheaf → Sheaf) : (s.updSh f).graphs = s.graphs := rfl
@[simp] theorem State.updSh_plantings (s : State) (f : Sheaf → Sheaf) : (s.updSh f).plantings = s.plantings := rfl
@[simp] theorem State.updSh_waiting (s : State) (f : Sheaf → Sheaf) : (s.updSh f).waiting = s.waiting := rfl
@[simp] theorem State.updSh_aggs (s : State) (f : Sheaf → Sheaf) : (s.updSh f).aggs = s.aggs := rfl
@[simp] theorem State.updSh_bins (s : State) (f : Sheaf → Sheaf) : (s.updSh f).bins = s.bins := rfl
@[simp] theorem State.updSh_clumps (s : State) (f : Sheaf → Sheaf) : (s.updSh f).clumps = s.clumps := rfl
@[simp] theorem State.updSh_ops (s : State) (f : Sheaf → Sheaf) : (s.updSh f).ops = s.ops := rfl
@[simp] theorem State.updSh_late (s : State) (f : Sheaf → Sheaf) : (s.updSh f).late = s.late := rfl
@[simp] theorem State.updSh_locks (s : State) (f : Sheaf → Sheaf) : (s.updSh f).locks = s.locks := rfl
@[simp] theorem State.updSh_journal (s : State) (f : Sheaf → Sheaf) : (s.updSh f).journal = s.journal := rfl
@[simp] theorem State.updSh_jcount (s : State) (f : Sheaf → Sheaf) : (s.updSh f).jcount = s.jcount := rfl
@[simp] theorem State.updSh_irqs (s : State) (f : Sheaf → Sheaf) : (s.updSh f).irqs = s.irqs := rfl
@[simp] theorem State.updSh_slots (s : State) (f : Sheaf → Sheaf) : (s.updSh f).slots = s.slots := rfl
@[simp] theorem State.updSh_placed (s : State) (f : Sheaf → Sheaf) : (s.updSh f).placed = s.placed := rfl
@[simp] theorem State.updSh_agenda (s : State) (f : Sheaf → Sheaf) : (s.updSh f).agenda = s.agenda := rfl
@[simp] theorem State.updSh_free (s : State) (f : Sheaf → Sheaf) : (s.updSh f).free = s.free := rfl
@[simp] theorem State.updSh_uid (s : State) (f : Sheaf → Sheaf) : (s.updSh f).uid = s.uid := rfl

/-! ### `irq` -/

@[simp] theorem State.irq_cycle (s : State) (v : Nat) : (s.irq v).cycle = s.cycle := rfl
@[simp] theorem State.irq_mhz (s : State) (v : Nat) : (s.irq v).mhz = s.mhz := rfl
@[simp] theorem State.irq_baseCycle (s : State) (v : Nat) : (s.irq v).baseCycle = s.baseCycle := rfl
@[simp] theorem State.irq_baseNs (s : State) (v : Nat) : (s.irq v).baseNs = s.baseNs := rfl
@[simp] theorem State.irq_baseDen (s : State) (v : Nat) : (s.irq v).baseDen = s.baseDen := rfl
@[simp] theorem State.irq_mem (s : State) (v : Nat) : (s.irq v).mem = s.mem := rfl
@[simp] theorem State.irq_poison (s : State) (v : Nat) : (s.irq v).poison = s.poison := rfl
@[simp] theorem State.irq_coh (s : State) (v : Nat) : (s.irq v).coh = s.coh := rfl
@[simp] theorem State.irq_dram (s : State) (v : Nat) : (s.irq v).dram = s.dram := rfl
@[simp] theorem State.irq_ctl (s : State) (v : Nat) : (s.irq v).ctl = s.ctl := rfl
@[simp] theorem State.irq_fw (s : State) (v : Nat) : (s.irq v).fw = s.fw := rfl
@[simp] theorem State.irq_ctxs (s : State) (v : Nat) : (s.irq v).ctxs = s.ctxs := rfl
@[simp] theorem State.irq_graphs (s : State) (v : Nat) : (s.irq v).graphs = s.graphs := rfl
@[simp] theorem State.irq_plantings (s : State) (v : Nat) : (s.irq v).plantings = s.plantings := rfl
@[simp] theorem State.irq_waiting (s : State) (v : Nat) : (s.irq v).waiting = s.waiting := rfl
@[simp] theorem State.irq_aggs (s : State) (v : Nat) : (s.irq v).aggs = s.aggs := rfl
@[simp] theorem State.irq_bins (s : State) (v : Nat) : (s.irq v).bins = s.bins := rfl
@[simp] theorem State.irq_clumps (s : State) (v : Nat) : (s.irq v).clumps = s.clumps := rfl
@[simp] theorem State.irq_ops (s : State) (v : Nat) : (s.irq v).ops = s.ops := rfl
@[simp] theorem State.irq_late (s : State) (v : Nat) : (s.irq v).late = s.late := rfl
@[simp] theorem State.irq_locks (s : State) (v : Nat) : (s.irq v).locks = s.locks := rfl
@[simp] theorem State.irq_journal (s : State) (v : Nat) : (s.irq v).journal = s.journal := rfl
@[simp] theorem State.irq_jcount (s : State) (v : Nat) : (s.irq v).jcount = s.jcount := rfl
@[simp] theorem State.irq_slots (s : State) (v : Nat) : (s.irq v).slots = s.slots := rfl
@[simp] theorem State.irq_placed (s : State) (v : Nat) : (s.irq v).placed = s.placed := rfl
@[simp] theorem State.irq_sheaf (s : State) (v : Nat) : (s.irq v).sheaf = s.sheaf := rfl
@[simp] theorem State.irq_agenda (s : State) (v : Nat) : (s.irq v).agenda = s.agenda := rfl
@[simp] theorem State.irq_free (s : State) (v : Nat) : (s.irq v).free = s.free := rfl
@[simp] theorem State.irq_uid (s : State) (v : Nat) : (s.irq v).uid = s.uid := rfl

/-! ### `setHome` -/

@[simp] theorem State.setHome_cycle (s : State) (line : Nat) (h : HomeLine) : (s.setHome line h).cycle = s.cycle := rfl
@[simp] theorem State.setHome_mhz (s : State) (line : Nat) (h : HomeLine) : (s.setHome line h).mhz = s.mhz := rfl
@[simp] theorem State.setHome_baseCycle (s : State) (line : Nat) (h : HomeLine) : (s.setHome line h).baseCycle = s.baseCycle := rfl
@[simp] theorem State.setHome_baseNs (s : State) (line : Nat) (h : HomeLine) : (s.setHome line h).baseNs = s.baseNs := rfl
@[simp] theorem State.setHome_baseDen (s : State) (line : Nat) (h : HomeLine) : (s.setHome line h).baseDen = s.baseDen := rfl
@[simp] theorem State.setHome_poison (s : State) (line : Nat) (h : HomeLine) : (s.setHome line h).poison = s.poison := rfl
@[simp] theorem State.setHome_dram (s : State) (line : Nat) (h : HomeLine) : (s.setHome line h).dram = s.dram := rfl
@[simp] theorem State.setHome_ctl (s : State) (line : Nat) (h : HomeLine) : (s.setHome line h).ctl = s.ctl := rfl
@[simp] theorem State.setHome_fw (s : State) (line : Nat) (h : HomeLine) : (s.setHome line h).fw = s.fw := rfl
@[simp] theorem State.setHome_ctxs (s : State) (line : Nat) (h : HomeLine) : (s.setHome line h).ctxs = s.ctxs := rfl
@[simp] theorem State.setHome_graphs (s : State) (line : Nat) (h : HomeLine) : (s.setHome line h).graphs = s.graphs := rfl
@[simp] theorem State.setHome_plantings (s : State) (line : Nat) (h : HomeLine) : (s.setHome line h).plantings = s.plantings := rfl
@[simp] theorem State.setHome_waiting (s : State) (line : Nat) (h : HomeLine) : (s.setHome line h).waiting = s.waiting := rfl
@[simp] theorem State.setHome_aggs (s : State) (line : Nat) (h : HomeLine) : (s.setHome line h).aggs = s.aggs := rfl
@[simp] theorem State.setHome_bins (s : State) (line : Nat) (h : HomeLine) : (s.setHome line h).bins = s.bins := rfl
@[simp] theorem State.setHome_clumps (s : State) (line : Nat) (h : HomeLine) : (s.setHome line h).clumps = s.clumps := rfl
@[simp] theorem State.setHome_ops (s : State) (line : Nat) (h : HomeLine) : (s.setHome line h).ops = s.ops := rfl
@[simp] theorem State.setHome_late (s : State) (line : Nat) (h : HomeLine) : (s.setHome line h).late = s.late := rfl
@[simp] theorem State.setHome_locks (s : State) (line : Nat) (h : HomeLine) : (s.setHome line h).locks = s.locks := rfl
@[simp] theorem State.setHome_journal (s : State) (line : Nat) (h : HomeLine) : (s.setHome line h).journal = s.journal := rfl
@[simp] theorem State.setHome_jcount (s : State) (line : Nat) (h : HomeLine) : (s.setHome line h).jcount = s.jcount := rfl
@[simp] theorem State.setHome_irqs (s : State) (line : Nat) (h : HomeLine) : (s.setHome line h).irqs = s.irqs := rfl
@[simp] theorem State.setHome_slots (s : State) (line : Nat) (h : HomeLine) : (s.setHome line h).slots = s.slots := rfl
@[simp] theorem State.setHome_placed (s : State) (line : Nat) (h : HomeLine) : (s.setHome line h).placed = s.placed := rfl
@[simp] theorem State.setHome_sheaf (s : State) (line : Nat) (h : HomeLine) : (s.setHome line h).sheaf = s.sheaf := rfl
@[simp] theorem State.setHome_agenda (s : State) (line : Nat) (h : HomeLine) : (s.setHome line h).agenda = s.agenda := rfl
@[simp] theorem State.setHome_free (s : State) (line : Nat) (h : HomeLine) : (s.setHome line h).free = s.free := rfl
@[simp] theorem State.setHome_uid (s : State) (line : Nat) (h : HomeLine) : (s.setHome line h).uid = s.uid := rfl

/-! ### `setL1` -/

@[simp] theorem State.setL1_cycle (s : State) (core line : Nat) (l : L1Line) : (s.setL1 core line l).cycle = s.cycle := rfl
@[simp] theorem State.setL1_mhz (s : State) (core line : Nat) (l : L1Line) : (s.setL1 core line l).mhz = s.mhz := rfl
@[simp] theorem State.setL1_baseCycle (s : State) (core line : Nat) (l : L1Line) : (s.setL1 core line l).baseCycle = s.baseCycle := rfl
@[simp] theorem State.setL1_baseNs (s : State) (core line : Nat) (l : L1Line) : (s.setL1 core line l).baseNs = s.baseNs := rfl
@[simp] theorem State.setL1_baseDen (s : State) (core line : Nat) (l : L1Line) : (s.setL1 core line l).baseDen = s.baseDen := rfl
@[simp] theorem State.setL1_poison (s : State) (core line : Nat) (l : L1Line) : (s.setL1 core line l).poison = s.poison := rfl
@[simp] theorem State.setL1_dram (s : State) (core line : Nat) (l : L1Line) : (s.setL1 core line l).dram = s.dram := rfl
@[simp] theorem State.setL1_ctl (s : State) (core line : Nat) (l : L1Line) : (s.setL1 core line l).ctl = s.ctl := rfl
@[simp] theorem State.setL1_fw (s : State) (core line : Nat) (l : L1Line) : (s.setL1 core line l).fw = s.fw := rfl
@[simp] theorem State.setL1_ctxs (s : State) (core line : Nat) (l : L1Line) : (s.setL1 core line l).ctxs = s.ctxs := rfl
@[simp] theorem State.setL1_graphs (s : State) (core line : Nat) (l : L1Line) : (s.setL1 core line l).graphs = s.graphs := rfl
@[simp] theorem State.setL1_plantings (s : State) (core line : Nat) (l : L1Line) : (s.setL1 core line l).plantings = s.plantings := rfl
@[simp] theorem State.setL1_waiting (s : State) (core line : Nat) (l : L1Line) : (s.setL1 core line l).waiting = s.waiting := rfl
@[simp] theorem State.setL1_aggs (s : State) (core line : Nat) (l : L1Line) : (s.setL1 core line l).aggs = s.aggs := rfl
@[simp] theorem State.setL1_bins (s : State) (core line : Nat) (l : L1Line) : (s.setL1 core line l).bins = s.bins := rfl
@[simp] theorem State.setL1_clumps (s : State) (core line : Nat) (l : L1Line) : (s.setL1 core line l).clumps = s.clumps := rfl
@[simp] theorem State.setL1_ops (s : State) (core line : Nat) (l : L1Line) : (s.setL1 core line l).ops = s.ops := rfl
@[simp] theorem State.setL1_late (s : State) (core line : Nat) (l : L1Line) : (s.setL1 core line l).late = s.late := rfl
@[simp] theorem State.setL1_locks (s : State) (core line : Nat) (l : L1Line) : (s.setL1 core line l).locks = s.locks := rfl
@[simp] theorem State.setL1_journal (s : State) (core line : Nat) (l : L1Line) : (s.setL1 core line l).journal = s.journal := rfl
@[simp] theorem State.setL1_jcount (s : State) (core line : Nat) (l : L1Line) : (s.setL1 core line l).jcount = s.jcount := rfl
@[simp] theorem State.setL1_irqs (s : State) (core line : Nat) (l : L1Line) : (s.setL1 core line l).irqs = s.irqs := rfl
@[simp] theorem State.setL1_slots (s : State) (core line : Nat) (l : L1Line) : (s.setL1 core line l).slots = s.slots := rfl
@[simp] theorem State.setL1_placed (s : State) (core line : Nat) (l : L1Line) : (s.setL1 core line l).placed = s.placed := rfl
@[simp] theorem State.setL1_sheaf (s : State) (core line : Nat) (l : L1Line) : (s.setL1 core line l).sheaf = s.sheaf := rfl
@[simp] theorem State.setL1_agenda (s : State) (core line : Nat) (l : L1Line) : (s.setL1 core line l).agenda = s.agenda := rfl
@[simp] theorem State.setL1_free (s : State) (core line : Nat) (l : L1Line) : (s.setL1 core line l).free = s.free := rfl
@[simp] theorem State.setL1_uid (s : State) (core line : Nat) (l : L1Line) : (s.setL1 core line l).uid = s.uid := rfl

/-! ### `dropL1` -/

@[simp] theorem State.dropL1_cycle (s : State) (core line : Nat) : (s.dropL1 core line).cycle = s.cycle := rfl
@[simp] theorem State.dropL1_mhz (s : State) (core line : Nat) : (s.dropL1 core line).mhz = s.mhz := rfl
@[simp] theorem State.dropL1_baseCycle (s : State) (core line : Nat) : (s.dropL1 core line).baseCycle = s.baseCycle := rfl
@[simp] theorem State.dropL1_baseNs (s : State) (core line : Nat) : (s.dropL1 core line).baseNs = s.baseNs := rfl
@[simp] theorem State.dropL1_baseDen (s : State) (core line : Nat) : (s.dropL1 core line).baseDen = s.baseDen := rfl
@[simp] theorem State.dropL1_poison (s : State) (core line : Nat) : (s.dropL1 core line).poison = s.poison := rfl
@[simp] theorem State.dropL1_dram (s : State) (core line : Nat) : (s.dropL1 core line).dram = s.dram := rfl
@[simp] theorem State.dropL1_ctl (s : State) (core line : Nat) : (s.dropL1 core line).ctl = s.ctl := rfl
@[simp] theorem State.dropL1_fw (s : State) (core line : Nat) : (s.dropL1 core line).fw = s.fw := rfl
@[simp] theorem State.dropL1_ctxs (s : State) (core line : Nat) : (s.dropL1 core line).ctxs = s.ctxs := rfl
@[simp] theorem State.dropL1_graphs (s : State) (core line : Nat) : (s.dropL1 core line).graphs = s.graphs := rfl
@[simp] theorem State.dropL1_plantings (s : State) (core line : Nat) : (s.dropL1 core line).plantings = s.plantings := rfl
@[simp] theorem State.dropL1_waiting (s : State) (core line : Nat) : (s.dropL1 core line).waiting = s.waiting := rfl
@[simp] theorem State.dropL1_aggs (s : State) (core line : Nat) : (s.dropL1 core line).aggs = s.aggs := rfl
@[simp] theorem State.dropL1_bins (s : State) (core line : Nat) : (s.dropL1 core line).bins = s.bins := rfl
@[simp] theorem State.dropL1_clumps (s : State) (core line : Nat) : (s.dropL1 core line).clumps = s.clumps := rfl
@[simp] theorem State.dropL1_ops (s : State) (core line : Nat) : (s.dropL1 core line).ops = s.ops := rfl
@[simp] theorem State.dropL1_late (s : State) (core line : Nat) : (s.dropL1 core line).late = s.late := rfl
@[simp] theorem State.dropL1_locks (s : State) (core line : Nat) : (s.dropL1 core line).locks = s.locks := rfl
@[simp] theorem State.dropL1_journal (s : State) (core line : Nat) : (s.dropL1 core line).journal = s.journal := rfl
@[simp] theorem State.dropL1_jcount (s : State) (core line : Nat) : (s.dropL1 core line).jcount = s.jcount := rfl
@[simp] theorem State.dropL1_irqs (s : State) (core line : Nat) : (s.dropL1 core line).irqs = s.irqs := rfl
@[simp] theorem State.dropL1_slots (s : State) (core line : Nat) : (s.dropL1 core line).slots = s.slots := rfl
@[simp] theorem State.dropL1_placed (s : State) (core line : Nat) : (s.dropL1 core line).placed = s.placed := rfl
@[simp] theorem State.dropL1_sheaf (s : State) (core line : Nat) : (s.dropL1 core line).sheaf = s.sheaf := rfl
@[simp] theorem State.dropL1_agenda (s : State) (core line : Nat) : (s.dropL1 core line).agenda = s.agenda := rfl
@[simp] theorem State.dropL1_free (s : State) (core line : Nat) : (s.dropL1 core line).free = s.free := rfl
@[simp] theorem State.dropL1_uid (s : State) (core line : Nat) : (s.dropL1 core line).uid = s.uid := rfl

/-! ### Fresh names and free values -/

@[simp] theorem State.fresh_name (s : State) : s.fresh.1 = s.uid := rfl
@[simp] theorem State.fresh_cycle (s : State) : s.fresh.2.cycle = s.cycle := rfl
@[simp] theorem State.fresh_mhz (s : State) : s.fresh.2.mhz = s.mhz := rfl
@[simp] theorem State.fresh_baseCycle (s : State) : s.fresh.2.baseCycle = s.baseCycle := rfl
@[simp] theorem State.fresh_baseNs (s : State) : s.fresh.2.baseNs = s.baseNs := rfl
@[simp] theorem State.fresh_baseDen (s : State) : s.fresh.2.baseDen = s.baseDen := rfl
@[simp] theorem State.fresh_mem (s : State) : s.fresh.2.mem = s.mem := rfl
@[simp] theorem State.fresh_poison (s : State) : s.fresh.2.poison = s.poison := rfl
@[simp] theorem State.fresh_coh (s : State) : s.fresh.2.coh = s.coh := rfl
@[simp] theorem State.fresh_dram (s : State) : s.fresh.2.dram = s.dram := rfl
@[simp] theorem State.fresh_ctl (s : State) : s.fresh.2.ctl = s.ctl := rfl
@[simp] theorem State.fresh_fw (s : State) : s.fresh.2.fw = s.fw := rfl
@[simp] theorem State.fresh_ctxs (s : State) : s.fresh.2.ctxs = s.ctxs := rfl
@[simp] theorem State.fresh_graphs (s : State) : s.fresh.2.graphs = s.graphs := rfl
@[simp] theorem State.fresh_plantings (s : State) : s.fresh.2.plantings = s.plantings := rfl
@[simp] theorem State.fresh_waiting (s : State) : s.fresh.2.waiting = s.waiting := rfl
@[simp] theorem State.fresh_aggs (s : State) : s.fresh.2.aggs = s.aggs := rfl
@[simp] theorem State.fresh_bins (s : State) : s.fresh.2.bins = s.bins := rfl
@[simp] theorem State.fresh_clumps (s : State) : s.fresh.2.clumps = s.clumps := rfl
@[simp] theorem State.fresh_ops (s : State) : s.fresh.2.ops = s.ops := rfl
@[simp] theorem State.fresh_late (s : State) : s.fresh.2.late = s.late := rfl
@[simp] theorem State.fresh_locks (s : State) : s.fresh.2.locks = s.locks := rfl
@[simp] theorem State.fresh_journal (s : State) : s.fresh.2.journal = s.journal := rfl
@[simp] theorem State.fresh_jcount (s : State) : s.fresh.2.jcount = s.jcount := rfl
@[simp] theorem State.fresh_irqs (s : State) : s.fresh.2.irqs = s.irqs := rfl
@[simp] theorem State.fresh_slots (s : State) : s.fresh.2.slots = s.slots := rfl
@[simp] theorem State.fresh_placed (s : State) : s.fresh.2.placed = s.placed := rfl
@[simp] theorem State.fresh_sheaf (s : State) : s.fresh.2.sheaf = s.sheaf := rfl
@[simp] theorem State.fresh_agenda (s : State) : s.fresh.2.agenda = s.agenda := rfl
@[simp] theorem State.fresh_free (s : State) : s.fresh.2.free = s.free := rfl
@[simp] theorem State.freeValue_cycle (s : State) (w : Nat) : (s.freeValue w).2.cycle = s.cycle := rfl
@[simp] theorem State.freeValue_mhz (s : State) (w : Nat) : (s.freeValue w).2.mhz = s.mhz := rfl
@[simp] theorem State.freeValue_baseCycle (s : State) (w : Nat) : (s.freeValue w).2.baseCycle = s.baseCycle := rfl
@[simp] theorem State.freeValue_baseNs (s : State) (w : Nat) : (s.freeValue w).2.baseNs = s.baseNs := rfl
@[simp] theorem State.freeValue_baseDen (s : State) (w : Nat) : (s.freeValue w).2.baseDen = s.baseDen := rfl
@[simp] theorem State.freeValue_mem (s : State) (w : Nat) : (s.freeValue w).2.mem = s.mem := rfl
@[simp] theorem State.freeValue_poison (s : State) (w : Nat) : (s.freeValue w).2.poison = s.poison := rfl
@[simp] theorem State.freeValue_coh (s : State) (w : Nat) : (s.freeValue w).2.coh = s.coh := rfl
@[simp] theorem State.freeValue_dram (s : State) (w : Nat) : (s.freeValue w).2.dram = s.dram := rfl
@[simp] theorem State.freeValue_ctl (s : State) (w : Nat) : (s.freeValue w).2.ctl = s.ctl := rfl
@[simp] theorem State.freeValue_fw (s : State) (w : Nat) : (s.freeValue w).2.fw = s.fw := rfl
@[simp] theorem State.freeValue_ctxs (s : State) (w : Nat) : (s.freeValue w).2.ctxs = s.ctxs := rfl
@[simp] theorem State.freeValue_graphs (s : State) (w : Nat) : (s.freeValue w).2.graphs = s.graphs := rfl
@[simp] theorem State.freeValue_plantings (s : State) (w : Nat) : (s.freeValue w).2.plantings = s.plantings := rfl
@[simp] theorem State.freeValue_waiting (s : State) (w : Nat) : (s.freeValue w).2.waiting = s.waiting := rfl
@[simp] theorem State.freeValue_aggs (s : State) (w : Nat) : (s.freeValue w).2.aggs = s.aggs := rfl
@[simp] theorem State.freeValue_bins (s : State) (w : Nat) : (s.freeValue w).2.bins = s.bins := rfl
@[simp] theorem State.freeValue_clumps (s : State) (w : Nat) : (s.freeValue w).2.clumps = s.clumps := rfl
@[simp] theorem State.freeValue_ops (s : State) (w : Nat) : (s.freeValue w).2.ops = s.ops := rfl
@[simp] theorem State.freeValue_late (s : State) (w : Nat) : (s.freeValue w).2.late = s.late := rfl
@[simp] theorem State.freeValue_locks (s : State) (w : Nat) : (s.freeValue w).2.locks = s.locks := rfl
@[simp] theorem State.freeValue_journal (s : State) (w : Nat) : (s.freeValue w).2.journal = s.journal := rfl
@[simp] theorem State.freeValue_jcount (s : State) (w : Nat) : (s.freeValue w).2.jcount = s.jcount := rfl
@[simp] theorem State.freeValue_irqs (s : State) (w : Nat) : (s.freeValue w).2.irqs = s.irqs := rfl
@[simp] theorem State.freeValue_slots (s : State) (w : Nat) : (s.freeValue w).2.slots = s.slots := rfl
@[simp] theorem State.freeValue_placed (s : State) (w : Nat) : (s.freeValue w).2.placed = s.placed := rfl
@[simp] theorem State.freeValue_sheaf (s : State) (w : Nat) : (s.freeValue w).2.sheaf = s.sheaf := rfl
@[simp] theorem State.freeValue_agenda (s : State) (w : Nat) : (s.freeValue w).2.agenda = s.agenda := rfl
@[simp] theorem State.freeValue_uid (s : State) (w : Nat) : (s.freeValue w).2.uid = s.uid := rfl

/-! ### Fields of the memory system -/

@[simp] theorem State.setHome_coh_l1 (s : State) (line : Nat) (h : HomeLine) : (s.setHome line h).coh.l1 = s.coh.l1 := rfl
@[simp] theorem State.setHome_coh_mts (s : State) (line : Nat) (h : HomeLine) : (s.setHome line h).coh.mts = s.coh.mts := rfl
@[simp] theorem State.setHome_coh_cts (s : State) (line : Nat) (h : HomeLine) : (s.setHome line h).coh.cts = s.coh.cts := rfl
@[simp] theorem State.setHome_coh_pins (s : State) (line : Nat) (h : HomeLine) : (s.setHome line h).coh.pins = s.coh.pins := rfl
@[simp] theorem State.setHome_coh_spent (s : State) (line : Nat) (h : HomeLine) : (s.setHome line h).coh.spent = s.coh.spent := rfl
@[simp] theorem State.setHome_coh_idle (s : State) (line : Nat) (h : HomeLine) : (s.setHome line h).coh.idle = s.coh.idle := rfl
@[simp] theorem State.setHome_coh_waiting (s : State) (line : Nat) (h : HomeLine) : (s.setHome line h).coh.waiting = s.coh.waiting := rfl
@[simp] theorem State.setHome_coh_monitors (s : State) (line : Nat) (h : HomeLine) : (s.setHome line h).coh.monitors = s.coh.monitors := rfl
@[simp] theorem State.setHome_coh_tlb (s : State) (line : Nat) (h : HomeLine) : (s.setHome line h).coh.tlb = s.coh.tlb := rfl
@[simp] theorem State.setHome_coh_faults (s : State) (line : Nat) (h : HomeLine) : (s.setHome line h).coh.faults = s.coh.faults := rfl
@[simp] theorem State.setHome_coh_invals (s : State) (line : Nat) (h : HomeLine) : (s.setHome line h).coh.invals = s.coh.invals := rfl
@[simp] theorem State.setHome_coh_rtabs (s : State) (line : Nat) (h : HomeLine) : (s.setHome line h).coh.rtabs = s.coh.rtabs := rfl
@[simp] theorem State.setL1_coh_mts (s : State) (core line : Nat) (l : L1Line) : (s.setL1 core line l).coh.mts = s.coh.mts := rfl
@[simp] theorem State.setL1_coh_cts (s : State) (core line : Nat) (l : L1Line) : (s.setL1 core line l).coh.cts = s.coh.cts := rfl
@[simp] theorem State.setL1_coh_pins (s : State) (core line : Nat) (l : L1Line) : (s.setL1 core line l).coh.pins = s.coh.pins := rfl
@[simp] theorem State.setL1_coh_spent (s : State) (core line : Nat) (l : L1Line) : (s.setL1 core line l).coh.spent = s.coh.spent := rfl
@[simp] theorem State.setL1_coh_idle (s : State) (core line : Nat) (l : L1Line) : (s.setL1 core line l).coh.idle = s.coh.idle := rfl
@[simp] theorem State.setL1_coh_waiting (s : State) (core line : Nat) (l : L1Line) : (s.setL1 core line l).coh.waiting = s.coh.waiting := rfl
@[simp] theorem State.setL1_coh_monitors (s : State) (core line : Nat) (l : L1Line) : (s.setL1 core line l).coh.monitors = s.coh.monitors := rfl
@[simp] theorem State.setL1_coh_tlb (s : State) (core line : Nat) (l : L1Line) : (s.setL1 core line l).coh.tlb = s.coh.tlb := rfl
@[simp] theorem State.setL1_coh_faults (s : State) (core line : Nat) (l : L1Line) : (s.setL1 core line l).coh.faults = s.coh.faults := rfl
@[simp] theorem State.setL1_coh_invals (s : State) (core line : Nat) (l : L1Line) : (s.setL1 core line l).coh.invals = s.coh.invals := rfl
@[simp] theorem State.setL1_coh_rtabs (s : State) (core line : Nat) (l : L1Line) : (s.setL1 core line l).coh.rtabs = s.coh.rtabs := rfl
@[simp] theorem State.dropL1_coh_mts (s : State) (core line : Nat) : (s.dropL1 core line).coh.mts = s.coh.mts := rfl
@[simp] theorem State.dropL1_coh_cts (s : State) (core line : Nat) : (s.dropL1 core line).coh.cts = s.coh.cts := rfl
@[simp] theorem State.dropL1_coh_pins (s : State) (core line : Nat) : (s.dropL1 core line).coh.pins = s.coh.pins := rfl
@[simp] theorem State.dropL1_coh_spent (s : State) (core line : Nat) : (s.dropL1 core line).coh.spent = s.coh.spent := rfl
@[simp] theorem State.dropL1_coh_idle (s : State) (core line : Nat) : (s.dropL1 core line).coh.idle = s.coh.idle := rfl
@[simp] theorem State.dropL1_coh_waiting (s : State) (core line : Nat) : (s.dropL1 core line).coh.waiting = s.coh.waiting := rfl
@[simp] theorem State.dropL1_coh_monitors (s : State) (core line : Nat) : (s.dropL1 core line).coh.monitors = s.coh.monitors := rfl
@[simp] theorem State.dropL1_coh_tlb (s : State) (core line : Nat) : (s.dropL1 core line).coh.tlb = s.coh.tlb := rfl
@[simp] theorem State.dropL1_coh_faults (s : State) (core line : Nat) : (s.dropL1 core line).coh.faults = s.coh.faults := rfl
@[simp] theorem State.dropL1_coh_invals (s : State) (core line : Nat) : (s.dropL1 core line).coh.invals = s.coh.invals := rfl
@[simp] theorem State.dropL1_coh_rtabs (s : State) (core line : Nat) : (s.dropL1 core line).coh.rtabs = s.coh.rtabs := rfl

/-! ### The sheaf at hand, and what is looked up by name -/

@[simp] theorem State.updSh_sh (s : State) (f : Sheaf → Sheaf) : (s.updSh f).sh = f s.sh := rfl
@[simp] theorem State.updSh_clump (s : State) (f : Sheaf → Sheaf) (c : Nat) : (s.updSh f).clump c = s.clump c := rfl
@[simp] theorem State.updSh_strand (s : State) (f : Sheaf → Sheaf) (c : Nat) (m : Lane) : (s.updSh f).strand c m = s.strand c m := rfl
@[simp] theorem State.updSh_ctx (s : State) (f : Sheaf → Sheaf) (c : Nat) : (s.updSh f).ctx c = s.ctx c := rfl
@[simp] theorem State.updSh_latest (s : State) (f : Sheaf → Sheaf) (a : Nat) : (s.updSh f).latest a = s.latest a := rfl
@[simp] theorem State.updStrand_sh (s : State) (c : Nat) (m : Lane) (f : Strand → Strand) : (s.updStrand c m f).sh = s.sh := rfl
@[simp] theorem State.updStrand_ctx (s : State) (c : Nat) (m : Lane) (f : Strand → Strand) (k : Nat) :
    (s.updStrand c m f).ctx k = s.ctx k := rfl
@[simp] theorem State.updStrand_latest (s : State) (c : Nat) (m : Lane) (f : Strand → Strand) (a : Nat) :
    (s.updStrand c m f).latest a = s.latest a := rfl
@[simp] theorem State.updClump_sh (s : State) (c : Nat) (f : Clump → Clump) : (s.updClump c f).sh = s.sh := rfl
@[simp] theorem State.updClump_ctx (s : State) (c : Nat) (f : Clump → Clump) (k : Nat) : (s.updClump c f).ctx k = s.ctx k := rfl
@[simp] theorem State.updClump_latest (s : State) (c : Nat) (f : Clump → Clump) (a : Nat) : (s.updClump c f).latest a = s.latest a := rfl
@[simp] theorem State.updCtx_sh (s : State) (c : Nat) (f : Ctx → Ctx) : (s.updCtx c f).sh = s.sh := rfl
@[simp] theorem State.updCtx_clump (s : State) (c : Nat) (f : Ctx → Ctx) (k : Nat) : (s.updCtx c f).clump k = s.clump k := rfl
@[simp] theorem State.updCtx_strand (s : State) (c : Nat) (f : Ctx → Ctx) (k : Nat) (m : Lane) :
    (s.updCtx c f).strand k m = s.strand k m := rfl
@[simp] theorem State.updCtx_latest (s : State) (c : Nat) (f : Ctx → Ctx) (a : Nat) : (s.updCtx c f).latest a = s.latest a := rfl

/-- A context is set, and every other one stays as it is. -/
theorem State.ctx_updCtx {s : State} (h : Sorted s.ctxs) (c k : Nat) (f : Ctx → Ctx) :
    (s.updCtx c f).ctx k = if k = c then f (s.ctx c) else s.ctx k := by
  by_cases e : f (s.ctx c) = {}
  · have e' : (s.updCtx c f).ctxs = s.ctxs.erase c := by simp only [State.updCtx, SMap.put, if_pos e]
    simp only [State.ctx, e', SMap.getD, SMap.find?_erase h]
    by_cases hk : k = c
    · simp only [hk, ↓reduceIte, Option.getD_none]; exact e.symm
    · simp only [hk, ↓reduceIte]
  · have e' : (s.updCtx c f).ctxs = s.ctxs.insert c (f (s.ctx c)) := by simp only [State.updCtx, SMap.put, if_neg e]
    simp only [State.ctx, e', SMap.getD, SMap.find?_insert]
    by_cases hk : k = c <;> simp only [hk, ↓reduceIte, Option.getD_some]

end Sys2Proof.Machine
end

