-- ==== Sys2Proof/Laws/Strand.lean ====
section
/-!
SUPPORT. What parking, waking, holding and trapping a strand do to the strands of the state, once each; and that none of them
changes memory or what caches and homes hold.
-/

namespace Sys2Proof.Machine

/-! ### Registers -/

theorem Strand.reg_setReg {t : Strand} (h : Sorted t.v) (r n : Nat) (x : Word) :
    (t.setReg r x).reg n = if n = r then x else t.reg n := by
  simp only [Strand.reg, Strand.setReg, SMap.put]
  by_cases e : x = 0
  · simp only [e, ↓reduceIte, SMap.getD, SMap.find?_erase h]
    by_cases hn : n = r <;> simp [hn]
  · simp only [e, ↓reduceIte, SMap.getD, SMap.find?_insert]
    by_cases hn : n = r <;> simp [hn]

theorem Strand.pred_zero (t : Strand) : t.pred 0 = true := rfl

/-- A write to p0 is discarded (R17). -/
theorem Strand.setPred_zero (t : Strand) (x : Bool) : t.setPred 0 x = t := rfl

@[simp] theorem Strand.setPred_v (t : Strand) (r : Nat) (x : Bool) : (t.setPred r x).v = t.v := by
  unfold Strand.setPred; split <;> rfl
@[simp] theorem Strand.setReg_p (t : Strand) (r : Nat) (x : Word) : (t.setReg r x).p = t.p := rfl
@[simp] theorem Strand.push_v (t : Strand) (ws : List RegWrite) : (t.push ws).v = t.v := by
  unfold Strand.push Strand.supersede; split <;> rfl
@[simp] theorem Strand.push_pc (t : Strand) (ws : List RegWrite) : (t.push ws).pc = t.pc := by
  unfold Strand.push Strand.supersede; split <;> rfl

/-! ### A clump's own fields -/

/-- A change to a clump that leaves its bands alone leaves every strand alone. -/
theorem State.strand_updClump (s : State) (c : Nat) (f : Clump → Clump) (hf : ∀ k, (f k).bands = k.bands) (j : Nat) (x : Lane) :
    (s.updClump c f).strand j x = s.strand j x := by
  have hb : ((s.updClump c f).clump j).bands = (s.clump j).bands := by
    by_cases hc : (s.clumps.find? c).isSome
    · rw [State.clump_updClump s c j f hc]
      by_cases e : j = c
      · simp only [e, ↓reduceIte, hf]
      · simp only [e, ↓reduceIte]
    · have : s.updClump c f = s := by
        simp only [Bool.not_eq_true, Option.isSome_eq_false_iff, Option.isNone_iff_eq_none] at hc
        simp [State.updClump, SMap.modify, hc]
      rw [this]
  simp only [State.strand, State.band, Clump.band, hb]

theorem State.lists_updClump {s : State} {c : Nat} {f : Clump → Clump} (hf : ∀ k, (f k).bands = k.bands) {j : Nat} {x : Lane}
    (h : s.Lists j x) : (s.updClump c f).Lists j x := by
  have hb : ((s.updClump c f).clump j).bands = (s.clump j).bands := by
    by_cases hc : (s.clumps.find? c).isSome
    · rw [State.clump_updClump s c j f hc]
      by_cases e : j = c
      · simp only [e, ↓reduceIte, hf]
      · simp only [e, ↓reduceIte]
    · have : s.updClump c f = s := by
        simp only [Bool.not_eq_true, Option.isSome_eq_false_iff, Option.isNone_iff_eq_none] at hc
        simp [State.updClump, SMap.modify, hc]
      rw [this]
  refine ⟨?_, ?_, ?_⟩
  · simpa [State.updClump, SMap.isSome_modify] using h.clump
  · rw [hb]; exact h.band
  · simpa only [State.band, Clump.band, hb] using h.lane

/-! ### Becoming ready -/

theorem State.ready_strand {s : State} {c : Nat} {m : Lane} (h : s.Lists c m) (j : Nat) (x : Lane) :
    (s.ready c m).strand j x = if j = c ∧ x = m then
      { s.strand c m with since := s.slotCount (s.clump c).coreNo (s.band c m.band).quad, passes := 0 } else s.strand j x :=
  State.strand_updStrand h _ j x

theorem State.ready_onlyStrands (s : State) (c : Nat) (m : Lane) : s.OnlyStrands (s.ready c m) := s.onlyStrands_updStrand c m _

theorem State.ready_latest (s : State) (c : Nat) (m : Lane) (a : Nat) : (s.ready c m).latest a = s.latest a := rfl
theorem State.ready_ctxs (s : State) (c : Nat) (m : Lane) : (s.ready c m).ctxs = s.ctxs := rfl

/-! ### Waking -/

theorem State.unpark_none {s : State} {c : Nat} {m : Lane} (h : (s.strand c m).park = none) : s.unpark c m = s := by
  simp only [State.unpark, h]

theorem State.unpark_latest (s : State) (c : Nat) (m : Lane) (a : Nat) : (s.unpark c m).latest a = s.latest a := by
  unfold State.unpark; split <;> rfl
theorem State.unpark_ctxs (s : State) (c : Nat) (m : Lane) : (s.unpark c m).ctxs = s.ctxs := by
  unfold State.unpark; split <;> rfl
theorem State.unpark_mem (s : State) (c : Nat) (m : Lane) : (s.unpark c m).mem = s.mem := by
  unfold State.unpark; split <;> rfl
theorem State.unpark_coh (s : State) (c : Nat) (m : Lane) : (s.unpark c m).coh = s.coh := by
  unfold State.unpark; split <;> rfl

/-- A strand whose park ends goes on after the word or issues its chain again; no other strand changes. -/
theorem State.unpark_strand {s : State} {c : Nat} {m : Lane} {p : Park} (h : s.Lists c m) (hp : (s.strand c m).park = some p)
    (j : Nat) (x : Lane) : ∃ since, (s.unpark c m).strand j x = if j = c ∧ x = m then
      { (s.strand c m).unparked p with since := since, passes := 0 } else s.strand j x := by
  have e : s.unpark c m = (((s.updStrand c m fun t => t.unparked p).updClump c fun x => { x with parkedSince := none })).ready c m := by
    unfold State.unpark; rw [hp]
  rw [e]
  generalize hu : s.updStrand c m _ = u
  have hl : u.Lists c m := by rw [← hu]; exact State.lists_updStrand h
  generalize hv : u.updClump c _ = v
  have hl' : v.Lists c m := by rw [← hv]; refine State.lists_updClump ?_ hl; intro k; rfl
  have hs : ∀ j x, v.strand j x = u.strand j x := fun j x => by
    rw [← hv]; refine State.strand_updClump _ _ _ ?_ j x; intro k; rfl
  refine ⟨v.slotCount (v.clump c).coreNo (v.band c m.band).quad, ?_⟩
  rw [State.ready_strand hl', hs, hs, ← hu]
  simp only [State.strand_updStrand h]
  by_cases e : j = c ∧ x = m
  · simp only [e, and_self, ↓reduceIte]
  · simp only [e, ↓reduceIte]

/-! ### Holding and trapping -/

/-- A strand that is held stands where it is, parked at the chain; a strand for which the chain is cancelled already stays so. -/
theorem State.hold_strand {s : State} {m : Lane} (h : s.Lists s.sh.clump m) (hs : s.sh.isStopped m = false) (on : ParkOn)
    (j : Nat) (x : Lane) : (s.hold m on).strand j x =
      if j = s.sh.clump ∧ x = m then { s.str m with park := some ⟨on, s.sh.pc, none⟩ } else s.strand j x := by
  simp only [State.hold, State.stop, hs, Bool.false_eq_true, ↓reduceIte, State.applyStop, State.updStr, State.updSh_sh]
  exact State.strand_updStrand (s := s.updSh _) ⟨h.clump, h.band, h.lane⟩ _ j x

theorem State.hold_latest (s : State) (m : Lane) (on : ParkOn) (a : Nat) : (s.hold m on).latest a = s.latest a := by
  unfold State.hold State.stop; split <;> rfl

theorem State.noteTrap_latest (s : State) (c : Nat) (m : Lane) (t : Trap) (e : Word) (a : Nat) :
    (s.noteTrap c m t e).latest a = s.latest a := rfl
theorem State.noteTrap_ctxs (s : State) (c : Nat) (m : Lane) (t : Trap) (e : Word) : (s.noteTrap c m t e).ctxs = s.ctxs := rfl

theorem State.contextFault_latest (s : State) (c : Nat) (m : Lane) (code v a : Nat) :
    (s.contextFault c m code v).latest a = s.latest a := by
  unfold State.contextFault; dsimp only; split <;> rfl
theorem State.contextFault_clumps (s : State) (c : Nat) (m : Lane) (code v : Nat) : (s.contextFault c m code v).clumps = s.clumps := by
  unfold State.contextFault; dsimp only; split <;> rfl

/-- Delivering a trap changes no byte of memory. -/
theorem State.deliverNow_latest (s : State) (c : Nat) (m : Lane) (t : Trap) (epc back : Word) (a : Nat) :
    (s.deliverNow c m t epc back).latest a = s.latest a := by
  unfold State.deliverNow
  dsimp only
  split
  · rfl
  · rw [State.contextFault_latest]; rfl

theorem State.deliverFrom_latest (s : State) (c : Nat) (m : Lane) (t : Trap) (epc back : Word) (a : Nat) :
    (s.deliverFrom c m t epc back).latest a = s.latest a := by
  unfold State.deliverFrom
  split
  · rfl
  · exact s.deliverNow_latest c m t epc back a

theorem State.trap_latest (s : State) (m : Lane) (t : Trap) (a : Nat) : (s.trap m t).latest a = s.latest a := by
  unfold State.trap State.stop
  split
  · rfl
  · rw [State.applyStop, State.deliver, State.deliverFrom_latest]; rfl

end Sys2Proof.Machine
end

