-- ==== Sys2Proof/Tests/Base.lean ====
section
/-!
SUPPORT. A small state for tests: one resident clump with one band of one strand, whose sheaf is formed; and lemmas by which such a
state meets what the statements suppose.
-/

set_option Elab.async false

namespace Sys2Proof.Tests
open Sys2Proof.Machine Sys2Proof.Claims

/-- The kernel of the test clump. -/
def kern : Kernel :=
  { codeBase := 0x10000, codeLen := 0x1000, regs := 128, bar := 64, acc := 4, slots := 2, spad := 0x10000, resv := 0x4000, rtab := 0x20000,
    nreg := 2 }

/-- The lane of the test strand. -/
abbrev m0 : Lane := ⟨0, 0⟩

/-- A sheaf of the strands in some lanes of band 0 of clump 1, under extension fields. -/
def sheafOf (ls : List Nat) (x : Ext := {}) : Sheaf :=
  { clump := 1, die := 0, core := 0, quad := 0, at_ := 0, pc := 0, next := 1, lanes := ls.map fun l => ⟨0, l⟩, ext := x }

/-- A state of one clump with one band; its planting has a handler at 64. -/
def machine (b : Band) (ls : List Nat) (c : Clump := {}) (x : Ext := {}) : State :=
  { clumps := [(1, { c with planting := 1, kernel := kern, bands := [b] })]
    plantings := [(1, { kernel := kern, handler := some 64 })]
    sheaf := some (sheafOf ls x)
    coh := { tlb := [⟨0, 0, 2 ^ 30, 0x33⟩] }
    uid := 5 }

/-- A band of one strand in lane 0 with some registers. -/
def lone (v : SMap Word) : Band := { strands := [(0, { v := v })] }

/-- One strand with some registers, in a formed sheaf. -/
def tiny (v : SMap Word := []) (x : Ext := {}) : State := machine (lone v) [0] {} x

theorem formed_of (s : State) (h1 : s.sheaf.isSome = true) (h2 : s.sh.lanes.Nodup)
    (h3 : ∀ m ∈ s.sh.lanes, (s.clumps.find? s.sh.clump).isSome = true ∧ m.band < (s.clump s.sh.clump).bands.length ∧
      ((s.band s.sh.clump m.band).strands.find? m.lane).isSome = true) : s.Formed :=
  ⟨h1, h2, fun m hm => ⟨(h3 m hm).1, (h3 m hm).2.1, (h3 m hm).2.2⟩⟩

theorem inv_of (s : State) (h1 : s.mem.wf = true) (h2 : s.coh.l1 = []) (h3 : s.coh.home = [])
    (h4 : ∀ x ∈ s.coh.tlb, x.va % 2 ^ 16 = 0) : s.Inv := by
  have no : ∀ core line l, s.l1 core line ≠ some l := by
    intro core line l
    simp [State.l1, h2, SMap.find?]
  exact ⟨h1, by rw [h2]; rfl, by rw [h3]; rfl, fun _ _ _ _ h => absurd h (no _ _ _), fun _ _ _ _ h => absurd h (no _ _ _),
    fun _ _ _ _ h => absurd h (no _ _ _), h4⟩

theorem machine_formed (b : Band) (c : Clump) (x : Ext) (h : (b.strands.find? 0).isSome = true) : (machine b [0] c x).Formed :=
  formed_of _ rfl (by simp [machine, sheafOf, State.sh]) (by
    intro m hm
    simp [machine, sheafOf, State.sh] at hm
    subst hm
    exact ⟨rfl, Nat.zero_lt_one, h⟩)

theorem tiny_formed (v : SMap Word) (x : Ext := {}) : (tiny v x).Formed := machine_formed _ _ _ rfl

theorem machine_inv (b : Band) (ls : List Nat) (c : Clump) (x : Ext) : (machine b ls c x).Inv := inv_of _ rfl rfl rfl (by
  intro y hy
  simp [machine] at hy
  subst hy
  rfl)

theorem tiny_alone (v : SMap Word) : Alone (tiny v) m0 := ⟨tiny_formed v, rfl⟩

theorem tiny_inv (v : SMap Word) (x : Ext := {}) : (tiny v x).Inv := machine_inv _ _ _ _

/-- What a statement supposes of a sheaf and its clump rests on those two parts of the state alone. -/
theorem formed_like {s t : State} (h : s.Formed) (h1 : t.clumps = s.clumps) (h2 : t.sheaf = s.sheaf) : t.Formed := by
  have e1 : t.sh = s.sh := by simp [State.sh, h2]
  have e2 : ∀ c, t.clump c = s.clump c := fun c => by simp [State.clump, h1]
  have e3 : ∀ c b, t.band c b = s.band c b := fun c b => by simp [State.band, e2]
  exact ⟨by rw [h2]; exact h.sheaf, by rw [e1]; exact h.nodup, fun m hm => by
    rw [e1] at hm ⊢
    exact ⟨by rw [h1]; exact (h.lists m hm).clump, by rw [e2]; exact (h.lists m hm).band, by rw [e3]; exact (h.lists m hm).lane⟩⟩

end Sys2Proof.Tests
end

