-- ==== Sys2Proof/Tests/Effects.lean ====
section
/-!
SUPPORT. One step each of some instructions on the small test state. Expected values are the spec's worked numbers where it gives some
(named at each test), and hand calculation from its rules elsewhere.
-/

set_option Elab.async false

namespace Sys2Proof.Tests
open Sys2Proof.Machine

/-- What an instruction leaves outstanding for the test strand (R15). -/
def gives (i : Instr) (v : SMap Word) (x : Ext := {}) : Option (List RegWrite) :=
  match exec i (tiny v x) with
  | .next t => some (t.strand 1 m0).out.flatten
  | _ => none

/-- What becomes of the test strand's memory: the number at an address. -/
def leaves (i : Instr) (v : SMap Word) (a n : Nat) : Option Nat :=
  match exec i (tiny v) with
  | .next t => some (t.latestNat a n)
  | _ => none

/-! ### Integers: R175 to R182; 01_first_steps.md and 10_lane_arithmetic.md give the numbers of `mul.lo` and `div` -/

theorem test_add_wraps : gives (.add 3 1 2) [(1, 0xFFFFFFFF), (2, 2)] = some [.v 3 1] := by decide +kernel
theorem test_sub_borrows : gives (.sub 3 1 2) [(1, 1), (2, 2)] = some [.v 3 0xFFFFFFFF] := by decide +kernel
theorem test_mulLo_lane5 : gives (.mulLo 3 2 5) [(2, 6), (5, 4)] = some [.v 3 24] := by decide +kernel
theorem test_mulLo_lane0 : gives (.mulLo 3 2 5) [(2, 1), (5, 0xFFFFFFFF)] = some [.v 3 0xFFFFFFFF] := by decide +kernel
theorem test_div_truncates : gives (.div 5 1 2) [(1, 0xFFFFFFF9), (2, 2)] = some [.v 5 0xFFFFFFFD] := by decide +kernel
theorem test_div_zero : gives (.div 5 1 2) [(1, 9)] = some [.v 5 0xFFFFFFFF] := by decide +kernel
theorem test_rem_zero : gives (.rem 5 1 2) [(1, 9)] = some [.v 5 9] := by decide +kernel
theorem test_rem_least : gives (.rem 5 1 2) [(1, 0x80000000), (2, 0xFFFFFFFF)] = some [.v 5 0] := by decide +kernel
theorem test_sra_fills : gives (.sraImm 5 1 31) [(1, 0x80000000)] = some [.v 5 0xFFFFFFFF] := by decide +kernel
theorem test_clz_zero : gives (.clz 5 1) [] = some [.v 5 32] := by decide +kernel
theorem test_addD_carries : gives (.addD 6 6 8) [(6, 0xFFFFFFFF), (8, 1)] = some [.v 6 0, .v 7 1] := by decide +kernel
theorem test_cmpLt_signed : gives (.cmpLt 2 1 2) [(1, 0x80000000), (2, 1)] = some [.p 2 true] := by decide +kernel
theorem test_sel_source_is_destination : gives (.sel 5 5 2 0) [(5, 7), (2, 9)] = some [.v 5 7] := by decide +kernel

/-! ### Floating point: R40 to R46, R190; pk.f8 by the table of 10_lane_arithmetic.md -/

theorem test_fadd : gives (.fadd 1 2 3) [(2, 0x3F800000), (3, 0x40000000)] = some [.v 1 0x40400000] := by decide +kernel
theorem test_fadd_nan : gives (.fadd 1 2 3) [(2, 0xFFC12345), (3, 0x40000000)] = some [.v 1 0x7FC00000] := by decide +kernel
theorem test_fma_reads_destination : gives (.fma 8 6 7) [(6, 0x40000000), (7, 0x40400000), (8, 0x3F800000)] = some [.v 8 0x40E00000] := by
  decide +kernel
theorem test_fmul_overflows : gives (.fmul 1 2 3) [(2, 0x7F7FFFFF), (3, 0x40000000)] = some [.v 1 0x7F800000] := by decide +kernel
theorem test_pkF8_first : gives (.pkF8 9 1 2) [(1, 0x3F000000), (2, 0x3FC00000)] = some [.v 9 0x3C300000] := by decide +kernel
theorem test_pkF8_second : gives (.pkF8 9 3 4) [(3, 0xC0400000), (4, 0x40C00000), (9, 0x3C300000)] = some [.v 9 0x4CC43C30] := by
  decide +kernel

/-! ### Memory and the scratchpad: R104 to R110, R134 -/

theorem test_stW : leaves (.stW 8 6 1 0) [(6, 0x2000), (8, 0x12345678)] 0x2004 4 = some 0x12345678 := by decide +kernel
theorem test_stW_byte_order : leaves (.stW 8 6 0 0) [(6, 0x2000), (8, 0x12345678)] 0x2000 1 = some 0x78 := by decide +kernel
theorem test_atomAdd_memory : leaves (.atomAdd 3 6 8) [(6, 0x2000), (8, 7)] 0x2000 4 = some 7 := by decide +kernel
theorem test_atomAdd_gives_old : gives (.atomAdd 3 6 8) [(6, 0x2000), (8, 7)] = some [.v 3 0] := by decide +kernel

/-! ### The halving sweep of 04_stacked_memory_and_sweeps.md: 3.0 becomes 1.5, and 2^-24 becomes 0 -/

def halving : Sweep :=
  { slot := 0, gen := 1, ctx := 0, base := 0, len := 64, func := 0, fmt := 1, sat := false, bl16 := false, tfmt := 0, c := [0x3F000000]
    map := 0, pieces := [(0, 64)], inStacks := [0] }

theorem test_halving_sweep : halving.clip (0x4200 + 1 * 2 ^ 16) [] = 0x3E00 := by decide +kernel

/-! ### Control flow: R269, R275 -/

/-- Where the test strand goes when its chain ends. -/
def goesTo (i : Instr) (v : SMap Word) : Option Word :=
  match exec i (tiny v) with
  | .next t => some ((t.finish false).strand 1 m0).pc
  | _ => none

theorem test_br_backwards : goesTo (.br 0 0 0x3FFFF 2) [] = some 0xFFFFFFFE := by decide +kernel
theorem test_ret : goesTo .ret [(127, 0x44)] = some 0x44 := by decide +kernel
theorem test_falls_through : goesTo (.add 3 1 2) [] = some 1 := by decide +kernel

end Sys2Proof.Tests
end

