-- ==== Sys2Proof/Tests/MeetsLanes.lean ====
section
/-!
SUPPORT. For each statement about arithmetic, cross-lane, uniform and control-register words, memory accesses and fences: a state
and operands that meet what it supposes.
-/

set_option Elab.async false

namespace Sys2Proof.Tests
open Sys2Proof.Machine Sys2Proof.Claims

/-! ### Arithmetic: a formed sheaf -/

theorem test_meets_AddAndLogicWords : (tiny [(1, 5), (2, 7)]).Formed := tiny_formed _
theorem test_meets_MultiplyWords : (tiny [(1, 0x80000000), (2, 0xFFFFFFFF)]).Formed := tiny_formed _
theorem test_meets_ShiftAndBitFieldWords : (tiny [(1, 1), (2, 64)]).Formed ∧ (5 : BitVec 7).toNat % 2 = 1 := ⟨tiny_formed _, rfl⟩
theorem test_meets_CompareAndPredicateWords : (tiny [(1, 0x80000000), (2, 1)]).Formed ∧ (0 : Word).toNat < 3 ∧
    8 ≤ (8 : BitVec 7).toNat ∧ (7 : BitVec 3) = 7 := ⟨tiny_formed _, by decide, by decide, rfl⟩
theorem test_meets_AddressWords : (tiny [(6, 0xFFFFFFFF), (7, 0)]).Formed ∧ (127 : BitVec 7).toNat % 2 = 1 := ⟨tiny_formed _, rfl⟩
theorem test_meets_FloatArithmetic : (tiny [(2, 0x3F800000), (3, 0x7F800000)]).Formed := tiny_formed _
theorem test_meets_PairedHalvesAndFrnd : (tiny [(2, 0x3F000000)] { rm := 5 }).Formed ∧ (tiny [] { rm := 5 }).sh.ext.rm = 5 :=
  ⟨tiny_formed _ _, rfl⟩
theorem test_meets_FloatChoicesAndCompares : (tiny [(2, 0x7FC00000)]).Formed := tiny_formed _
theorem test_meets_Transcendentals : (tiny [(1, 0x3F800000)]).Formed := tiny_formed _
theorem test_meets_ConversionsAndPacking : (tiny [(1, 0x43960000)]).Formed ∧ forms[(7 : BitVec 3).toNat]? = some (.integer 64 true) ∧
    forms[(13 : BitVec 4).toNat]? = some (.integer 64 false) ∧ 14 ≤ (14 : BitVec 4).toNat := ⟨tiny_formed _, rfl, rfl, by decide⟩
theorem test_meets_CrossLane : (tiny []).Formed ∧ (tiny []).sh.lanes ≠ [] := ⟨tiny_formed _, by decide⟩
theorem test_meets_BandReductions : (tiny []).Formed ∧ ∀ m ∈ (tiny []).sh.lanes, m.lane < 32 := ⟨tiny_formed _, by decide⟩
theorem test_meets_UniformWords : (tiny []).Formed ∧ (tiny []).sh.lanes ≠ [] := ⟨tiny_formed _, by decide⟩
theorem test_meets_ControlRegisters : (tiny []).Formed ∧ (0x14 : BitVec 7).toNat ≤ 0x14 := ⟨tiny_formed _, by decide⟩

/-! ### Memory -/

/-- The test state with its first gibibyte of addresses mapped to host-attached memory on the CXL.io path. -/
def onHost (v : SMap Word) (x : Ext := {}) : State := { tiny v x with coh := { tlb := [⟨0, 0, 2 ^ 30, BitVec.ofNat 64 (hostBase + 0xF3)⟩] } }

theorem onHost_formed (v : SMap Word) (x : Ext := {}) : (onHost v x).Formed := formed_like (tiny_formed v x) rfl rfl
theorem onHost_inv (v : SMap Word) (x : Ext := {}) : (onHost v x).Inv := inv_of _ rfl rfl rfl (by
  intro y hy
  simp [onHost] at hy
  subst hy
  rfl)

/-- An aligned access in the test state's page, at any of its widths. -/
theorem reaches_of (s : State) (va n : Nat) (k : Kind) (h1 : va % n = 0)
    (h2 : s.translate s.ctxNo va n k = .ok va 0x33 0 (2 ^ 30) none) (h3 : s.conflict s.coreOf s.ctxNo va n k.writes = none)
    (h4 : s.lutAt s.coreOf s.ctxNo va = none) (h5 : s.ctl.place va ≠ .control) : Reaches s va n k va 0 :=
  ⟨h1, ⟨0x33, 0, 2 ^ 30, none, h2, rfl⟩, h3, fun _ => h4, h5⟩

/-- The last 16 bytes of a line, in v6 and v7. -/
abbrev atEdge : SMap Word := [(6, 0x2070), (7, 0)]

/-- The same on the CXL.io path. -/
theorem reaches_host (k : Kind) (x : Ext := {})
    (h : (onHost atEdge x).translate 0 0x2070 16 k = .ok (hostBase + 0x2070) (hostBase + 0xF3) 0 (2 ^ 30) none := by decide +kernel) :
    Reaches (onHost atEdge x) 0x2070 16 k (hostBase + 0x2070) 3 := by
  have p : ({} : Ctl).place (hostBase + 0x2070) ≠ .control := by decide +kernel
  exact ⟨rfl, ⟨hostBase + 0xF3, 0, 2 ^ 30, none, h, by decide +kernel⟩, by cases k <;> rfl, fun _ => rfl, p⟩

/-- No window is enabled. -/
theorem tiny_ordinary (v : SMap Word) (x : Ext) (pa : Nat) : Ordinary (tiny v x) pa := by
  intro n w h
  simp [State.windowAt, tiny, machine] at h

theorem test_meets_Loads : Alone (tiny atEdge) m0 ∧ (tiny atEdge).Inv ∧ ((tiny atEdge).addrM m0 6 0 16).toNat = 0x2070 ∧
    Reaches (tiny atEdge) 0x2070 16 .read 0x2070 0 ∧ ¬ OnIo (tiny atEdge) 0x2070 0 ∧ (tiny atEdge).polFault 0x2070 0 0 = false ∧
    HasToken (tiny atEdge) 0x2070 ∧ (tiny atEdge).poisoned 0x2070 16 = false :=
  ⟨tiny_alone _, tiny_inv _, by decide +kernel, reaches_of _ _ _ _ rfl (by decide +kernel) (by decide +kernel) (by decide +kernel)
    (by decide +kernel), by unfold OnIo; decide, by decide +kernel, by unfold HasToken; decide +kernel, by decide +kernel⟩

theorem test_meets_Loads_host : Alone (onHost atEdge) m0 ∧ (onHost atEdge).Inv ∧ ((onHost atEdge).addrM m0 6 0 16).toNat = 0x2070 ∧
    Reaches (onHost atEdge) 0x2070 16 .read (hostBase + 0x2070) 3 ∧ OnIo (onHost atEdge) (hostBase + 0x2070) 3 ∧
    (onHost atEdge).polFault (hostBase + 0x2070) 3 0 = false ∧ (onHost atEdge).poisoned (hostBase + 0x2070) 16 = false :=
  ⟨⟨onHost_formed _, rfl⟩, onHost_inv _, by decide +kernel, reaches_host _, by unfold OnIo; decide +kernel, by decide +kernel,
    by decide +kernel⟩

theorem test_meets_LoadsKeepMemory : (tiny atEdge).Inv ∧ ∃ u, exec (.ldW 8 6 0 0) (tiny atEdge) = .next u := ⟨tiny_inv _, _, rfl⟩

/-- A release, at device scope or at system scope. -/
abbrev rel : Ext := { qual := true, order := 2 }
abbrev relSys : Ext := { qual := true, order := 2, scope := 6 }

theorem nothing_of (s : State) (m : Lane) (n : Nat) (h1 : s.ops = []) (h2 : s.late = []) (h3 : (s.str m).host = []) : NothingToRelease s m n :=
  ⟨⟨by simp [bandOps, h1], by simp [h2]⟩, fun _ => h3⟩

theorem test_meets_Stores : Alone (tiny atEdge rel) m0 ∧ (tiny atEdge rel).Inv ∧ ((tiny atEdge rel).addrM m0 6 0 16).toNat = 0x2070 ∧
    Reaches (tiny atEdge rel) 0x2070 16 .write 0x2070 0 ∧ MayRelease (tiny atEdge rel) m0 0x2070 ∧
    (tiny atEdge rel).polFault 0x2070 0 0 = false ∧ Ordinary (tiny atEdge rel) 0x2070 ∧ HasToken (tiny atEdge rel) 0x2070 :=
  ⟨⟨tiny_formed _ _, by decide +kernel⟩, tiny_inv _ _, by decide +kernel, reaches_of _ _ _ _ rfl (by decide +kernel) (by decide +kernel)
    (by decide +kernel) (by decide +kernel), fun _ => nothing_of _ _ _ rfl rfl rfl, by decide +kernel, tiny_ordinary _ _ _,
    by unfold HasToken; decide +kernel⟩

/-- A strand whose request on the CXL.io path holds a release at system scope. -/
def pendingBand : Band := { strands := [(0, { v := atEdge, host := [{ pa := hostBase, act := .write [0] }] })] }
def pendingHost : State := { machine pendingBand [0] {} relSys with coh := (onHost []).coh }

theorem pendingHost_formed : pendingHost.Formed := formed_like (machine_formed pendingBand {} relSys rfl) rfl rfl

theorem test_meets_Stores_held : Alone pendingHost m0 ∧ pendingHost.Inv ∧ ((pendingHost).addrM m0 6 0 16).toNat = 0x2070 ∧
    Reaches pendingHost 0x2070 16 .write (hostBase + 0x2070) 3 ∧ ¬ MayRelease pendingHost m0 (hostBase + 0x2070) :=
  ⟨⟨pendingHost_formed, by decide +kernel⟩, inv_of _ rfl rfl rfl (onHost_inv []).pages, by decide +kernel,
    ⟨rfl, ⟨hostBase + 0xF3, 0, 2 ^ 30, none, by decide +kernel, by decide +kernel⟩, rfl, fun _ => rfl, by decide +kernel⟩, by
      intro h
      exact absurd ((h (by decide)).2 (by decide +kernel)) (by decide +kernel)⟩

/-- A window that takes sums, over the test page. -/
def summing : State := { tiny atEdge with ctl := { windows := [(0, { base := 0x2000, len := 0x1000, cfg := 2 ^ 31 + 1 })] } }

theorem test_meets_Stores_policy : Alone summing m0 ∧ summing.Inv ∧ Reaches summing 0x2070 16 .write 0x2070 0 ∧
    MayRelease summing m0 0x2070 ∧ ¬ Ordinary summing 0x2070 :=
  ⟨⟨formed_like (tiny_formed atEdge) rfl rfl, rfl⟩, inv_of _ rfl rfl rfl (tiny_inv []).pages,
    reaches_of _ _ _ _ rfl (by decide +kernel) (by decide +kernel) (by decide +kernel) (by decide +kernel),
    fun _ => nothing_of _ _ _ rfl rfl rfl, fun h => absurd (h 0 _ rfl) (by decide)⟩

theorem test_meets_AtomicUpdates : Alone (tiny atEdge rel) m0 ∧ (tiny atEdge rel).Inv ∧ MayRelease (tiny atEdge rel) m0 0x2070 ∧
    Ordinary (tiny atEdge rel) 0x2070 ∧ ((tiny atEdge rel).opA64 m0 6).toNat = 0x2070 ∧
    Reaches (tiny atEdge rel) 0x2070 4 .atomic 0x2070 0 ∧ Reaches (tiny atEdge rel) 0x2070 16 .atomic 0x2070 0 ∧
    (tiny atEdge rel).poisoned 0x2070 16 = false :=
  ⟨⟨tiny_formed _ _, by decide +kernel⟩, tiny_inv _ _, fun _ => nothing_of _ _ _ rfl rfl rfl, tiny_ordinary _ _ _, by decide +kernel,
    reaches_of _ _ _ _ rfl (by decide +kernel) (by decide +kernel) (by decide +kernel) (by decide +kernel),
    reaches_of _ _ _ _ rfl (by decide +kernel) (by decide +kernel) (by decide +kernel) (by decide +kernel), by decide +kernel⟩

/-- A disabled window of F32 sums, over the test page. -/
def idleWindow : State := { tiny atEdge with ctl := { windows := [(0, { base := 0x2000, len := 0x1000, cfg := 1 })] } }

theorem test_meets_AtomicUpdates_idle : Alone idleWindow m0 ∧ idleWindow.Inv ∧ MayRelease idleWindow m0 0x2070 ∧ Ordinary idleWindow 0x2070 ∧ IdleSum idleWindow 0x2070 ∧
    (idleWindow.opA64 m0 6).toNat = 0x2070 ∧ Reaches idleWindow 0x2070 4 .atomic 0x2070 0 :=
  ⟨⟨formed_like (tiny_formed atEdge) rfl rfl, rfl⟩, inv_of _ rfl rfl rfl (tiny_inv []).pages, fun _ => nothing_of _ _ _ rfl rfl rfl,
    by intro n w h; simp [State.windowAt, idleWindow, Window.on] at h; exact absurd h.1 (by decide), ⟨_, List.mem_singleton.2 rfl, by decide⟩, by decide +kernel,
    reaches_of _ _ _ _ rfl (by decide +kernel) (by decide +kernel) (by decide +kernel) (by decide +kernel)⟩

theorem test_meets_AtomicUpdates_host : Alone (onHost atEdge) m0 ∧ (onHost atEdge).Inv ∧ MayRelease (onHost atEdge) m0 (hostBase + 0x2070) ∧
    Ordinary (onHost atEdge) (hostBase + 0x2070) ∧ ((onHost atEdge).opA64 m0 6).toNat = 0x2070 ∧
    Reaches (onHost atEdge) 0x2070 16 .atomic (hostBase + 0x2070) 3 ∧ (onHost atEdge).ctl.place (hostBase + 0x2070) = .host ∧
    (onHost atEdge).poisoned (hostBase + 0x2070) 16 = false :=
  ⟨⟨onHost_formed _, rfl⟩, onHost_inv _, fun _ => nothing_of _ _ _ rfl rfl rfl, tiny_ordinary atEdge {} _, by decide +kernel,
    reaches_host _, by decide +kernel, by decide +kernel⟩

/-! ### Fences and cache control -/

/-- A copy of the test band under way. -/
def copying (d : CopyDesc) (n : Nat) : Op := { id := n, ctx := 0, clump := 1, band := 0, die := 0, core := 0, kind := .copy d 0 }

/-- A copy of nothing. -/
def noCopy : CopyDesc :=
  { form := 0, gaddr := 0, soff := 0, ioff := 0, rows := 0, rowlen := 0, gstride := 0, sstride := 0, cval := 0, cw := false, esize := 4 }

/-- A sweep over one row group of context 0. -/
def running : Sweep :=
  { slot := 3, gen := 1, ctx := 0, base := 0, len := 64, func := 3, fmt := 3, sat := false, bl16 := false, tfmt := 0, c := [], map := 0,
    pieces := [(0x100000, 64)], inStacks := [0] }

/-- The test strand with an operation under way, and with a sweep running. -/
def withOp : State := { tiny [] with ops := [copying noCopy 4] }
def withSweep (v : SMap Word) (at_ : Nat) : State := { tiny v with dram := { sweeps := [{ running with pieces := [(at_, 64)] }] } }

theorem withOp_formed : withOp.Formed := formed_like (tiny_formed []) rfl rfl
theorem withSweep_formed (v : SMap Word) (a : Nat) : (withSweep v a).Formed := formed_like (tiny_formed v) rfl rfl
theorem withSweep_inv (v : SMap Word) (a : Nat) : (withSweep v a).Inv := inv_of _ rfl rfl rfl (tiny_inv v).pages

theorem test_meets_Fences : (tiny []).Formed ∧ (∀ m ∈ (tiny []).active, ¬ Waits (tiny []) m 0 5) ∧
    ∀ m ∈ (tiny []).active, (tiny []).runningSweeps (tiny []).ctxNo = [] ∧ (tiny []).bandUpdates (tiny []).sh.clump m.band = false :=
  ⟨tiny_formed _, fun m hm h => h.2.2 (nothing_of (tiny []) m 5 rfl rfl (by
    simp [State.active, tiny, machine, sheafOf, State.sh] at hm
    rw [hm.1]; rfl)), by decide +kernel⟩

theorem withOp_waits : Waits withOp m0 0 5 := ⟨by decide, rfl, fun h => absurd h.1.1 (by decide +kernel)⟩

theorem test_meets_Fences_waiting : Alone withOp m0 ∧ Waits withOp m0 0 5 ∧ Alone (withSweep [] 0x100000) m0 ∧
    ((withSweep [] 0x100000).str m0).fenced = false ∧ (withSweep [] 0x100000).runningSweeps (withSweep [] 0x100000).ctxNo ≠ [] :=
  ⟨⟨withOp_formed, rfl⟩, withOp_waits, ⟨withSweep_formed _ _, rfl⟩, rfl, by decide +kernel⟩

theorem names_of (s : State) (h : s.translate s.ctxNo (s.opA64 m0 6).toNat 1 .read = .ok 0x2070 0x33 0 (2 ^ 30) none) :
    Names s m0 6 0x2000 0 := ⟨0x33, 0, 2 ^ 30, none, 0x2070, h, rfl, by decide, by decide, rfl⟩

theorem test_meets_CacheControl : Alone (tiny atEdge) m0 ∧ (tiny atEdge).Inv ∧ Names (tiny atEdge) m0 6 0x2000 0 ∧
    HasToken (tiny atEdge) 0x2000 ∧ (tiny atEdge).polFault 0x2000 0 3 = false :=
  ⟨tiny_alone _, tiny_inv _, names_of _ (by decide +kernel), by unfold HasToken; decide +kernel, by decide +kernel⟩

theorem test_meets_CacheControl_policy : Alone (withSweep atEdge 0x2000) m0 ∧ (withSweep atEdge 0x2000).Inv ∧
    Names (withSweep atEdge 0x2000) m0 6 0x2000 0 ∧ (withSweep atEdge 0x2000).polFault 0x2000 0 3 = true :=
  ⟨⟨withSweep_formed _ _, rfl⟩, withSweep_inv _ _, names_of _ (by decide +kernel), by decide +kernel⟩

end Sys2Proof.Tests
end

