-- ==== Sys2Proof/Tests/MeetsWaits.lean ====
section
/-!
SUPPORT. For each statement about barriers, waits, sleeping and swapping out: a state and operands that meet what it supposes.
-/

set_option Elab.async false

namespace Sys2Proof.Tests
open Sys2Proof.Machine Sys2Proof.Claims

/-! ### Barriers -/

theorem tidy_of (c : Clump) (h1 : SMap.wfFrom (fun _ => true) 0 c.bars = true)
    (h2 : (c.bands.all fun b => SMap.wfFrom (fun _ => true) 0 b.strands) = true) : Tidy c :=
  ⟨h1, by simpa [Sorted] using h2⟩

/-- Two clumps of one thicket. -/
def thicket : State :=
  { tiny [] with clumps := [(1, { planting := 1, kernel := kern, bands := [lone []], thicket := 1, peer := some 2 }),
                            (2, { planting := 1, kernel := kern, bands := [lone []], thicket := 2, peer := some 1 })] }

theorem thicket_formed : thicket.Formed := formed_of _ rfl (by decide +kernel) (by decide +kernel)

theorem test_meets_BarrierArrivals : Alone (tiny []) m0 ∧ ((tiny []).str m0).park = none ∧ MayArrive (tiny []) m0 63 false ∧
    (∀ x ∈ meets (tiny []), Tidy ((tiny []).clump x)) ∧ lastArrival (tiny []) m0 63 false :=
  ⟨tiny_alone _, by decide +kernel, ⟨by decide +kernel, by decide +kernel, by decide⟩,
    by
      intro x hx
      have e : x = 1 := by
        have y : meets (tiny []) = [1] := by decide +kernel
        simpa [y] using hx
      subst e
      exact tidy_of _ rfl rfl,
    by unfold lastArrival hasArrived; decide +kernel⟩

theorem test_meets_BarrierArrivals_thicket : Alone thicket m0 ∧ (thicket.str m0).park = none ∧ MayArrive thicket m0 0 true ∧
    (∀ x ∈ meets thicket, Tidy (thicket.clump x)) ∧ ¬ lastArrival thicket m0 0 true :=
  ⟨⟨thicket_formed, rfl⟩, by decide +kernel, ⟨by decide +kernel, by decide, by decide +kernel⟩,
    by
      intro x hx
      have e : meets thicket = [1, 2] := by decide +kernel
      simp only [e, List.mem_cons, List.not_mem_nil, or_false] at hx
      rcases hx with rfl | rfl <;> exact tidy_of _ rfl rfl,
    by unfold lastArrival hasArrived; decide +kernel⟩

/-- A strand that has arrived at barrier 3. -/
def arrivedOnce : State := machine { strands := [(0, { arrived := 8 })] } [0]

theorem test_meets_BarrierModesAndWaits : Alone (tiny [(2, 65536)]) m0 ∧ Sorted (tiny [(2, 65536)]).clp.bars ∧
    (tiny [(2, 65536)]).clp.arrivals 3 = 0 ∧ ((tiny [(2, 65536)]).bar 1 3).thicket = false ∧ ((tiny [(2, 65536)]).opB m0 2).toNat ≤ 65536 ∧
    Alone (tiny [(2, 65537)]) m0 ∧ 65536 < ((tiny [(2, 65537)]).opB m0 2).toNat ∧
    Alone arrivedOnce m0 ∧ Sorted arrivedOnce.clp.bars ∧ (arrivedOnce.bar 1 3).count = 0 ∧ (arrivedOnce.str m0).arrived.getLsbD 3 = true :=
  ⟨tiny_alone _, rfl, by decide +kernel, by decide +kernel, by decide +kernel, tiny_alone _, by decide +kernel,
    ⟨machine_formed _ _ _ rfl, rfl⟩, rfl, by decide +kernel, by decide +kernel⟩

/-! ### Waits -/

theorem tiny_oneBand (v : SMap Word) (x : Ext := {}) (h : (tiny v x).active = [m0] := by rfl) : OneBand (tiny v x) 0 :=
  ⟨tiny_formed _ _, by rw [h]; simp, by rw [h]; simp⟩

/-- The last word of a page; and an address that is not a word's. -/
abbrev lastWord : SMap Word := [(6, 0xFFFC), (7, 0)]
abbrev noWord : SMap Word := [(6, 0xFFFD), (7, 0)]

theorem test_meets_Waits : OneBand (tiny lastWord) 0 ∧ (tiny lastWord).Inv ∧ lowestLane (tiny lastWord).active = m0 ∧
    ((tiny lastWord).opA64 m0 6).toNat = 0xFFFC ∧
    (tiny lastWord).translate (tiny lastWord).ctxNo 0xFFFC 4 .read = .ok 0xFFFC 0x33 0 (2 ^ 30) none ∧ pteHome 0x33 ≠ 1 ∧
    (tiny lastWord).ctl.place 0xFFFC ≠ .control ∧ (tiny lastWord).ctl.place 0xFFFC ≠ .host :=
  ⟨tiny_oneBand _, tiny_inv _, rfl, by decide +kernel, by decide +kernel, by decide, by decide +kernel, by decide +kernel⟩

/-- A strand that a rollback has issue the word at hand again. -/
def sentBack : State := machine { strands := [(0, { spurious := some 0, v := lastWord })] } [0]

theorem test_meets_Waits_again : OneBand sentBack 0 ∧ sentBack.active = [m0] ∧ reissues sentBack m0 = true ∧ reissues (tiny lastWord) m0 = false :=
  have e : sentBack.active = [m0] := rfl
  ⟨⟨machine_formed _ _ _ rfl, by rw [e]; simp, by rw [e]; simp⟩, e, by unfold reissues; decide +kernel, by unfold reissues; decide +kernel⟩

theorem test_meets_Waits_misaligned : OneBand (tiny noWord) 0 ∧ (tiny noWord).Inv ∧ (tiny noWord).active = [m0] ∧
    ((tiny noWord).opA64 m0 6).toNat % 4 ≠ 0 := ⟨tiny_oneBand _, tiny_inv _, rfl, by decide +kernel⟩

/-- A strand in lane 0 acts, and the one in lane 1 is parked. -/
def beside (p : Park) (c : Clump := {}) : State := machine { strands := [(0, {}), (1, { park := some p })] } [0] c

theorem beside_formed (p : Park) (c : Clump := {}) : (beside p c).Formed := machine_formed _ _ _ rfl

theorem beside_lists (p : Park) (c : Clump := {}) : (beside p c).Lists 1 ⟨0, 1⟩ := ⟨rfl, Nat.zero_lt_one, rfl⟩

theorem test_meets_SleepYieldWake : (tiny []).Formed ∧ Alone (beside ⟨.sleep 9 2, 0, some 8⟩) m0 ∧
    ((beside ⟨.sleep 9 2, 0, some 8⟩).str m0).park = none ∧ (∀ b ∈ (beside ⟨.sleep 9 2, 0, some 8⟩).clp.bands, Sorted b.strands) ∧
    (beside ⟨.sleep 9 2, 0, some 8⟩).Lists 1 ⟨0, 1⟩ ∧
    ((beside ⟨.sleep 9 2, 0, some 8⟩).str ⟨0, 1⟩).park = some ⟨.sleep 9 2, 0, some 8⟩ ∧ wakes 0xFFFFFFFF 0 ∧ wakes 0 0 ∧ ¬ wakes 1 0 :=
  ⟨tiny_formed _, ⟨beside_formed _, rfl⟩, by decide +kernel, by unfold Sorted; decide +kernel, beside_lists _, by decide +kernel, .inl rfl,
    .inr rfl, by unfold wakes; decide⟩

/-- A monitor that a write has woken, of the strand in lane 1. -/
def woken : State :=
  let s := beside ⟨.wait 4, 0, some 8⟩
  { s with coh := { s.coh with monitors := [(4, ⟨0, 0x2000, 0x2000, 0, 7, 0, 1, 0, [1], 2, 0, some true, none⟩)] } }

theorem test_meets_WaitsEnd : Sorted woken.coh.monitors ∧
    (woken.coh.monitors.find? 4) = some ⟨0, 0x2000, 0x2000, 0, 7, 0, 1, 0, [1], 2, 0, some true, none⟩ ∧
    (woken.clump 1).place = .resident ∧ woken.Lists 1 ⟨0, 1⟩ ∧ (woken.strand 1 ⟨0, 1⟩).park = some ⟨.wait 4, 0, some 8⟩ :=
  ⟨rfl, by decide +kernel, by decide +kernel, ⟨rfl, Nat.zero_lt_one, rfl⟩, by decide +kernel⟩

/-- Nothing of a context whose budget is zero returns. -/
def spentOf (s : State) : State := { s with ctxs := [(0, { budget := 0 })] }

theorem test_meets_SleepYieldWake_spent : (let s := beside ⟨.sleep 9 2, 0, some 8⟩
     s.spent s.ctxNo = false) ∧
    (let s := spentOf (beside ⟨.sleep 9 2, 0, some 8⟩)
     Alone s m0 ∧ (s.str m0).park = none ∧ (∀ b ∈ s.clp.bands, Sorted b.strands) ∧ s.spent s.ctxNo = true) :=
  ⟨by decide +kernel, ⟨formed_like (beside_formed _) rfl rfl, rfl⟩, by decide +kernel, by unfold Sorted; decide +kernel, by decide +kernel⟩

theorem test_meets_WaitsEnd_spent : woken.spent 0 = false ∧ (spentOf woken).spent 0 = true ∧
    (spentOf woken).coh.monitors.find? 4 = some ⟨0, 0x2000, 0x2000, 0, 7, 0, 1, 0, [1], 2, 0, some true, none⟩ :=
  ⟨by decide +kernel, by decide +kernel, by decide +kernel⟩

theorem test_meets_WaitsEnd_timers :
    (let s := beside ⟨.sleep 0 2, 0, some 8⟩
     s.Lists 1 ⟨0, 1⟩ ∧ (s.strand 1 ⟨0, 1⟩).park = some ⟨.sleep 0 2, 0, some 8⟩ ∧ 0 ≤ s.cycle ∧ (s.clump 1).place = .resident) ∧
    (let s := beside ⟨.yield 0, 0, some 8⟩
     s.Lists 1 ⟨0, 1⟩ ∧ (s.strand 1 ⟨0, 1⟩).park = some ⟨.yield 0, 0, some 8⟩ ∧ 0 ≤ s.slotCount (s.clump 1).coreNo (s.band 1 0).quad) ∧
    (let s := beside ⟨.sleep 1 2, 0, some 8⟩
     s.Lists 1 ⟨0, 1⟩ ∧ (s.strand 1 ⟨0, 1⟩).park = some ⟨.sleep 1 2, 0, some 8⟩ ∧ s.cycle < 1) :=
  ⟨⟨beside_lists _, by decide +kernel, Nat.zero_le _, by decide +kernel⟩, ⟨beside_lists _, by decide +kernel, Nat.zero_le _⟩,
    beside_lists _, by decide +kernel, by decide +kernel⟩

/-- A clump of one strand that waits since cycle 0, in cycle 4,097, whose context has a save area; and the same in cycle 4,096. -/
def parkedAt (cycle : Nat) : State :=
  { machine { strands := [(0, { park := some ⟨.wait 4, 0, some 8⟩ })] } [0] { parkedSince := some 0 } with
    cycle := cycle, ctxs := [(0, { save := 0x100000 })] }

theorem test_meets_SwappingOut : (parkedAt 4097).Inv ∧ ((parkedAt 4097).clumps.find? 1).isSome = true ∧
    ((parkedAt 4097).clump 1).peer = none ∧ (∀ b ∈ ((parkedAt 4097).clump 1).bands, b.tape.mode = 0) ∧
    (∀ o ∈ (parkedAt 4097).ops, o.clump ≠ 1) ∧ (parkedAt 4097).longParked 1 = true ∧ (parkedAt 4097).clumpSettled 1 = true ∧
    ((parkedAt 4097).ctx 0).save ≠ 0 ∧ (parkedAt 4096).longParked 1 = false :=
  ⟨inv_of _ rfl rfl rfl (tiny_inv []).pages, rfl, by decide +kernel, by decide +kernel, by decide +kernel, by decide +kernel,
    by decide +kernel, by decide +kernel, by decide +kernel⟩

/-- A context with no wait budget left. -/
def spent : State := { tiny [] with ctxs := [(2, { budget := 0, snap := 0x8000 })] }

theorem test_meets_WaitBudget : spent.Inv ∧ (spent.ctx 2).budget = 0 ∧ (spent.ctx 2).broke = false ∧
    (spent.ctx 2).away = false ∧ (spent.ctx 2).stopping = none ∧ (spent.ctx 2).snap + (spent.snapshot 2).length ≤ 2 ^ 52 ∧
    Sorted spent.ctxs ∧ ¬ Switching spent 2 :=
  ⟨inv_of _ rfl rfl rfl (tiny_inv []).pages, by decide +kernel, by decide +kernel, by decide +kernel, by decide +kernel, by decide +kernel, rfl,
    by rintro ⟨x, hx, -⟩; simp [spent, tiny, machine] at hx⟩

/-- The same with a mode-switch command of the context under way. -/
def switching : State :=
  { spent with ctl := { queues := [(0, { cfg := 2 ^ 31 + 2 * 2 ^ 8, cmd := some (0, [3], 1) })] } }

theorem test_meets_WaitBudget_switching : switching.Inv ∧ (switching.ctx 2).budget = 0 ∧ Switching switching 2 :=
  ⟨inv_of _ rfl rfl rfl (tiny_inv []).pages, by decide +kernel, _, List.mem_singleton.2 rfl, by decide, 0, 3, [], 1, rfl, by decide⟩

end Sys2Proof.Tests
end

