-- ==== Sys2Proof/Tests/MeetsEngines.lean ====
section
/-!
SUPPORT. For each statement about copies, bins, sweeps and banks: a state and operands that meet what it supposes.
-/

set_option Elab.async false

namespace Sys2Proof.Tests
open Sys2Proof.Machine Sys2Proof.Claims

/-! ### Copies -/

/-- In v8 to v15, a descriptor of one row of 16 bytes from 0x2000 to the top of the scratchpad; with a reserved bit, `w7` is 8. -/
def descRegs (w7 : Word := 0) : SMap Word := [(8, 0x2000), (9, 0), (10, 0xFFF0), (11, 0), (12, 0x10010), (13, 0), (14, 0), (15, w7)]

theorem test_meets_CopiesIssue : OneBand (tiny descRegs) 0 ∧ OneBand (tiny (descRegs 8)) 0 ∧
    (copyBad (copyDesc 0 (descriptor (tiny descRegs) 8)) (descriptor (tiny descRegs) 8) = false ∧
    (copyDesc 0 (descriptor (tiny descRegs) 8)).cw = false ∧ (copyDesc 0 (descriptor (tiny descRegs) 8)).refuses (tiny descRegs).clp 0 = none ∧
    (tiny descRegs).lockWait (tiny descRegs).clp.coreNo (tiny descRegs).ctxNo ((copyDesc 0 (descriptor (tiny descRegs) 8)).ranges 1) = false ∧
    (tiny (descRegs 8)).active = [m0] ∧ (tiny (descRegs 8)).sh.lanes = [m0] ∧
    copyBad (copyDesc 0 (descriptor (tiny (descRegs 8)) 8)) (descriptor (tiny (descRegs 8)) 8) = true) :=
  ⟨tiny_oneBand _, tiny_oneBand _, by decide +kernel⟩

theorem oneBand_like {s t : State} {k : Nat} (h : OneBand s k) (h1 : t.clumps = s.clumps) (h2 : t.sheaf = s.sheaf) : OneBand t k := by
  have e : t.sh = s.sh := by simp [State.sh, h2]
  have e2 : ∀ m, t.str m = s.str m := fun m => by simp [State.str, State.strand, State.band, State.clump, e, h1]
  have e' : t.active = s.active := by unfold State.active; simp only [e, e2]
  exact ⟨formed_like h.formed h1 h2, by rw [e']; exact h.some, by rw [e']; exact h.one⟩

/-- The same with the source row write-locked by another operation. -/
def descLocked : State := { tiny descRegs with locks := [(0, ⟨0, none, 0x2000, 0x2010, true, 4, 77⟩)] }

theorem test_meets_CopiesIssue_held : OneBand descLocked 0 ∧ (descLocked.active = [m0] ∧ descLocked.sh.lanes = [m0] ∧
    copyBad (copyDesc 0 (descriptor descLocked 8)) (descriptor descLocked 8) = false ∧
    (copyDesc 0 (descriptor descLocked 8)).refuses descLocked.clp 0 = none ∧
    descLocked.lockWait descLocked.clp.coreNo descLocked.ctxNo ((copyDesc 0 (descriptor descLocked 8)).ranges 1) = true) :=
  ⟨oneBand_like (tiny_oneBand descRegs) rfl rfl, by decide +kernel⟩

/-- The test band with its handle 0 in flight, and k1 naming it. -/
def inFlight : State := machine { lone (descRegs) with handles := [(0, 1)], issued := 1, k := [(1, 0)], etime := 3 } [0]

theorem inFlight_oneBand : OneBand inFlight 0 :=
  have e : inFlight.active = [m0] := rfl
  ⟨machine_formed _ _ _ rfl, by rw [e]; simp, by rw [e]; simp⟩

/-- The same after the operation has ended. -/
def finished : State := machine { lone (descRegs) with handles := [(0, 0)], issued := 1, k := [(1, 0)], etime := 3 } [0]

theorem test_meets_CopyHandles : OneBand inFlight 0 ∧ OneBand finished 0 ∧ OneBand (tiny descRegs) 0 ∧
    ((inFlight.band 1 0).handleStatus ((inFlight.band 1 0).ureg 1).toNat = 1 ∧ inFlight.active = inFlight.sh.lanes ∧
    (finished.band 1 0).handleStatus ((finished.band 1 0).ureg 1).toNat = 0 ∧ (finished.band 1 0).etime ≠ 0 ∧
    (descWord (descriptor (tiny descRegs) 8) 7).toNat % 8 = 0 ∧ (copyDesc 0 (descriptor (tiny descRegs) 8)).refuses (tiny descRegs).clp 0 = none ∧
    ((tiny descRegs).band 1 0).unrel.length < Config.maxUnreleased) :=
  have e : finished.active = [m0] := rfl
  ⟨inFlight_oneBand, ⟨machine_formed _ _ _ rfl, by rw [e]; simp, by rw [e]; simp⟩, tiny_oneBand _, by decide +kernel⟩

/-- A copy of two rows or elements of 16 bytes, the first at the top of a 4 KiB piece, and in the scratchpad the last at its top. -/
def moveDesc (form : Nat) (cw : Bool) : CopyDesc :=
  { form := form, gaddr := 0x2FF0, soff := if form = 2 then 0x4FF0 else 0xFFE0, ioff := 0xF000, rows := 2, rowlen := 16, gstride := 16
    sstride := 16, cval := 7, cw := cw, esize := 2 }

def moveOp (form : Nat) (cw : Bool) : Op := { copying (moveDesc form cw) 4 with handle := some 0 }

/-- The test band with that copy under way; its second index is 1. -/
def moving (form : Nat) (cw : Bool) : State :=
  { machine { lone [] with handles := [(0, 1)], issued := 1 } [0] { spad := [(0xF004, 1)] } with ops := [moveOp form cw] }

theorem moving_inv (form : Nat) (cw : Bool) : (moving form cw).Inv := inv_of _ rfl rfl rfl (tiny_inv []).pages

theorem moving_copying (form : Nat) (h : form < 5) (cw : Bool) : Copying (moving form cw) 4 (moveOp form cw) (moveDesc form cw) 0 0 := by
  have e : ∀ f < 5, ∀ w : Bool, ((moving f w).op 4 = some (moveOp f w) ∧ 0 < rowSize (moveDesc f w)) ∧
      (∀ r < 2, globalAt (moving f w) (moveOp f w) (moveDesc f w) r % 4096 + rowSize (moveDesc f w) ≤ 4096 ∧
        (f = 2 → otherAt (moveDesc f w) r % 4096 + rowSize (moveDesc f w) ≤ 4096)) ∧
      ∀ r < 2, globalAt (moving f w) (moveOp f w) (moveDesc f w) r % 16 = 0 := by decide +kernel
  have y := e form h cw
  refine ⟨y.1.1, rfl, rfl, ⟨rfl, rfl, by decide⟩, ⟨by show form ≤ 4; omega, y.1.2⟩, y.2.1, fun h3 r hr => ?_, rfl, Nat.zero_lt_one, rfl⟩
  have z : rowSize (moveDesc form cw) = 16 := by
    show (if form ≤ 2 then 16 else 4 * 2 ^ 2) = 16
    simp
  rw [z]
  exact y.2.2 r hr

/-- The addresses of the rows: they are their own translations. -/
def rowsOf (form : Nat) (r : Nat) : Nat := globalAt (moving form false) (moveOp form false) (moveDesc form false) r

theorem rowsAt_of {s : State} {o : Op} {d : CopyDesc} {k : Kind} {g pa : Nat → Nat}
    (h : ∀ r < d.rows, s.translate o.ctx (g r) (rowSize d) k false = .ok (pa r) 0x33 0 (2 ^ 30) none) : RowsAt s o d k g pa :=
  fun r hr => ⟨_, _, _, _, h r hr, .inl rfl⟩

theorem rowsOut_of {s : State} {o : Op} {d : CopyDesc} {g pb : Nat → Nat} (h1 : s.ctl.windows = [])
    (h : ∀ r < d.rows, s.translate o.ctx (g r) (rowSize d) .engWrite false = .ok (pb r) 0x33 0 (2 ^ 30) none ∧
      ∀ k < rowSize d, (s.useLeaf o.ctx 0 (2 ^ 30) 0x33 none).scopeOf o.die (pb r + k) ≤ o.scope) :
    RowsOut s o d g pb :=
  ⟨⟨_, _, _, _, .inl rfl, h⟩, fun r _ n w hw => by simp [State.windowAt, h1] at hw⟩

theorem test_meets_CopiesComplete : (∀ f < 5, ∀ cw, (moving f cw).Inv ∧ Copying (moving f cw) 4 (moveOp f cw) (moveDesc f cw) 0 0) ∧
    RowsAt (moving 0 true) (moveOp 0 true) (moveDesc 0 true) .engRead (globalAt (moving 0 true) (moveOp 0 true) (moveDesc 0 true)) (rowsOf 0) ∧
    RowsAt (moving 3 true) (moveOp 3 true) (moveDesc 3 true) .engRead (globalAt (moving 3 true) (moveOp 3 true) (moveDesc 3 true)) (rowsOf 3) ∧
    RowsOut (moving 1 false) (moveOp 1 false) (moveDesc 1 false) (globalAt (moving 1 false) (moveOp 1 false) (moveDesc 1 false)) (rowsOf 1) ∧
    RowsOut (moving 4 false) (moveOp 4 false) (moveDesc 4 false) (globalAt (moving 4 false) (moveOp 4 false) (moveDesc 4 false)) (rowsOf 4) ∧
    RowsAt (moving 2 false) (moveOp 2 false) (moveDesc 2 false) .engRead (globalAt (moving 2 false) (moveOp 2 false) (moveDesc 2 false)) (rowsOf 2) ∧
    RowsOut (moving 2 false) (moveOp 2 false) (moveDesc 2 false) (otherAt (moveDesc 2 false)) (otherAt (moveDesc 2 false)) :=
  ⟨fun f h cw => ⟨moving_inv f cw, moving_copying f h cw⟩, rowsAt_of (by decide +kernel), rowsAt_of (by decide +kernel),
    rowsOut_of rfl (by decide +kernel), rowsOut_of rfl (by decide +kernel), rowsAt_of (by decide +kernel), rowsOut_of rfl (by decide +kernel)⟩

theorem test_meets_CopiesComplete_word : (moveDesc 0 true).cw = true ∧ ((moving 0 true).cached 0 0).isSome = true ∧
    (moving 0 true).translate 0 0 4 .engWrite false = .ok 0 0x33 0 (2 ^ 30) none ∧
    ∀ r < 2, rowsOf 1 r + 16 ≤ 0 ∨ 0 + 4 ≤ rowsOf 1 r := by decide +kernel

/-- Context 0 has spent its tokens at the port of an address's slice. -/
def broke (s : State) (pa : Nat) : State := { s with coh := { s.coh with spent := [(16 * s.ctl.homeSlice pa, 4096)] } }

theorem test_meets_CopiesComplete_tokens :
    (∀ f < 5, ∀ cw : Bool, HasTokens (moving f cw) ((moving f cw).runCopy (moveOp f cw) (moveDesc f cw) 0) 0 []) ∧
    (let s := broke (moving 0 false) 0x2FF0
     ¬ HasTokens s (s.runCopy (moveOp 0 false) (moveDesc 0 false) 0) 0 []) := by
  unfold HasTokens
  decide +kernel

/-- A copy of one row to the host's memory, which lies outside its scope; and a write that it has left over. -/
def farDesc : CopyDesc := { moveDesc 1 false with rows := 1 }
def farOp : Op := { copying farDesc 4 with handle := some 0 }
def far : State :=
  { machine { lone [] with handles := [(0, 1)], issued := 1 } [0] with
    ops := [farOp], coh := (onHost []).coh }
def leftOver : LateWrite := ⟨9, 0, 1, 0, 6, 1, hostBase + 0x2FF0, 3, List.replicate 16 7, [], 4, []⟩

theorem test_meets_CopiesComplete_far : far.Inv ∧ Copying far 4 farOp farDesc 0 0 ∧ Ordinary far (hostBase + 0x2FF0) ∧
    (far.translate 0 (globalAt far farOp farDesc 0) (rowSize farDesc) .engWrite false =
      .ok (hostBase + 0x2FF0) (hostBase + 0xF3) 0 (2 ^ 30) none ∧ farOp.scope < far.scopeOf farOp.die (hostBase + 0x2FF0)) :=
  ⟨inv_of _ rfl rfl rfl (onHost_inv []).pages,
    ⟨by decide +kernel, rfl, rfl, ⟨rfl, rfl, by decide⟩, by decide, by decide +kernel, fun h => absurd h (by decide), rfl, Nat.zero_lt_one, rfl⟩,
    tiny_ordinary [] {} _, by decide +kernel⟩

theorem test_meets_CopiesComplete_late : ({ tiny [] with late := [leftOver] } : State).Inv ∧
    (({ tiny [] with late := [leftOver] } : State).op 9 = none ∧
    ({ tiny [] with late := [leftOver] } : State).late.find? (fun x => x.id == 9) = some leftOver ∧
    leftOver.pa % 4096 + leftOver.bytes.length ≤ 4096) := ⟨inv_of _ rfl rfl rfl (tiny_inv []).pages, by decide +kernel⟩

/-- A later write of the same operation to the same bytes waits for it; alone, it finds its tokens, or, with none left, does not. -/
theorem test_meets_CopiesComplete_order : (∃ x ∈ [leftOver, { leftOver with id := 10 }], x.op = leftOver.op ∧ x.id < 10 ∧
      x.pa < leftOver.pa + leftOver.bytes.length ∧ leftOver.pa < x.pa + x.bytes.length) ∧
    (¬ ∃ x ∈ [leftOver], x.op = leftOver.op ∧ x.id < leftOver.id ∧
      x.pa < leftOver.pa + leftOver.bytes.length ∧ leftOver.pa < x.pa + x.bytes.length) ∧
    let s : State := { tiny [] with late := [leftOver] }
    let t := broke s leftOver.pa
    HasTokens s (s.putLate leftOver) 0 [] ∧ ¬ HasTokens t (t.putLate leftOver) 0 [] := by
  unfold HasTokens
  decide +kernel

/-- A gather whose elements are not aligned. -/
def oddDesc : CopyDesc := { moveDesc 3 false with gaddr := 0x2FD8 }
def oddOp : Op := { copying oddDesc 4 with handle := some 0 }
def oddCopy : State := { moving 3 false with ops := [oddOp] }

theorem test_meets_CopiesComplete_fault : RowsAt oddCopy oddOp oddDesc .engRead (globalAt oddCopy oddOp oddDesc) (globalAt oddCopy oddOp oddDesc) ∧
    (oddCopy.op 4 = some oddOp ∧ ∀ r < oddDesc.rows, globalAt oddCopy oddOp oddDesc r % 4096 + rowSize oddDesc ≤ 4096) ∧
    ∃ r < oddDesc.rows, globalAt oddCopy oddOp oddDesc r % rowSize oddDesc ≠ 0 :=
  ⟨rowsAt_of (by decide +kernel), by decide +kernel, 0, by decide +kernel⟩

/-! ### Bins and engine results -/

/-- A bin of 256 counts at the top of the scratchpad, and an index. -/
def binRegs (i : Word) : SMap Word := [(6, 0xFC00), (8, i)]

theorem test_meets_BinCounts (i : Word) : Alone (tiny (binRegs i)) m0 ∧ Sorted (tiny (binRegs i)).clp.spad := ⟨tiny_alone _, rfl⟩

theorem test_meets_BinCounts_index : ((tiny (binRegs 255)).opA m0 6).toNat = 0xFC00 ∧ 0xFC00 % 128 = 0 ∧
    0xFC00 + 1024 ≤ (tiny (binRegs 255)).clp.kernel.spad ∧
    (tiny (binRegs 255)).lockedFor (tiny (binRegs 255)).clp.coreNo (tiny (binRegs 255)).ctxNo (some 1) 0xFC00 1024 true = none ∧
    ((tiny (binRegs 255)).opB m0 8).toNat < 256 ∧ 256 ≤ ((tiny (binRegs 256)).opB m0 8).toNat ∧
    (tiny (binRegs 0xFFFFFFFF)).opB m0 8 = 0xFFFFFFFF := by decide +kernel

/-- The test band with an unreleased copy of handle 0, and a strand whose v4 is the bin's offset. -/
def unreleased : State :=
  machine { lone [(4, 0xFC00), (6, 0)] with unrel := [{ op := 0x22, fn := 0, desc := [0, 0, 0, 0, 16, 0, 0, 0], handle := 0, compl := 0, scope := 4 }],
                                            handles := [(0, 2)], issued := 1 } [0]

theorem test_meets_BinCounts_patch : Alone unreleased m0 ∧ Sorted unreleased.clp.spad ∧ ((unreleased.opD m0 4).toNat = 0xFC00 ∧
    (unreleased.opB m0 5).toNat < 256 ∧ (unreleased.opA m0 6).toNat = 0 ∧ (∃ x ∈ (unreleased.bnd m0).unrel, x.handle = 0) ∧
    scratchValue unreleased.clp 0xFC00 4 < 65536) := ⟨⟨machine_formed _ _ _ rfl, rfl⟩, rfl, by decide +kernel⟩

/-- Two engine results: one known, one not. -/
def results : Band := { lone [] with engOut := [{ kregs := [3], writes := [.k 3 7] }, { op := some 4, kregs := [4] }] }

theorem test_meets_EngineResultsLand : ((machine results [0]).clumps.find? 1).isSome = true ∧ 0 < ((machine results [0]).clump 1).bands.length ∧
    Sorted ((machine results [0]).band 1 0).strands ∧ ((((machine results [0]).band 1 0).engOut[0]?).map (·.op) = some none ∧
    (((machine results [0]).band 1 0).engOut[1]?).map (·.op) = some (some 4) ∧ (machine results [0]).pending 1 0 = []) :=
  ⟨rfl, Nat.zero_lt_one, rfl, by decide +kernel⟩

/-! ### Sweeps -/

/-- The test band, with its k1 naming a sweep, of a function, with some segments done. -/
def sweeping (f : Nat) (done : SMap Unit) (v : SMap Word := []) : State :=
  { machine { lone v with k := [(1, 0x10003)] } [0] with dram := { sweeps := [{ running with func := f, done := done, pieces := [(0x2000, 64)] }] } }

theorem sweeping_oneBand (f : Nat) (done : SMap Unit) (v : SMap Word) : OneBand (sweeping f done v) 0 :=
  have e : (sweeping f done v).active = [m0] := rfl
  ⟨formed_like (machine_formed { lone v with k := [(1, 0x10003)] } {} {} rfl) rfl rfl, by rw [e]; simp, by rw [e]; simp⟩

theorem test_meets_SweepsObserved : OneBand (tiny []) 0 ∧ OneBand (sweeping 3 []) 0 ∧ OneBand (sweeping 3 [(0, ())]) 0 ∧
    (named (tiny []) 0 1 = none ∧ (named (sweeping 3 []) 0 1).isSome = true ∧ (sweeping 3 []).active = (sweeping 3 []).sh.lanes ∧
    ((named (sweeping 3 []) 0 1).map fun w => decide (w.func ≠ 7) && !decide (w.segments ≤ w.done.length)) = some true ∧
    ((named (sweeping 3 [(0, ())]) 0 1).map fun w => decide (w.func ≠ 7) && decide (w.segments ≤ w.done.length)) = some true) :=
  ⟨tiny_oneBand _, sweeping_oneBand _ _ _, sweeping_oneBand _ _ _, by decide +kernel⟩

/-- A sweep descriptor at 0x3000: 64 bytes at 0x2000, of a length, with a function, of signed words. -/
def descAt (len func : Nat) : Memory :=
  Memory.writeNat [] 0x3000 64 (0x2000 + len * 2 ^ 64 + func * 2 ^ 128 + 3 * 2 ^ 136)

def registering (len func : Nat) (sweeps : List Sweep) : State :=
  { tiny [(6, 0x3000), (7, 0)] with mem := descAt len func, dram := { sweeps := sweeps } }

theorem registering_oneBand (len func : Nat) (ss : List Sweep) : OneBand (registering len func ss) 0 :=
  oneBand_like (tiny_oneBand [(6, 0x3000), (7, 0)]) rfl rfl

theorem registering_inv (len func : Nat) (ss : List Sweep) (h : (descAt len func).wf = true) : (registering len func ss).Inv :=
  inv_of _ h rfl rfl (tiny_inv []).pages

theorem test_meets_SweepsRegister : OneBand (registering 64 3 []) 0 ∧ (registering 64 3 []).Inv ∧
    ¬ meetsSweep (registering 64 3 []) [(0x2000, 64)] ∧
    (((registering 64 3 []).opA64 (lowestLane (registering 64 3 []).active) 6).toNat = 0x3000 ∧
    (registering 64 3 []).translate 0 0x3000 64 .engRead false = .ok 0x3000 0x33 0 (2 ^ 30) none ∧ pteHome 0x33 = 0 ∧
    ((registering 64 3 []).str (lowestLane (registering 64 3 []).active)).aborted = [] ∧
    ((sweepDesc ((registering 64 3 []).latestBytes 0x3000 64)).base, (sweepDesc ((registering 64 3 []).latestBytes 0x3000 64)).len) = (0x2000, 64) ∧
    (sweepDesc ((registering 64 3 []).latestBytes 0x3000 64)).bad = false ∧
    (registering 64 3 []).regionOf 0 3 0x2000 64 [] = .pieces [(0x2000, 64)] ∧
    (registering 64 3 []).freeSlot ((registering 64 3 []).stacksOf [(0x2000, 64)]) = some 0) :=
  ⟨registering_oneBand _ _ _, registering_inv _ _ _ (by decide +kernel), by unfold meetsSweep; decide +kernel, by decide +kernel⟩

/-- Thirty-two sweeps in the stack of 0x2000; and a region beyond the memory that is mapped. -/
def allSlots : List Sweep := (List.range 32).map fun i => { running with slot := i }
def unmapped : State :=
  { registering 64 3 [] with coh := { tlb := [⟨0, 0x2000, 0x1000, 0x33⟩, ⟨0, 0x3000, 0x1000, 0x3033⟩] }, dram := { gens := [(0, 0x7FFF)] } }

theorem test_meets_SweepsRegister_codes : (registering 0 3 []).Inv ∧ (registering 64 9 []).Inv ∧
    meetsSweep (registering 64 3 [{ running with pieces := [(0x2000, 64)] }]) [(0x2000, 64)] ∧
    ¬ meetsSweep (registering 64 3 allSlots) [(0x2000, 64)] ∧
    ((sweepDesc ((registering 0 3 []).latestBytes 0x3000 64)).len = 0 ∧ (sweepDesc ((registering 64 9 []).latestBytes 0x3000 64)).bad = true ∧
    (registering 64 3 []).regionOf 0 3 0x40000000 64 [] ≠ .pieces [(0x40000000, 64)] ∧
    (registering 64 3 allSlots).freeSlot ((registering 64 3 allSlots).stacksOf [(0x2000, 64)]) = none) :=
  ⟨registering_inv _ _ _ (by decide +kernel), registering_inv _ _ _ (by decide +kernel),
    ⟨{ running with pieces := [(0x2000, 64)] }, by simp [registering], (0x2000, 64), by simp, (0x2000, 64), by simp, by decide⟩,
    by unfold meetsSweep; decide +kernel, by decide +kernel⟩

/-- A band whose registration waited for a translation that the host has aborted. -/
def refusedRegion : State :=
  { machine { strands := [(0, { v := [(6, 0x3000), (7, 0)], aborted := [0x2000] })] } [0] with mem := descAt 64 3 }

theorem test_meets_SweepsRegister_aborted : OneBand refusedRegion 0 ∧ refusedRegion.Inv ∧
    (refusedRegion.translate 0 0x3000 64 .engRead false = .ok 0x3000 0x33 0 (2 ^ 30) none ∧
    (refusedRegion.str (lowestLane refusedRegion.active)).aborted ≠ [] ∧
    (sweepDesc (refusedRegion.latestBytes 0x3000 64)).bad = false) :=
  have e : refusedRegion.active = [m0] := rfl
  ⟨⟨formed_like (machine_formed { strands := [(0, { v := [(6, 0x3000), (7, 0)], aborted := [0x2000] })] } {} {} rfl) rfl rfl,
    by rw [e]; simp, by rw [e]; simp⟩, inv_of _ (by decide +kernel : (descAt 64 3).wf = true) rfl rfl (tiny_inv []).pages, by decide +kernel⟩

/-- A segment of a deferred sweep, and the top of the scratchpad. -/
abbrev segRegs : SMap Word := [(6, 0x2000), (7, 0), (8, 0xFFC0)]

theorem alone_sweeping (f : Nat) (v : SMap Word) : Alone (sweeping f [] v) m0 := ⟨(sweeping_oneBand f [] v).formed, rfl⟩

theorem test_meets_SweepQueues : Alone (sweeping 7 [] segRegs) m0 ∧ ¬ scratchAbsent (sweeping 7 [] segRegs).clp 0xFFC0 64 ∧
    ((sweeping 7 [] segRegs).sh.lanes = [m0] ∧ ((named (sweeping 7 [] segRegs) 0 1).map (·.func)) = some 7 ∧
    ((sweeping 7 [] segRegs).opA64 m0 6).toNat = 0x2000 ∧ ((sweeping 7 [] segRegs).opB m0 8).toNat = 0xFFC0 ∧
    0xFFC0 + 64 ≤ (sweeping 7 [] segRegs).clp.kernel.spad ∧
    (sweeping 7 [] segRegs).translate 0 0x2000 64 .engRead false = .ok 0x2000 0x33 0 (2 ^ 30) none ∧
    ((named (sweeping 7 [] segRegs) 0 1).map fun w => w.holds 0x2000) = some true ∧
    ((sweeping 7 [] segRegs).ctl.coord 0x2000).map (fun x => x.channel % 16) = some 0 ∧ 0 < (sweeping 7 [] segRegs).deltaRoom 0 ∧
    (sweeping 7 [] segRegs).lockWait (sweeping 7 [] segRegs).coreOf 0 [⟨some 1, 0xFFC0, 0x10000, false⟩] = false ∧
    (∀ y ∈ (sweeping 7 [] segRegs).ops, y.id ≠ (sweeping 7 [] segRegs).uid) ∧
    ∀ l ∈ (sweeping 7 [] segRegs).locks, l.2.op ≠ (sweeping 7 [] segRegs).uid) :=
  ⟨alone_sweeping _ _, by unfold scratchAbsent; decide +kernel, by decide +kernel⟩

/-- The same with the queue of stack 0 full. -/
def queueFull : State :=
  { sweeping 7 [] segRegs with dram := { (sweeping 7 [] segRegs).dram with deltas := [(0, List.replicate 2048 ⟨9, 3, 1, 0x2000, [], 0, 1, 0, 0, false⟩)] } }

theorem test_meets_SweepQueues_full : Alone queueFull m0 ∧ ¬ scratchAbsent queueFull.clp 0xFFC0 64 ∧ queueFull.deltaRoom 0 = 0 :=
  ⟨⟨formed_like (alone_sweeping 7 segRegs).formed rfl rfl, rfl⟩, by unfold scratchAbsent; decide +kernel, by decide +kernel⟩

theorem test_meets_SweepQueues_misuse : Alone (sweeping 3 [] segRegs) m0 ∧ ((named (sweeping 3 [] segRegs) 0 1).map (·.func) = some 3 ∧
    named (sweeping 3 [] segRegs) 0 2 = none ∧ (sweeping 3 [] segRegs).lockWait (sweeping 3 [] segRegs).coreOf 0 [] = false ∧
    ((sweeping 3 [] segRegs).str m0).aborted = [] ∧
    (sweeping 3 [] segRegs).translate 0 0x2000 1 .read = .ok 0x2000 0x33 0 (2 ^ 30) none ∧
    ((sweeping 3 [] segRegs).ctl.coord 0x2000).isSome = true) := ⟨alone_sweeping _ _, by decide +kernel⟩

theorem test_meets_SweptViewLoads : Alone (withSweep atEdge 0x2040) m0 ∧ (withSweep atEdge 0x2040).Inv ∧
    Reaches (withSweep atEdge 0x2040) 0x2070 16 .read 0x2070 0 ∧ ¬ OnIo (withSweep atEdge 0x2040) 0x2070 0 ∧
    (((withSweep atEdge 0x2040).addrM m0 6 0 16).toNat = 0x2070 ∧ (withSweep atEdge 0x2040).poisoned (0x2070 / 64 * 64) 64 = false ∧
    (withSweep atEdge 0x2040).dram.deltas = []) :=
  ⟨⟨withSweep_formed _ _, rfl⟩, withSweep_inv _ _,
    reaches_of _ _ _ _ rfl (by decide +kernel) (by decide +kernel) (by decide +kernel) (by decide +kernel), by unfold OnIo; decide,
    by decide +kernel⟩

/-- A swept-view load on the CXL.io path, of clean bytes and of poisoned ones. -/
theorem test_meets_SweptViewLoads_host : Alone (onHost atEdge) m0 ∧ (onHost atEdge).Inv ∧ ((onHost atEdge).addrM m0 6 0 16).toNat = 0x2070 ∧
    Reaches (onHost atEdge) 0x2070 16 .read (hostBase + 0x2070) 3 ∧ OnIo (onHost atEdge) (hostBase + 0x2070) 3 ∧
    (onHost atEdge).poisoned (hostBase + 0x2070) 16 = false ∧
    ({ onHost atEdge with poison := [(hostBase + 0x2070) / 64] } : State).poisoned (hostBase + 0x2070) 16 = true :=
  ⟨⟨onHost_formed _, rfl⟩, onHost_inv _, by decide +kernel, reaches_host _, by unfold OnIo; decide +kernel, by decide +kernel,
    by decide +kernel⟩

/-- Sweeps of signed bytes that clamp, zero and add; of nibbles that map. -/
theorem test_meets_SweepFunctions : (9, 8, true) ∈ integerFormats ∧ (14, 4, true) ∈ integerFormats ∧ 63 < 512 / 8 ∧ 127 < 512 / 4 ∧
    ∃ a b c d e : Sweep, a.fmt = 9 ∧ a.func = 2 ∧ b.fmt = 9 ∧ b.func = 3 ∧ c.fmt = 14 ∧ c.func = 5 ∧ d.fmt = 9 ∧ d.func = 6 ∧ d.sat = true ∧
      e.fmt = 9 ∧ e.func = 6 ∧ e.sat = false :=
  ⟨by decide, by decide, by decide, by decide, { running with fmt := 9, func := 2 }, { running with fmt := 9, func := 3 },
    { running with fmt := 14, func := 5 }, { running with fmt := 9, func := 6, sat := true }, { running with fmt := 9, func := 6 },
    rfl, rfl, rfl, rfl, rfl, rfl, rfl, rfl, rfl, rfl, rfl, rfl⟩

/-- A sweep with an update queued for its one segment. -/
def queued : State :=
  { sweeping 7 [] [] with dram := { (sweeping 7 [] []).dram with deltas := [(0, [⟨9, 3, 1, 0x2000, [], 0, 1, 0, 0, false⟩])] } }

theorem test_meets_RowRefreshes : Sorted (tiny []).dram.row ∧ Sorted (tiny []).dram.pass ∧ (sweeping 3 []).Inv ∧ queued.Inv ∧
    ((tiny []).dram.sweeps = [] ∧ (∀ p ∈ (sweeping 3 []).rowSegments 32 0 0, p % 64 = 0 ∧ p + 64 ≤ 2 ^ 52) ∧
    0x2000 ∈ (sweeping 3 []).rowSegments 32 0 0) ∧
    ((((sweeping 3 []).sweepAt 0x2000).map fun w => (w.func, w.isDone 0x2000, (sweeping 3 []).sweepOf w.id == some w)) = some (3, false, true) ∧
    (sweeping 3 []).poisoned 0x2000 64 = false ∧ (queued.sweepAt 0x2000).map (fun w => (w.func, w.isDone 0x2000)) = some (7, false) ∧
    ∀ o ∈ queued.ops, ∀ i l, o.kind ≠ .queue i l) :=
  ⟨rfl, rfl, inv_of _ rfl rfl rfl (tiny_inv []).pages, inv_of _ rfl rfl rfl (tiny_inv []).pages, by decide +kernel,
    by decide +kernel, by decide +kernel, by decide +kernel, by simp [queued, sweeping, machine]⟩

theorem test_meets_ThermalSamples : Sorted (tiny []).dram.nominal ∧ 5 ∉ (tiny []).dram.hot := ⟨rfl, by decide⟩

/-! ### Banks -/

/-- Address 0 of a page that is never cached, the first of channel 32; a mask of layer 2 in v4, and scratchpad offset 0xF000.
Channel 32 is the context's, or nobody's. -/
abbrev bankRegs : SMap Word := [(4, 4), (6, 0), (7, 0), (8, 0xF000)]
def atBank (o : SMap Nat) (q : SMap (List BankCmd)) : State :=
  { tiny bankRegs with ctl := { owner := o }, dram := { queue := q }, coh := { tlb := [⟨0, 0, 2 ^ 30, BitVec.ofNat 64 (2 ^ 44 + 0xF3)⟩] } }

theorem atBank_alone (o : SMap Nat) (q : SMap (List BankCmd)) : Alone (atBank o q) m0 := ⟨formed_like (tiny_formed bankRegs) rfl rfl, rfl⟩

theorem atBank_inv (o : SMap Nat) (q : SMap (List BankCmd)) : (atBank o q).Inv := inv_of _ rfl rfl rfl (by
  intro y hy
  simp [atBank] at hy
  subst hy
  rfl)

theorem bank_mapped (o : SMap Nat) (q : SMap (List BankCmd)) (y : Nat × Nat)
    (h : (atBank o q).translate 0 y.2 1 .engRead false = .ok y.1 (2 ^ 44 + 0xF3) 0 (2 ^ 30) none) : NeverCached (atBank o q) y :=
  ⟨_, _, _, _, h, by decide⟩

theorem test_meets_BankWordsIssue : (Alone (atBank [(32, 1)] []) m0 ∧ (atBank [(32, 1)] []).Inv) ∧
    (∀ y ∈ rowReads (atBank [(32, 1)] []) 0 (2 ^ 44) 4 ⟨32, 0, 0, 0⟩, NeverCached (atBank [(32, 1)] []) y) ∧
    ((atBank [(32, 1)] []).sh.lanes = [m0] ∧
    ((atBank [(32, 1)] []).opA64 m0 6).toNat = 0 ∧ ((atBank [(32, 1)] []).opD m0 4).toNat = 4 ∧ ((atBank [(32, 1)] []).opB m0 8).toNat = 0xF000 ∧
    (atBank [(32, 1)] []).translate 0 0 1 .engRead false = .ok (2 ^ 44) (2 ^ 44 + 0xF3) 0 (2 ^ 30) none ∧
    (atBank [(32, 1)] []).ctl.coord (2 ^ 44) = some ⟨32, 0, 0, 0⟩ ∧ layers 4 = [2] ∧
    (atBank [(32, 1)] []).ctl.owner.getD 32 0 = (atBank [(32, 1)] []).ctxNo + 1 ∧ 0xF000 + 4096 ≤ (atBank [(32, 1)] []).clp.kernel.spad ∧
    (atBank [(32, 1)] []).rowLocked (atBank [(32, 1)] []).coreOf 0 0 0 0 4 = false ∧
    (atBank [(32, 1)] []).lockWait (atBank [(32, 1)] []).coreOf 0 (bankRanges (atBank [(32, 1)] []) 3 0xF000) = false) :=
  ⟨⟨atBank_alone _ _, atBank_inv _ _⟩, fun y hy => bank_mapped _ _ y ((by decide +kernel : ∀ y ∈ rowReads (atBank [(32, 1)] []) 0 (2 ^ 44) 4 ⟨32, 0, 0, 0⟩,
    (atBank [(32, 1)] []).translate 0 y.2 1 .engRead false = .ok y.1 (2 ^ 44 + 0xF3) 0 (2 ^ 30) none) y hy), by decide +kernel⟩

/-- The row in a page that is cached; the row under an engine's write lock; an address in control space. -/
def atBankCached : State :=
  { tiny bankRegs with ctl := { owner := [(32, 1)] }, coh := { tlb := [⟨0, 0, 2 ^ 30, BitVec.ofNat 64 (2 ^ 44 + 0x33)⟩] } }
def atBankLocked : State := { atBank [(32, 1)] [] with locks := [(0, ⟨0, none, 0, 64, true, 4, 77⟩)] }
def atControl : State := { tiny bankRegs with coh := { tlb := [⟨0, 0, 2 ^ 30, BitVec.ofNat 64 (controlBase + 0xF3)⟩] } }

theorem test_meets_BankWordsIssue_row : Alone atBankCached m0 ∧ Alone atBankLocked m0 ∧ Alone atControl m0 ∧
    (∃ y ∈ rowReads atBankCached 0 (2 ^ 44) 4 ⟨32, 0, 0, 0⟩, ¬ NeverCached atBankCached y ∧
      atBankCached.translate 0 y.2 1 .engRead false ≠ .migrating) ∧
    (atBankLocked.rowLocked atBankLocked.coreOf 0 0 0 0 4 = true ∧ atControl.translate 0 0 1 .engRead false = .bad .physicalRange ∧
      ((tiny [(7, 2 ^ 24)]).opA64 m0 6).toNat = 2 ^ 56 ∧ (tiny [(7, 2 ^ 24)]).translate 0 (2 ^ 56) 1 .engRead false = .bad .virtualRange) :=
  ⟨⟨formed_like (tiny_formed bankRegs) rfl rfl, rfl⟩, ⟨formed_like (tiny_formed bankRegs) rfl rfl, rfl⟩,
    ⟨formed_like (tiny_formed bankRegs) rfl rfl, rfl⟩, ⟨(2 ^ 44, 0), List.mem_cons_self, by
      have e : atBankCached.translate atBankCached.ctxNo 0 1 .engRead false = .ok (2 ^ 44) (2 ^ 44 + 0x33) 0 (2 ^ 30) none := by decide +kernel
      rintro ⟨e', b, z, p, h, h3⟩
      rw [e] at h
      cases h
      exact absurd h3 (by decide), by decide +kernel⟩, by decide +kernel⟩

theorem test_meets_BankWordsIssue_otherwise : Alone (tiny bankRegs) m0 ∧ Alone (atBank [(32, 1)] [(1024, List.replicate 32 4)]) m0 ∧
    ((tiny bankRegs).translate 0 0 1 .engRead false = .ok 0 0x33 0 (2 ^ 30) none ∧ (tiny bankRegs).ctl.coord 0 = some ⟨0, 0, 0, 0⟩ ∧
    (tiny bankRegs).ctl.owner.getD 0 0 ≠ (tiny bankRegs).ctxNo + 1 ∧
    ¬ ((atBank [(32, 1)] [(1024, List.replicate 32 4)]).dram.queue.getD (bankIn 0 0 2) []).length < 32) :=
  ⟨tiny_alone _, atBank_alone _ _, by decide +kernel⟩

/-- A bank word under way: its function, its parts so far. -/
def bankOp (fn : Nat) (got : List (Nat × List Word)) : Op :=
  { id := 4, ctx := 0, clump := 1, band := 0, die := 0, core := 0, kind := .bank fn 0 0 0 4 0xF000 0 got false }

/-- That word at its group's port, with 0 or 32 commands in the bank's queue; and at the head of the bank's queue. -/
def atPort (fn n : Nat) : State := { tiny [] with ops := [bankOp fn []], dram := { port := [(0, [4])], queue := [(1024, List.replicate n 9)] } }
def atHead (fn : Nat) : State := { tiny [] with ops := [bankOp fn []], dram := { queue := [(1024, [4])] } }

theorem test_meets_BankCommands : ((atPort 0 0).Inv ∧ (atPort 0 32).Inv ∧ (atHead 3).Inv) ∧ BanksSorted (atPort 0 0) ∧ BanksSorted (atPort 0 32) ∧ BanksSorted (atHead 3) ∧
    ((atPort 0 0).op 4 = some (bankOp 0 []) ∧
    (atPort 0 0).dram.port.getD (32 * 0 + 0) [] = 4 :: [] ∧ ((atPort 0 0).dram.queue.getD (bankIn 0 0 2) []).length < 32 ∧
    ¬ ((atPort 0 32).dram.queue.getD (bankIn 0 0 2) []).length < 32 ∧
    (atHead 3).op 4 = some (bankOp 3 []) ∧ (atHead 3).dram.queue.getD (bankIn 0 0 2) [] = 4 :: []) :=
  ⟨⟨inv_of _ rfl rfl rfl (tiny_inv []).pages, inv_of _ rfl rfl rfl (tiny_inv []).pages, inv_of _ rfl rfl rfl (tiny_inv []).pages⟩,
    ⟨rfl, rfl, rfl, rfl⟩, ⟨rfl, rfl, rfl, rfl⟩, ⟨rfl, rfl, rfl, rfl⟩, by decide +kernel⟩

/-- A `bank.lut` over the row of a store's address. -/
def underLut : State := { tiny atEdge with ops := [bankOp 1 []] }

theorem test_meets_AccessTraps_table : Alone underLut m0 ∧ underLut.Inv ∧
    (underLut.conflict underLut.coreOf underLut.ctxNo 0x2070 16 true = none ∧
    underLut.translate underLut.ctxNo 0x2070 16 .write = .ok 0x2070 0x33 0 (2 ^ 30) none ∧
    underLut.lutAt underLut.coreOf underLut.ctxNo 0x2070 = some (bankOp 1 [])) :=
  ⟨⟨formed_like (tiny_formed atEdge) rfl rfl, rfl⟩, inv_of _ rfl rfl rfl (tiny_inv []).pages, by decide +kernel⟩

/-- A reduction of two layers, both of whose partials have come. -/
def reducing : State :=
  { tiny [] with ops := [{ bankOp 3 [(0, [1]), (1, [2])] with kind := .bank 3 0 0 0 3 0xF000 0 [(0, [1]), (1, [2])] false }] }

theorem test_meets_BankReduction : reducing.op 4 = some { bankOp 3 [] with kind := .bank 3 0 0 0 3 0xF000 0 [(0, [1]), (1, [2])] false } ∧
    (layers 3).length ≤ 2 ∧ (reducing.clumps.find? 1).isSome = true ∧ Sorted (reducing.clump 1).spad ∧ [1, 0].Perm (List.range 2) :=
  ⟨by decide +kernel, by decide, rfl, rfl, .swap 0 1 []⟩

end Sys2Proof.Tests
end

