-- ==== Sys2Proof/Tests/MeetsTape.lean ====
section
/-!
SUPPORT. For each statement about the tape: a state and operands that meet what it supposes.
-/

set_option Elab.async false

namespace Sys2Proof.Tests
open Sys2Proof.Machine Sys2Proof.Claims

/-- A tape of the least length, at 0x10000. -/
def tapeDesc (pol : Word) : List Word := [0x10000, 0, 0x8000, 0, 0, 0, 0, pol]

/-- The test band with a tape and some registers. -/
def onTape (t : Tape) (v : SMap Word := []) : State := machine { lone v with tape := t } [0]

theorem onTape_oneBand (t : Tape) (v : SMap Word := []) : OneBand (onTape t v) 0 :=
  have e : (onTape t v).active = [m0] := rfl
  ⟨machine_formed _ _ _ rfl, by rw [e]; simp, by rw [e]; simp⟩

theorem onTape_band (t : Tape) (v : SMap Word := []) : TapeBand (onTape t v) 0 :=
  ⟨onTape_oneBand t v, by
    intro m hm
    simp [onTape, machine, sheafOf, State.sh] at hm
    subst hm
    rfl, Nat.zero_le _, rfl, by
    intro x hx
    have e : ((onTape t v).band (onTape t v).sh.clump 0).strands = [(0, { v := v })] := rfl
    rw [e] at hx
    simp at hx
    subst hx
    exact Nat.zero_lt_succ _⟩

/-- Tapes in record mode: empty, full, and with a staged record of 16 bytes. -/
def empty (pol : Word := 0) : Tape := { mode := 1, desc := tapeDesc pol, pol := pol.toNat }
def full (pol : Word := 0) : Tape := { empty pol with cursor := (empty pol).cap - 16, stageLo := (empty pol).cap - 32 }
def one (mode : Nat := 1) (kind info : Nat := 1) : Tape := { ({ empty with mode := mode } : Tape).push (trailer kind 0 1 info) with count := 1 }

theorem test_meets_TapeControl_open : TapeBand (onTape {} [(8, 0x10000), (10, 0x8000)]) 0 ∧ ((tapeOf (onTape {}) 0).mode = 0 ∧
    ({ ({} : Tape) with desc := tapeDesc 0 } : Tape).badDesc = false ∧ ({ ({} : Tape) with desc := tapeDesc 0 } : Tape).slen = 0 ∧
    ((List.range 8).map fun i => (((onTape {} [(8, 0x10000), (10, 0x8000)]).band 1 0).strand 0).reg (8 + i)) = tapeDesc 0 ∧
    (∀ b ∈ (onTape {} [(8, 0x10000), (10, 0x8000)]).bandsOn (onTape {}).coreOf 0, ∀ r ∈ b.tape.ranges, ¬ (r.1 < 0x18000 ∧ 0x10000 < r.2))) :=
  ⟨onTape_band _ _, by decide +kernel⟩

theorem test_meets_TapeControl_turn : TapeBand (onTape empty) 0 ∧ (tapeOf (onTape empty) 0).mode ∈ [1, 2, 3] ∧
    (tapeOf (onTape empty) 0).mode ≤ 3 := ⟨onTape_band _, by decide +kernel, by decide +kernel⟩

theorem test_meets_TapeControl_close : TapeBand (onTape one) 0 ∧ (onTape one).Inv ∧ ((tapeOf (onTape one) 0).mode ∈ [1, 2, 3] ∧
    (tapeOf (onTape one) 0).bad = [] ∧ (onTape one).poison = [] ∧
    (tapeOf (onTape one) 0).stageLo < (tapeOf (onTape one) 0).cursor ∧ (tapeOf (onTape one) 0).cursor = 16 ∧ (tapeOf (onTape one) 0).sites = [] ∧
    (tapeOf (onTape one) 0).addr 0 % 4096 + 16 ≤ 4096 ∧
    (onTape one).translate 0 ((tapeOf (onTape one) 0).addr 0) 16 .engWrite false =
      .ok ((tapeOf (onTape one) 0).addr 0) 0x33 0 (2 ^ 30) none ∧
    (onTape one).lockWait (onTape one).coreOf 0 [⟨none, (tapeOf (onTape one) 0).base, (tapeOf (onTape one) 0).base + 16384, true⟩,
      ⟨none, (tapeOf (onTape one) 0).addr 0, (tapeOf (onTape one) 0).addr 0 + 16, true⟩] = false ∧
    ((tapeOf (onTape one) 0).cursor ≤ (tapeOf (onTape one) 0).p ∨ (tapeOf (onTape one) 0).p ≤ (tapeOf (onTape one) 0).stageLo) ∧
    ∀ x < 16, ((onTape one).useLeaf 0 0 (2 ^ 30) 0x33 none).scopeOf (onTape one).clp.die ((tapeOf (onTape one) 0).addr 0 + x) ≤
      (onTape one).sh.ext.scope) :=
  ⟨onTape_band _, machine_inv _ _ _ _, by decide +kernel⟩

theorem test_meets_TapeControl_misuse : TapeBand (onTape empty) 0 ∧ (onTape empty).active = [m0] ∧ (onTape empty).sh.lanes = [m0] ∧
    (tapeOf (onTape empty) 0).mode ∉ [0] ∧ (tapeOf (onTape empty) 0).mode ∉ [2] ∧ (tapeOf (onTape {}) 0).mode ∉ [1, 2, 3] :=
  ⟨onTape_band _, rfl, rfl, by decide +kernel, by decide +kernel, by decide +kernel⟩

theorem test_meets_TapeRecords : TapeBand (onTape empty) 0 ∧ (tapeOf (onTape empty) 0).mode = 1 ∧ Fits (tapeOf (onTape empty) 0) 16 ∧
    Staged (tapeOf (onTape empty) 0) ∧ Fits (tapeOf (onTape empty) 0)
      (((tapeOf (onTape empty) 0).valueRecord 0 16 1 0 fun _ _ => 0).2.map List.length).sum :=
  ⟨onTape_band _, rfl, by unfold Fits; decide +kernel, by unfold Staged; decide +kernel, by unfold Fits; decide +kernel⟩

theorem test_meets_TapeRecords_full : TapeBand (onTape full) 0 ∧ (tapeOf (onTape full) 0).mode = 1 ∧ ¬ Fits (tapeOf (onTape full) 0) 16 ∧
    (tapeOf (onTape full) 0).pol ≠ 2 ∧ TapeBand (onTape (full 2)) 0 ∧ ¬ Fits (tapeOf (onTape (full 2)) 0) 16 ∧
    (tapeOf (onTape (full 2)) 0).pol = 2 ∧ Staged (tapeOf (onTape (full 2)) 0) ∧ (tapeOf (onTape { full with mode := 3 }) 0).mode = 3 :=
  ⟨onTape_band _, rfl, by unfold Fits; decide +kernel, by decide +kernel, onTape_band _, by unfold Fits; decide +kernel, by decide +kernel,
    by unfold Staged; decide +kernel, rfl⟩

/-- A tape whose site 0 has a slot of one register. -/
def bound : Tape := { empty with sites := [(0, ⟨0, 1, 0⟩)] }

theorem test_meets_TapePopUndoesRecord : Sorted bound.stage ∧ Sorted bound.pred ∧ Sorted bound.sites ∧ bound.slotOf 0 = some 0 ∧
    (bound.sites.find? 0).map (·.count) = some 1 ∧ bound.cursor = 0 :=
  ⟨rfl, rfl, rfl, by decide +kernel, by decide +kernel, rfl⟩

theorem test_meets_TapeReplay : TapeBand (onTape (one 2)) 0 ∧ ((tapeOf (onTape (one 2)) 0).mode = 2 ∧ (tapeOf (onTape (one 2)) 0).cursor ≠ 0 ∧
    (tapeOf (onTape (one 2)) 0).stageLo ≤ (tapeOf (onTape (one 2)) 0).needs 10 (tapeOf (onTape (one 2)) 0).cursor true ∧
    (tapeOf (onTape (one 2)) 0).bad = [] ∧
    (let r := (tapeOf (onTape (one 2)) 0).recAt 16; (r.kind, r.site, r.mask, r.nm1) = (1, 0, 1, 0)) ∧
    ((onTape (one 2)).band 1 0).liveMask.toNat = 1 ∧ siteIn (onTape (one 2)) 0 1 = 0 ∧ ((onTape (one 2)).band 1 0).live ≠ [] ∧
    (let r := (tapeOf (onTape (one 2 2)) 0).recAt 16; (r.kind, r.site, r.mask, r.nm1) = (2, 0, 1, 0))) :=
  ⟨onTape_band _, by decide +kernel⟩

/-- A tape in replay whose record on the top has been spilled: its chunk is the second. -/
def spilled : Tape := { empty with mode := 2, cursor := 8192, stageLo := 8192 }

theorem test_meets_TapeReplay_chunk : TapeBand (onTape spilled) 0 ∧ ((onTape spilled).active = [m0] ∧ (onTape spilled).sh.lanes = [m0] ∧
    (tapeOf (onTape spilled) 0).needs 10 (tapeOf (onTape spilled) 0).cursor true < (tapeOf (onTape spilled) 0).stageLo ∧
    (tapeOf (onTape spilled) 0).addr 4096 % 4096 = 0 ∧
    (onTape spilled).lockWait (onTape spilled).coreOf 0 [⟨none, (tapeOf (onTape spilled) 0).addr 4096,
      (tapeOf (onTape spilled) 0).addr 4096 + 4096, false⟩] = false ∧
    (onTape spilled).translate 0 ((tapeOf (onTape spilled) 0).addr 4096) 4096 .engRead false =
      .ok ((tapeOf (onTape spilled) 0).addr 4096) 0x33 0 (2 ^ 30) none) := ⟨onTape_band _, by decide +kernel⟩

/-- A tape that holds one value record, in replay. -/
def valued : Tape :=
  let r := bound.valueRecord 0 1 1 4 fun _ _ => 7
  { r.2.foldl Tape.push r.1 with mode := 2, count := 1 }

theorem test_meets_TapeReplay_value : TapeBand (onTape valued) 0 ∧ ((tapeOf (onTape valued) 0).mode = 2 ∧ (tapeOf (onTape valued) 0).cursor ≠ 0 ∧
    (tapeOf (onTape valued) 0).bad = [] ∧
    (tapeOf (onTape valued) 0).stageLo ≤ (tapeOf (onTape valued) 0).needs 10 (tapeOf (onTape valued) 0).cursor true ∧
    (let r := (tapeOf (onTape valued) 0).recAt (tapeOf (onTape valued) 0).cursor; (r.kind, r.site, r.mask, r.nm1) = (0, 0, 1, 0)) ∧
    maskWhere (onTape valued) 0 0 = 1 ∧ (tapeOf (onTape valued) 0).popValue.1 ≠ []) :=
  ⟨onTape_band _, by decide +kernel⟩

theorem test_meets_TapeReplay_divergence : TapeBand (onTape (one 2)) 0 ∧ (onTape (one 2)).active = [m0] ∧ (onTape (one 2)).sh.lanes = [m0] ∧
    ((tapeOf (onTape (one 2)) 0).recAt 16).kind ≠ 4 ∧ ((tapeOf (onTape (one 2)) 0).recAt 16).kind ≠ 2 :=
  ⟨onTape_band _, rfl, rfl, by decide +kernel, by decide +kernel⟩

/-- A strand that waits for the chunk below 8,192 of the stream; and one that waits for the spill of the first chunk. -/
def tapeMove (lo : Nat) (out : Bool) : Op := { id := 4, ctx := 0, clump := 1, band := 0, die := 0, core := 0, kind := .tape lo out }
def readingBack : State :=
  { machine { strands := [(0, { park := some ⟨.tapeRead 4096, 0, none⟩ })]
              tape := { mode := 2, desc := tapeDesc 0, cursor := 8192 + 16, stageLo := 8192 } } [0] with ops := [tapeMove 4096 false] }
def spilling : State :=
  { machine { strands := [(0, { park := some ⟨.tapeSpill, 0, some 8⟩ })]
              tape := { mode := 1, desc := tapeDesc 0, cursor := 8192, spill := [0] } } [0] with ops := [tapeMove 0 true] }

theorem test_meets_TapeTraffic : readingBack.Inv ∧ (readingBack.clumps.find? 1).isSome = true ∧ Sorted (readingBack.band 1 0).strands ∧
    Sorted (readingBack.band 1 0).tape.stage ∧ (0 < (readingBack.clump 1).bands.length ∧ readingBack.poison = [] ∧
    (readingBack.band 1 0).tape.bad = [] ∧ readingBack.tapeOpOf 1 0 false = some (tapeMove 4096 false, 4096) ∧
    (readingBack.band 1 0).tape.addr 4096 % 4096 = 0 ∧
    readingBack.translate 0 ((readingBack.band 1 0).tape.addr 4096) 4096 .engRead false =
      .ok ((readingBack.band 1 0).tape.addr 4096) 0x33 0 (2 ^ 30) none) :=
  ⟨inv_of _ rfl rfl rfl (tiny_inv []).pages, rfl, rfl, rfl, by decide +kernel⟩

theorem test_meets_TapeTraffic_spill : spilling.Inv ∧ (spilling.clumps.find? 1).isSome = true ∧ Sorted (spilling.band 1 0).strands ∧
    Sorted (spilling.band 1 0).tape.stage ∧ ((spilling.band 1 0).tape.spill = 0 :: [] ∧ (spilling.band 1 0).tape.addr 0 % 4096 = 0 ∧
    spilling.tapeOpOf 1 0 true = some (tapeMove 0 true, 0) ∧
    spilling.translate 0 ((spilling.band 1 0).tape.addr 0) 4096 .engWrite false =
      .ok ((spilling.band 1 0).tape.addr 0) 0x33 0 (2 ^ 30) none) ∧
    ∀ x < 4096, (spilling.useLeaf 0 0 (2 ^ 30) 0x33 none).scopeOf 0 ((spilling.band 1 0).tape.addr 0 + x) ≤ (tapeMove 0 true).scope := by
  have h : ∀ i < 64, ∀ j < 64,
      (spilling.useLeaf 0 0 (2 ^ 30) 0x33 none).scopeOf 0 ((spilling.band 1 0).tape.addr 0 + (64 * i + j)) ≤ (tapeMove 0 true).scope := by
    decide +kernel
  refine ⟨inv_of _ rfl rfl rfl (tiny_inv []).pages, rfl, rfl, rfl, by decide +kernel, fun x hx => ?_⟩
  have y := h (x / 64) (by omega) (x % 64) (by omega)
  rwa [show 64 * (x / 64) + x % 64 = x by omega] at y

theorem test_meets_TapeTraffic_tokens :
    (let s := readingBack
     let t := broke s ((s.band 1 0).tape.addr 4096)
     HasTokens s (s.readChunk (tapeMove 4096 false) 4096 1 0) 0 [] ∧ ¬ HasTokens t (t.readChunk (tapeMove 4096 false) 4096 1 0) 0 []) ∧
    (let s := spilling
     let t := broke s ((s.band 1 0).tape.addr 0)
     HasTokens s (s.landSpill (tapeMove 0 true) 0 1 0) 0 [] ∧ ¬ HasTokens t (t.landSpill (tapeMove 0 true) 0 1 0) 0 []) := by
  unfold HasTokens
  decide +kernel

end Sys2Proof.Tests
end

