-- ==== Sys2Proof/Tests/MeetsMatrix.lean ====
section
/-!
SUPPORT. For each statement about matrix words, matrix operations, drains and the sequencer: a state and operands that meet what it
supposes.
-/

set_option Elab.async false

namespace Sys2Proof.Tests
open Sys2Proof.Machine Sys2Proof.Claims

/-- Tiles of scaled E4M3 elements, of some rows of 32; a slot, and a generator, that hold such elements. -/
def tileDesc (rows : Nat) : Nat := 5 + 2 ^ 4 + rows * 2 ^ 8 + 32 * 2 ^ 16 + 0x400 * 2 ^ 32
def sl0 : Slot := { fmt := 5, k := 32, blen := 32, scaled := false }
def gen0 : Gen := { fmt := 5 }

/-- A clump with a loaded record of some rows, a slot and a generator; thicket leader if it has a peer. -/
def holding (rows : Nat := 1) (peer : Option Nat := none) : Clump :=
  { tiles := [(0, { desc := tileDesc rows, st := 3, own := 4 })], mslots := [(0, sl0)], gens := [(0, gen0)]
    thicket := if peer = none then 0 else 1, peer := peer }

/-- The test band in that clump; v6 and v7 hold 0, or another value. -/
def matrix (v : SMap Word := []) (c : Clump := holding) (ops : List Op := []) : State := { machine (lone v) [0] c with ops := ops }

theorem matrix_formed (v : SMap Word) (c : Clump) (ops : List Op) : (matrix v c ops).Formed :=
  formed_like (machine_formed (lone v) c {} rfl) rfl rfl

theorem matrix_oneBand (v : SMap Word) (c : Clump) (ops : List Op) (h : (matrix v c ops).active = [m0] := by rfl) :
    OneBand (matrix v c ops) 0 := ⟨matrix_formed _ _ _, by rw [h]; simp, by rw [h]; simp⟩

theorem matSorted_of (c : Clump) (h1 : SMap.wfFrom (fun _ => true) 0 c.tiles = true) (h2 : SMap.wfFrom (fun _ => true) 0 c.accs = true)
    (h3 : SMap.wfFrom (fun _ => true) 0 c.gens = true) (h4 : SMap.wfFrom (fun _ => true) 0 c.stores = true)
    (h5 : SMap.wfFrom (fun _ => true) 0 c.spad = true) (h6 : SMap.wfFrom (fun _ => true) 0 c.resv = true)
    (h7 : (c.accs.all fun x => SMap.wfFrom (fun _ => true) 0 x.2.vals) = true) : MatSorted c :=
  ⟨h1, h2, h3, h4, h5, h6, fun x hx => List.all_eq_true.1 h7 x hx⟩

/-- With no operation in flight nothing is in a word's way. -/
theorem free_idle (s : State) (h1 : s.slaved s.sh.clump = false) (h2 : s.ops = []) (rd wr : List Item) : Free s rd wr :=
  ⟨h1, fun m _ => by simp [State.matPending, h2], by simp [State.itemsWritten, h2], by simp [State.itemsUsed, h2]⟩

theorem matrix_free (v : SMap Word) (c : Clump) (h : (matrix v c []).slaved 1 = false) (rd wr : List Item) : Free (matrix v c []) rd wr :=
  free_idle _ h rfl rd wr

/-! ### Words -/

/-- The words that no thicket needs. -/
def alonePart (xs : List MatWord) : List MatWord := xs.eraseIdx 7 |>.eraseIdx 5

theorem test_meets_MatrixWordsIssue : OneBand (matrix [] holding []) 0 ∧
    (∀ x ∈ alonePart (matWords (matrix [] holding []) m0 0 0 0 0 0 6 7), Free (matrix [] holding []) x.reads []) ∧
    laneZero (matrix [] holding []).active = m0 ∧ ∀ x ∈ alonePart (matWords (matrix [] holding []) m0 0 0 0 0 0 6 7),
      x.fault = none ∧ (matrix [] holding []).lockWait (matrix [] holding []).clp.coreNo 0 x.ranges = false :=
  ⟨matrix_oneBand _ _ _, fun _ _ => matrix_free _ _ (by decide +kernel) _ _, rfl, by decide +kernel⟩

/-- The leader of a thicket whose follower has a slot too. -/
def leader : State :=
  { tiny [] with clumps := [(1, { holding 1 (some 2) with planting := 1, kernel := kern, bands := [lone []] }),
                            (2, { holding 1 (some 1) with planting := 1, kernel := kern, bands := [lone []], thicket := 2 })] }

theorem leader_oneBand : OneBand leader 0 :=
  have e : leader.active = [m0] := rfl
  ⟨formed_of _ rfl (by decide +kernel) (by decide +kernel), by rw [e]; simp, by rw [e]; simp⟩

theorem test_meets_MatrixWordsIssue_pair : OneBand leader 0 ∧ (∀ x ∈ matWords leader m0 0 0 0 0 0 6 7, x.fault = none) ∧
    ∀ x ∈ matWords leader m0 0 0 0 0 0 6 7, Free leader x.reads [] :=
  ⟨leader_oneBand, by decide +kernel, fun _ _ => free_idle _ (by decide +kernel) rfl _ _⟩

/-- A generator's descriptor is being read; record 0 is being loaded. -/
def readingGen : Op := { copying noCopy 4 with kind := .gset 0 0 }
def loadingTile : Op := { copying noCopy 4 with kind := .tload 0 0 }

theorem test_meets_MatrixWordsIssue_otherwise :
    OneBand (matrix [] holding [readingGen]) 0 ∧ (matrix [] holding [readingGen]).active = [m0] ∧ (matrix [] holding [readingGen]).sh.lanes = [m0] ∧
    ¬ Free (matrix [] holding [readingGen]) [.gen 0] [] ∧
    OneBand (matrix [(6, 1)] {} []) 0 ∧ (∀ x ∈ matWords (matrix [(6, 1)] {} []) m0 0 0 0 0 0 6 6, x.fault.isSome = true ∨ x.reads = [.gen 0] ∨ x.reads = [.gen 0, .slot 0]) ∧
    ∀ x ∈ matWords (matrix [(6, 1)] {} []) m0 0 0 0 0 0 6 6, Free (matrix [(6, 1)] {} []) x.reads [] :=
  ⟨matrix_oneBand _ _ _, rfl, rfl, fun h => absurd h.reads (by decide +kernel), matrix_oneBand _ _ _, by decide +kernel,
    fun _ _ => matrix_free _ _ (by decide +kernel) _ _⟩

/-- A scratchpad image, or a descriptor, that a copy is writing. -/
def imageLocked : State :=
  { matrix [] holding [] with locks := [(0, ⟨0, some 1, 0, 4096, true, 4, 77⟩), (0, ⟨0, none, 0, 4096, true, 4, 77⟩)] }

theorem test_meets_MatrixWordsIssue_locked : OneBand imageLocked 0 ∧ imageLocked.active = [m0] ∧ imageLocked.sh.lanes = [m0] ∧
    (∀ x ∈ alonePart (matWords imageLocked m0 0 0 0 0 0 6 7), x.fault = none ∧ (x.ranges ≠ [] →
      imageLocked.lockWait imageLocked.clp.coreNo 0 x.ranges = true)) ∧
    ∃ x ∈ alonePart (matWords imageLocked m0 0 0 0 0 0 6 7), x.ranges ≠ [] :=
  ⟨oneBand_like (matrix_oneBand [] holding []) rfl rfl, rfl, rfl, by decide +kernel, by decide +kernel⟩

/-- A descriptor of an empty tile, of one row, and of 32 rows of 1,024, in v6 and v7; record 1 is to hold it. -/
def asTile (x : Nat) : SMap Word := [(6, BitVec.ofNat 32 x), (7, BitVec.ofNat 32 (x / 2 ^ 32))]

theorem test_meets_MatrixStateWords : OneBand (matrix (asTile (tileDesc 0)) holding []) 0 ∧ MatSorted (matrix (asTile (tileDesc 0)) holding []).clp ∧
    (∀ rd wr, Free (matrix (asTile (tileDesc 0)) holding []) rd wr) ∧ (∀ rd wr, Free (matrix (asTile (tileDesc 1)) holding []) rd wr) ∧
    fitsAt (matrix (asTile (tileDesc 1)) holding []).clp 1 1 4 ∧ (∀ o' < 4, ¬ fitsAt (matrix (asTile (tileDesc 1)) holding []).clp 1 1 o') ∧
    (tileBad (tileDesc 0) = false ∧
    ((matrix (asTile (tileDesc 0)) holding []).opA64 m0 6).toNat = tileDesc 0 ∧ ({ desc := tileDesc 0 } : Tile).rows = 0 ∧
    ((matrix (asTile (tileDesc 1)) holding []).opA64 m0 6).toNat = tileDesc 1 ∧ ({ desc := tileDesc 1 } : Tile).rows ≠ 0) :=
  ⟨matrix_oneBand _ _ _, matSorted_of _ rfl rfl rfl rfl rfl rfl rfl, fun _ _ => matrix_free _ _ (by decide +kernel) _ _,
    fun _ _ => matrix_free _ _ (by decide +kernel) _ _, by unfold fitsAt; decide +kernel, by unfold fitsAt; decide +kernel, by decide +kernel⟩

/-- A clump without reservation space. -/
def noSpace : State :=
  { tiny (asTile (tileDesc 1)) with
    clumps := [(1, { planting := 1, kernel := { kern with resv := 0 }, bands := [lone (asTile (tileDesc 1))] })] }

theorem test_meets_MatrixStateWords_full : OneBand noSpace 0 ∧ noSpace.active = [m0] ∧ noSpace.sh.lanes = [m0] ∧ MatSorted noSpace.clp ∧
    Free noSpace [] [.tile 1] ∧ tileBad (tileDesc 1) = false ∧ ∀ o, ¬ fitsAt noSpace.clp 1 1 o :=
  have e : noSpace.active = [m0] := rfl
  ⟨⟨formed_of _ rfl (by decide +kernel) (by decide +kernel), by rw [e]; simp, by rw [e]; simp⟩, rfl, rfl,
    matSorted_of _ rfl rfl rfl rfl rfl rfl rfl, free_idle _ (by decide +kernel) rfl _ _, by decide +kernel, by
    intro o h
    have : 256 * (o + 1) ≤ 0 := h.1
    omega⟩

/-- A step on accumulator 1 under way. -/
def stepping (pair : Bool := false) : Op := { copying noCopy 4 with kind := .step 0 0 0 (.tile 0) pair none }

theorem test_meets_MatrixStateWords_wait : OneBand (matrix [] holding [stepping]) 0 ∧ Free (matrix [] holding [stepping]) [] [] ∧
    (pendingOn (matrix [] holding []) 0 0 = [] ∧ pendingOn (matrix [] holding [stepping]) 0 0 ≠ []) ∧
    ((matrix [] holding [stepping]).active = (matrix [] holding [stepping]).sh.lanes ∧
    ((matrix [(6, 4)] holding []).opA m0 6).toNat % 8 ≤ 4 ∧ 4 < ((matrix [(6, 5)] holding []).opA m0 6).toNat % 8) :=
  ⟨matrix_oneBand _ _ _, ⟨by decide +kernel, by decide +kernel, rfl, rfl⟩, by unfold pendingOn; decide +kernel, by decide +kernel⟩

/-! ### Operations -/

/-- An operation under way in the test clump. -/
def doing (k : OpKind) : Op := { copying noCopy 4 with kind := k }

theorem mayAct (k : OpKind) (c : Clump) : MayAct (matrix [] c [doing k]) 4 (doing k) := ⟨rfl, rfl, rfl, rfl⟩

theorem test_meets_MatrixOperationsEnd (k : OpKind) : MayAct (matrix [] holding [doing k]) 4 (doing k) ∧
    MatSorted ((matrix [] holding [doing k]).clump 1) := ⟨mayAct _ _, matSorted_of _ rfl rfl rfl rfl rfl rfl rfl⟩

theorem test_meets_MatrixOperationsEnd_items : tileBad (((matrix [] holding []).clump 1).tile 0).desc = false ∧
    2 ≤ (((matrix [] holding []).clump 1).tile 0).st ∧ arrayFmt (((matrix [] holding []).clump 1).gen 0).fmt = true ∧
    ((matrix [] holding []).clump 1).mslots.find? 0 = some sl0 ∧ (sl0.blen = 16 ∨ sl0.blen = 32) ∧ 64 * 2 + slotCols sl0.fmt ≤ 256 := by
  decide +kernel

theorem test_meets_MatrixOperationsEnd_pair : MayAct { leader with ops := [stepping true] } 4 (stepping true) ∧
    MatSorted (({ leader with ops := [stepping true] } : State).clump 1) ∧
    (({ leader with ops := [stepping true] } : State).clump 1).mslots.find? 0 = some sl0 ∧
    (({ leader with ops := [stepping true] } : State).clump 1).peer = some 2 ∧
    (({ leader with ops := [stepping true] } : State).clump 2).mslots.find? 0 = some sl0 :=
  ⟨⟨rfl, rfl, rfl, rfl⟩, matSorted_of _ rfl rfl rfl rfl rfl rfl rfl, by decide +kernel, by decide +kernel, by decide +kernel⟩

/-- The generator's descriptor at 0x2000, which is good, or breaks a rule. -/
def genAt (x : Nat) : State := { matrix [] holding [doing (.gset 0 0x2000)] with mem := Memory.writeNat [] 0x2000 64 x }

theorem genAt_mem (x : Nat) (h : (Memory.writeNat [] 0x2000 64 x).wf = true) : (genAt x).Inv := inv_of _ h rfl rfl (tiny_inv []).pages

theorem test_meets_MatrixOperationsEnd_gset : MayAct (genAt 0) 4 (doing (.gset 0 0x2000)) ∧ (genAt 0).Inv ∧ (genAt (2 ^ 511)).Inv ∧
    ((genAt 0).translate 0 0x2000 64 .engRead false = .ok 0x2000 0x33 0 (2 ^ 30) none ∧
    genBad ((List.range 64).map fun j => (genAt 0).latest (0x2000 + j)) = false ∧
    genBad ((List.range 64).map fun j => (genAt (2 ^ 511)).latest (0x2000 + j)) = true ∧ 0 < ((genAt 0).clump 1).bands.length) :=
  ⟨⟨rfl, rfl, rfl, rfl⟩, genAt_mem _ (by decide +kernel), genAt_mem _ (by decide +kernel), by decide +kernel⟩

theorem test_meets_MatrixOperationsEnd_tokens : let s := genAt 0
    let t := broke s 0x2000
    HasTokens s (s.readGset (doing (.gset 0 0x2000)) 0 0x2000) 0 [] ∧ ¬ HasTokens t (t.readGset (doing (.gset 0 0x2000)) 0 0x2000) 0 [] := by
  unfold HasTokens
  decide +kernel

/-! ### Drains -/

/-- Drain descriptors of one row of 32 columns, with rows 128 bytes apart: to the top of the scratchpad, to memory, to registers, requantised to bytes; and one
of no rows. -/
def drainTo (w0 addr : Nat) (rows : Nat := 1) (cols : Nat := 32) (sc : Nat := 0) : List Word :=
  [BitVec.ofNat 32 w0, BitVec.ofNat 32 addr, 0, 128, BitVec.ofNat 32 sc, 0, BitVec.ofNat 32 (rows * 2 ^ 16 + cols), 0]
def toSpad : List Word := drainTo 0 0xFF80
def toMem : List Word := drainTo 0x100 0x2F80
def toRegs : List Word := drainTo 0x200 0 1 0
def toBytes : List Word := drainTo 8 0xFFE0 1 32 0xFFD0

/-- The test band with that descriptor in v8 to v15. -/
def draining (ws : List Word) : State := matrix ((List.range 8).map fun i => (8 + i, (ws[i]?).getD 0)) holding []

theorem draining_oneBand (ws : List Word) : OneBand (draining ws) 0 := matrix_oneBand _ _ _ (by rfl)

theorem free_draining (ws : List Word) : Free (draining ws) [] [] := free_idle _ rfl rfl _ _

theorem test_meets_Drains_issue : (∀ ws, OneBand (draining ws) 0 ∧ Free (draining ws) [] []) ∧ (drainWords (draining toSpad) 8 = toSpad ∧
    drainFault (draining toSpad) false 0 toSpad = none ∧ drainFault (draining toSpad) true 0 toSpad = none ∧
    (draining toSpad).lockWait (draining toSpad).clp.coreNo 0 ((drainDesc toSpad).ranges 1) = false ∧
    drainWords (draining toRegs) 8 = toRegs ∧ drainFault (draining toRegs) false 16 toRegs = none ∧ ((draining toRegs).band 1 0).engOut = []) ∧
    (drainFault (draining (drainTo 0 0xFF80 0)) false 0 (drainTo 0 0xFF80 0) = some (.matrixOperand, 0) ∧
    drainFault (draining toSpad) false 8 toSpad = some (.illegal, 0) ∧
    (draining (drainTo 0 0xFF80 0)).active = [m0] ∧ (draining (drainTo 0 0xFF80 0)).sh.lanes = [m0]) ∧ (8 : BitVec 7).toNat % 8 = 0 ∧
    (127 : BitVec 7).toNat % 8 ≠ 0 :=
  ⟨fun ws => ⟨draining_oneBand ws, free_draining ws⟩, by decide +kernel, by decide +kernel, by decide⟩

theorem test_meets_Drains_end (ws : List Word) (raw : Bool) :
    let k := OpKind.drain 0 (drainDesc ws) raw 16
    MayAct (matrix [] holding [doing k]) 4 (doing k) ∧ ListsBand (matrix [] holding [doing k]) (doing k) ∧
      MatSorted ((matrix [] holding [doing k]).clump 1) ∧ (matrix [] holding [doing k]).Inv ∧
      (((matrix [] holding [doing k]).clump 1).acc 0).poison = false ∧ (((matrix [] holding [doing k]).clump 1).store 0).poison = false :=
  ⟨mayAct _ _, ⟨rfl, Nat.zero_lt_one⟩, matSorted_of _ rfl rfl rfl rfl rfl rfl rfl, inv_of _ rfl rfl rfl (tiny_inv []).pages, rfl, rfl⟩

theorem test_meets_Drains_descriptors : (∀ ws ∈ [toSpad, toMem, toRegs, toBytes], drainBad (drainDesc ws) ws = false ∧ Apart (drainDesc ws)) ∧
    (((drainDesc toSpad).dest, (drainDesc toMem).dest, (drainDesc toRegs).dest, (drainDesc toBytes).dest) = (0, 1, 2, 0) ∧
    (∀ ws ∈ [toSpad, toBytes], ∀ y ∈ (drainDesc ws).spans, 0 ≤ y.1) ∧ (drainDesc toBytes).rq ≠ 0 ∧
    (drainDesc toMem).daddr % 4096 + 4 * (drainDesc toMem).ncol ≤ 4096 ∧
    (matrix [] holding []).translate 0 0x2F80 128 .engWrite false = .ok 0x2F80 0x33 0 (2 ^ 30) none ∧
    ∀ x < 128, ((matrix [] holding []).useLeaf 0 0 (2 ^ 30) 0x33 none).scopeOf 0 (0x2F80 + x) ≤ (doing (.drain 0 (drainDesc toMem) false 16)).scope) :=
  ⟨by unfold Apart; decide +kernel, by decide +kernel⟩

theorem test_meets_Drains_tokens :
    let k (ws : List Word) := OpKind.drain 0 (drainDesc ws) false 16
    let s (ws : List Word) := matrix [] holding [doing (k ws)]
    let t := broke (s toMem) 0x2F80
    (∀ ws ∈ [toSpad, toMem, toRegs, toBytes], HasTokens (s ws) ((s ws).runDrain (doing (k ws)) 0 (drainDesc ws) false 16) 0 []) ∧
      ¬ HasTokens t (t.runDrain (doing (k toMem)) 0 (drainDesc toMem) false 16) 0 [] := by
  unfold HasTokens
  decide +kernel

/-- A drain to registers, whose result the band awaits. -/
def toRegsOp : Op := doing (.drain 0 (drainDesc toRegs) false 16)
def awaitingDrain : State := { machine { lone [] with engOut := [{ op := some 4, vregs := [16] }] } [0] holding with ops := [toRegsOp] }

theorem test_meets_Drains_registers : MayAct awaitingDrain 4 toRegsOp ∧ ListsBand awaitingDrain toRegsOp ∧ MatSorted (awaitingDrain.clump 1) ∧
    (awaitingDrain.band 1 0).engOut.any (fun e => e.op == some 4) = true :=
  ⟨⟨rfl, rfl, rfl, rfl⟩, ⟨rfl, Nat.zero_lt_one⟩, matSorted_of _ rfl rfl rfl rfl rfl rfl rfl, by decide +kernel⟩

/-- An activation table whose segment 1 starts at 1.0 and whose segment 2 starts at 2.0: 1.0 lies in segment 1; and a NaN. -/
def relu : DrainStore := { table := [(1, 0x3F800000), (2, 0x40000000)] ++ (List.range 61).map fun i => (i + 3, 0x7F7FFFFF) }

theorem test_meets_Drains_activation : Machine.Num.isNan (Machine.Num.ofF32 0x3F800000) = false ∧ segmentOf relu (Machine.Num.ofF32 0x3F800000) 1 ∧
    Machine.Num.isNan (Machine.Num.ofF32 0x7FC00000) = true :=
  ⟨by decide +kernel, ⟨by decide, fun _ => .inr (by decide +kernel), by
    have h : ∀ i < 64, 1 < i → ¬ (Machine.Num.lt (Machine.Num.ofF32 (relu.word i)) (Machine.Num.ofF32 0x3F800000) ∨
      Machine.Num.eq (Machine.Num.ofF32 (relu.word i)) (Machine.Num.ofF32 0x3F800000)) := by decide +kernel
    exact fun i h1 h2 => h i (by omega) h1⟩, by decide +kernel⟩

/-! ### The sequencer -/

/-- An `mgemm` of some rows in chunks of K, by records 0 and 1, into the scratchpad; its descriptor at 0x8000. -/
def gemm (rows kt : Nat) : List Word :=
  [0, 1024, 0x4000, 4096, BitVec.ofNat 32 (rows + kt * 2 ^ 16), 1, 0, 0] ++ drainTo 0 0xC000

def gemmClump : Clump :=
  { tiles := [(0, { desc := tileDesc 32, st := 3, own := 8 }), (1, { desc := tileDesc 0, st := 1 })], mslots := [(0, sl0), (1, sl0)]
    spad := (List.range 64).filterMap fun i => let b := byteOf (((gemm 32 2)[i / 4]?).getD 0).toNat (i % 4)
      if b = 0 then none else some (0x8000 + i, b) }

def gemms (o : Word) : State := matrix [(6, o)] gemmClump []

theorem test_meets_Sequencer_issue : OneBand (gemms 0x8000) 0 ∧ Free (gemms 0x8000) [] [] ∧
    (gemms 0x8000).clp.mgemmAt 0x8000 none = .ok { desc := gemm 32 2 } ∧
    (((gemms 0x8000).band 1 0).unrel.length < Config.maxUnreleased ∧
    (gemms 0x8000).lockWait (gemms 0x8000).clp.coreNo 0 [⟨some 1, 0x8000, 0x8040, false⟩] = false ∧
    (gemms 0x8000).itemsWritten 1 [.tile 0, .tile 1] = false ∧
    (gemms 0x8000).lockWait (gemms 0x8000).clp.coreNo 0 (({ desc := gemm 32 2 } : Mgemm).ranges (gemms 0x8000).clp 1) = false) :=
  ⟨matrix_oneBand _ _ _, matrix_free _ _ rfl _ _, by rfl, by decide +kernel⟩

theorem test_meets_Sequencer_trap : OneBand (gemms 0x8001) 0 ∧ Free (gemms 0x8001) [] [] ∧
    (gemms 0x8001).clp.mgemmAt 0x8001 none = .error ⟨.misaligned, 0x8001, 0⟩ ∧
    ((gemms 0x8001).lockWait (gemms 0x8001).clp.coreNo 0 [⟨some 1, 0x8001, 0x8041, false⟩] = false ∧
    (gemms 0x8001).itemsWritten 1 ((List.range 8).map .tile) = false ∧ (gemms 0x8001).active = [m0] ∧ (gemms 0x8001).sh.lanes = [m0]) :=
  ⟨matrix_oneBand _ _ _, matrix_free _ _ rfl _ _, by rfl, by decide +kernel⟩

/-- The sequencer at a boundary, with handle 0 in flight. -/
def seqOp (p : Mgemm) : Op := { doing (.mgemm p) with handle := some 0 }
def sequencing (p : Mgemm) : State :=
  { machine { lone [] with handles := [(0, 1)], issued := 1 } [0] gemmClump with
    ops := [seqOp p], locks := [(0, ⟨0, some 1, 0xC000, 0xD000, true, 4, 0⟩)] }

theorem test_meets_Sequencer_step (p : Mgemm) : MayAct (sequencing p) 4 (seqOp p) ∧ ListsBand (sequencing p) (seqOp p) ∧
    (sequencing p).slaved 1 = false ∧ ((sequencing p).band 1 0).handles.any (fun x => x.1 == 0) = true ∧
    ∃ l ∈ (sequencing p).locks, l.2.op = (seqOp p).id :=
  ⟨⟨rfl, rfl, rfl, rfl⟩, ⟨rfl, Nat.zero_lt_one⟩, rfl, rfl, _, List.mem_singleton.2 rfl, rfl⟩

theorem test_meets_Sequencer_sorted (p : Mgemm) : MatSorted ((sequencing p).clump 1) :=
  matSorted_of _ rfl rfl rfl rfl (by
    have h : SMap.wfFrom (fun _ => true) 0 gemmClump.spad = true := by decide +kernel
    exact h) rfl rfl

/-- An `mgemm` of no rows; one at a slot load; after it, in its second chunk; and past its last tile. -/
theorem test_meets_Sequencer_boundaries :
    (let p : Mgemm := { desc := gemm 0 2 }
     p.rows = 0 ∧ p.m = 0) ∧
    (let p : Mgemm := { desc := gemm 32 2 }
     p.afterLoad = true ∧ 32 * p.m < p.rows ∧ p.m = 0 ∧ (p.word 2 + p.c * p.word 3) % 128 = 0 ∧
     ∀ x ∈ (gemmClump.tile p.tb).slotSpans (p.word 2 + p.c * p.word 3), x.1 + x.2 ≤ kern.spad) ∧
    (let p : Mgemm := { desc := gemm 32 2, c := 1, afterLoad := false, held := [{}] }
     let a := p.word 0 + (p.m * p.kt + p.c) * p.word 1
     let x := (gemmClump.tile p.ta).withRows (min 32 (p.rows - 32 * p.m))
     32 * p.m < p.rows ∧ gemmClump.mslots.find? (p.c % 2) = some sl0 ∧ a % 16 = 0 ∧ (∀ y ∈ x.spans a, y.1 + y.2 ≤ kern.spad) ∧
     legalStep x.fmt (some x.k) (some sl0) 0 = true ∧ x.rows = min 32 (p.rows - 32 * p.m)) ∧
    (let p : Mgemm := { desc := gemm 32 2, m := 1, held := [{}, {}] }
     let d := p.drainOf (p.m - 1)
     p.mt = p.m ∧ p.c = 0 ∧ p.afterLoad = true ∧ drainBad (drainDesc p.drainWords) p.drainWords = false ∧ d.dest = 0 ∧
     (∀ y ∈ d.spans, 0 ≤ y.1 ∧ y.1 + (y.2 : Int) ≤ kern.spad)) := by
  decide +kernel

/-- An `mgemm` whose last tile's drain goes to the scratchpad, or to memory. -/
def lastTile (ws : List Word) : Mgemm := { desc := ((gemm 32 2).take 8) ++ ws, m := 1 }

theorem test_meets_Sequencer_tokens : let s (ws : List Word) := sequencing (lastTile ws)
    let t := broke (s toMem) 0x2F80
    HasTokens (s toSpad) ((s toSpad).runMgemm (seqOp (lastTile toSpad)) (lastTile toSpad)) 0 [] ∧
    ¬ HasTokens t (t.runMgemm (seqOp (lastTile toMem)) (lastTile toMem)) 0 [] := by
  unfold HasTokens
  decide +kernel

theorem test_meets_Sequencer_apart : Apart (({ desc := gemm 32 2, m := 1 } : Mgemm).drainOf 0) := by
  unfold Apart
  decide +kernel

/-- The test band with an unreleased copy that breaks a rule, or breaks none. -/
def posted (w7 : Word) : State :=
  machine { lone [] with handles := [(0, 2)], issued := 1
                         unrel := [{ op := 0x22, fn := 0, desc := [0, 0, 0, 0, 0x10010, 0, 0, w7], handle := 0, compl := 0, scope := 4 }] } [0]

theorem posted_oneBand (w : Word) : OneBand (posted w) 0 :=
  have e : (posted w).active = [m0] := rfl
  ⟨machine_formed _ _ _ rfl, by rw [e]; simp, by rw [e]; simp⟩

theorem test_meets_Sequencer_release : OneBand (posted 0) 0 ∧ (∀ o ∈ (posted 0).ops, o.id < (posted 0).uid) ∧ (posted 0).pending 1 0 = [] ∧
    (∀ u ∈ ((posted 0).band 1 0).unrel, u.op = 0x22 ∧ ∃ y, (posted 0).releasable 1 u = .ok y) ∧
    OneBand (posted 8) 0 ∧ ((posted 8).active = [m0] ∧ (posted 8).sh.lanes = [m0]) ∧
    ∃ u, ((posted 8).band 1 0).unrel.head? = some u ∧ u.op = 0x22 ∧ (posted 8).releasable 1 u = .error ⟨.copyDescriptor, 0, 0⟩ := by
  refine ⟨posted_oneBand _, ?_, rfl, ?_, posted_oneBand _, ⟨rfl, rfl⟩, _, rfl, rfl, rfl⟩
  · decide +kernel
  · intro u hu
    have e := List.mem_singleton.1 hu
    subst e
    exact ⟨rfl, _, rfl⟩

/-- A released copy that waits at issue, with its range free, or locked. -/
def waitsAtIssue (ls : List (Nat × RangeLock)) : State :=
  { posted 0 with
    ops := [{ copying noCopy 4 with kind := .pend { op := 0x22, fn := 0, desc := [0, 0, 0, 0, 0x10010, 0, 0, 0], handle := 0, compl := 0, scope := 4 }
                                    handle := some 0 }]
    locks := ls }

theorem test_meets_Sequencer_pending : ∃ o u kind rs lines, (waitsAtIssue []).pending 1 0 = [(o, u)] ∧ u.op = 0x22 ∧
    (waitsAtIssue []).releasable 1 u = .ok (kind, rs, lines) ∧ (waitsAtIssue []).lockWait (coreNo o.die o.core) o.ctx rs = false ∧
    (waitsAtIssue [(0, ⟨0, some 1, 0, 16, true, 9, 0⟩)]).lockWait (coreNo o.die o.core) o.ctx rs = true :=
  ⟨_, _, _, _, _, rfl, rfl, rfl, rfl, rfl⟩

end Sys2Proof.Tests
end

