-- ==== Sys2Proof/Tests/MeetsDevice.lean ====
section
/-!
SUPPORT. For each statement about resuming strands, device-side work, the memory system's events, reduction windows and control space:
a state and operands that meet what it supposes.
-/

set_option Elab.async false

namespace Sys2Proof.Tests
open Sys2Proof.Machine Sys2Proof.Claims

/-! ### Landing and resuming -/

/-- The strand in lane 0, as it is given, in a band and a clump. -/
def being (x : Strand) (c : Clump := {}) (b : Band := {}) : State := machine { b with strands := [(0, x)] } [0] c

theorem being_lists (x : Strand) (c : Clump := {}) (b : Band := {}) : (being x c b).Lists 1 m0 := ⟨rfl, Nat.zero_lt_one, rfl⟩

theorem test_meets_LandingAndResuming_results : (being { out := [[.v 3 7]] }).Lists 1 m0 ∧
    ((being { out := [[.v 3 7]] }).strand 1 m0).out[0]? = some [.v 3 7] ∧ m0.lane < 32 ∧
    ((being {} {} { kout := [⟨4, 9, [0]⟩] }).band 1 0).kout[0]? = some ⟨4, 9, [0]⟩ ∧ Sorted ((being {} {} { kout := [⟨4, 9, [0]⟩] }).band 1 0).k :=
  ⟨being_lists _, rfl, by decide, rfl, rfl⟩

theorem test_meets_LandingAndResuming_trap : (being { trap := some ⟨.illegal, 0, 0⟩ }).Lists 1 m0 ∧
    ((being { trap := some ⟨.illegal, 0, 0⟩ }).strand 1 m0).trap = some ⟨.illegal, 0, 0⟩ ∧
    ((being { trap := some ⟨.illegal, 0, 0⟩ }).strand 1 m0).park = none ∧ ((being { trap := some ⟨.illegal, 0, 0⟩ }).strand 1 m0).hostResults = false ∧
    ((being { trap := some ⟨.illegal, 0, 0⟩, host := [{ pa := hostBase, act := .read 4 4 false }] }).strand 1 m0).hostResults = true :=
  ⟨being_lists _, rfl, rfl, by decide +kernel, by decide +kernel⟩

/-- A load of the last 16 bytes of the scratchpad that waits for a copy, or does no longer. -/
def waitingLoad (c : Clump) : State := being { park := some ⟨.spad 0xFFF0 16 8, 0, some 8⟩ } c

theorem test_meets_LandingAndResuming_spad (c : Clump) : (waitingLoad c).Lists 1 m0 ∧
    ((waitingLoad c).strand 1 m0).park = some ⟨.spad 0xFFF0 16 8, 0, some 8⟩ := ⟨being_lists _ _, rfl⟩

theorem test_meets_LandingAndResuming_lines : scratchAbsent ((waitingLoad { absent := [(511, 9)] }).clump 1) 0xFFF0 16 ∧
    ¬ scratchAbsent ((waitingLoad {}).clump 1) 0xFFF0 16 ∧ ¬ scratchPoison ((waitingLoad {}).clump 1) 0xFFF0 16 ∧
    scratchPoison ((waitingLoad { spadPoison := [511] }).clump 1) 0xFFF0 16 :=
  ⟨by unfold scratchAbsent; decide +kernel, by unfold scratchAbsent; decide +kernel, by unfold scratchPoison; decide +kernel,
    by unfold scratchPoison; decide +kernel⟩

/-- A strand parked on a fence for operation 4, which is under way or not; one that waits for a region-table entry. -/
def fenced (ops : List Op) : State := { being { park := some ⟨.fence 0 4 [4], 0, some 8⟩ } with ops := ops }
def missing : State := being { park := some ⟨.regionMiss 1, 0, none⟩ }

theorem test_meets_LandingAndResuming_fence : ((fenced []).strand 1 m0).park = some ⟨.fence 0 4 [4], 0, some 8⟩ ∧
    ¬ FenceHolds (fenced []) 1 m0 0 4 [4] ∧ FenceHolds (fenced [copying noCopy 4]) 1 m0 0 4 [4] ∧
    missing.Lists 1 m0 ∧ (missing.strand 1 m0).park = some ⟨.regionMiss 1, 0, none⟩ :=
  ⟨rfl, by simp [FenceHolds, fenced, being, machine], .inl (.inl ⟨4, by simp, copying noCopy 4, List.mem_singleton.2 rfl, rfl⟩), being_lists _, rfl⟩

/-- A strand with a request on the CXL.io path: for the last bytes of a line. -/
def requesting (act : HostAct) : State := being { host := [{ pa := hostBase + 0x2070, act := act }] }

theorem test_meets_LandingAndResuming_requests (act : HostAct) : (requesting act).Inv ∧ (requesting act).Lists 1 m0 ∧ m0.lane < 32 ∧
    ((requesting act).strand 1 m0).host[0]? = some { pa := hostBase + 0x2070, act := act } ∧ hostBase + 0x2070 + 16 ≤ 2 ^ 52 ∧ 16 ∈ [4, 8, 16] ∧
    (List.replicate 8 (0 : Byte)).length ∈ [0, 8] ∧ 8 ∈ [1, 2, 4, 8] :=
  ⟨inv_of _ rfl rfl rfl (tiny_inv []).pages, being_lists _, by decide, rfl, by decide, by decide, by decide, by decide⟩

theorem test_meets_LandingAndResuming_alone (act : HostAct) : ¬ goesAfter (requesting act) 1 m0 { pa := hostBase + 0x2070, act := act } :=
  fun h => h.1 rfl

/-- Two lanes' atomics of one word, on which the higher waits for the lower; a load that a live-in register of the region waits for. -/
def grouped (l : Nat) : HostReq := { pa := hostBase, act := .fetch { fn := .add, n := 4, unsigned := false, x := BitVec.ofNat 8 l |>.toNat } (some 3) [], group := some (9, hostBase) }
def sharing : State := machine { strands := (List.range 2).map fun l => (l, { host := [grouped l] }) } [0, 1]
def liveIn : State :=
  being { fast := [(4, 1)], super := [false], park := some ⟨.fence 7 0 [], 0, some 8⟩
          host := [{ pa := hostBase + 0x2070, act := .read 4 4 false }] }

theorem test_meets_LandingAndResuming_order : sharing.Lists 1 ⟨0, 1⟩ ∧ (sharing.strand 1 ⟨0, 1⟩).host[0]? = some (grouped 1) ∧
    goesAfter sharing 1 ⟨0, 1⟩ (grouped 1) ∧ FenceHolds liveIn 1 m0 7 0 [] ∧ (liveIn.strand 1 m0).super[0]? = some false :=
  ⟨⟨rfl, Nat.zero_lt_one, rfl⟩, rfl, ⟨by decide, _, List.mem_singleton.2 rfl, (0, { host := [grouped 0] }), by simp [List.range_succ], by decide,
    grouped 0, List.mem_singleton.2 rfl, rfl⟩,
    (by decide +kernel : stillToCome (liveIn.strand 1 m0) [4] = true), rfl⟩

/-- A band that restarts; a band held at an engine word. -/
def restarting (l : Life) : State := being { life := l } {} { restart := some (0x40, 16) }
def heldBand : State := being {} {} { held := some ⟨8, 0, false⟩ }

theorem test_meets_LandingAndResuming_restart (l : Life) : (restarting l).Lists 1 m0 ∧
    ((restarting l).band 1 0).restart = some (0x40, 16) ∧ Sorted ((restarting l).band 1 0).strands ∧
    (∀ y ∈ ((restarting l).band 1 0).strands, Sorted y.2.v) ∧ ((restarting l).band 1 0).settled = true ∧
    ((restarting l).clump 1).place = .resident ∧ ((being {} { place := .saved }).clump 1).place ≠ .resident :=
  ⟨being_lists _ _ _, rfl, rfl, by simp [restarting, being, machine, State.band, State.clump, SMap.getD, SMap.find?, Clump.band, Sorted, SMap.wfFrom],
    by cases l <;> decide +kernel, rfl, by decide⟩

theorem test_meets_LandingAndResuming_held : heldBand.Lists 1 m0 ∧ (heldBand.band 1 0).held = some ⟨8, 0, false⟩ := ⟨being_lists _ _ _, rfl⟩

/-! ### Launch and spawn -/

/-- An image with one kernel, one child and one spawn-table entry; and with a kernel that no core can hold. -/
def childImage (k : Kernel) : Image :=
  { addr := 0x2000, kernels := [k], children := [⟨0, 1, 0, 0, 0, 0xFFFFFFFF⟩], entries := [⟨0, 0x40, 0, 0, 0x5000, 4, 0xFFFFFFFF⟩] }

/-- The test strand, its planting one of a graph of that image; k1 is 0. -/
def inGraph (k : Kernel) (aggs : List Agg := []) (bins : List Bin := []) : State :=
  { tiny [] with
    plantings := [(1, { kernel := kern, handler := some 64, graph := 3 })]
    graphs := [(3, ⟨0, 0, 0, childImage k, [.running], [0]⟩)], aggs := aggs, bins := bins, cycle := 5000 }

theorem inGraph_alone (k : Kernel) (as : List Agg) (bs : List Bin) : Alone (inGraph k as bs) m0 := ⟨formed_like (tiny_formed []) rfl rfl, rfl⟩

def huge : Kernel := { kern with spad := 2 ^ 30 }

theorem test_meets_Launches : Alone (inGraph kern [] []) m0 ∧
    ((inGraph kern).graphOf ((inGraph kern).plantingOf 1)).image.children[0]? = some ⟨0, 1, 0, 0, 0, 0xFFFFFFFF⟩ ∧
    (((inGraph kern).graphOf ((inGraph kern).plantingOf 1)).image.kernel 0).placeable 1 = true ∧
    (inGraph kern).childrenOf 0 < Config.maxChildren ∧ (((inGraph huge).graphOf ((inGraph huge).plantingOf 1)).image.kernel 0).placeable 1 = false :=
  ⟨inGraph_alone _ _ _, by decide +kernel, by decide +kernel, by decide +kernel, by decide +kernel⟩

/-- An open window for that child, with a request. -/
def window0 : Agg := ⟨0, 3, 0, 3976, [⟨0, 0, 0, []⟩]⟩

theorem test_meets_Launches_join : Alone (inGraph kern [window0] []) m0 ∧ (inGraph kern [window0] []).aggs = [] ++ window0 :: [] ∧
    windowFor (inGraph kern [window0] []) 0 window0 ∧ window0.reqs.length < 255 :=
  ⟨inGraph_alone _ _ _, rfl, ⟨rfl, rfl, rfl⟩, by decide⟩

/-- So many requests, each for a child of its own. -/
def crowd (n : Nat) : List Agg := (List.range n).map fun i => ⟨1, 3, i, 0, [⟨0, 0, 0, []⟩]⟩

theorem crowd_children (l : List Nat) (n : Nat) : (l.map fun i => (⟨1, 3, i, 0, [⟨0, 0, 0, []⟩]⟩ : Agg)).foldl
    (fun n a => if ((inGraph kern).graphs.getD a.graph ⟨0, 16, 0, {}, [], []⟩).ctx = 0 then n + a.reqs.length else n) n = n + l.length := by
  induction l generalizing n with
  | nil => rfl
  | cons a l ih =>
    have e : ((inGraph kern).graphs.getD 3 ⟨0, 16, 0, {}, [], []⟩).ctx = 0 := rfl
    simp only [List.map_cons, List.foldl_cons, e, if_true, List.length_cons, ih, List.length_nil]
    omega

theorem childrenOf_inGraph (as : List Agg) : (inGraph kern as []).childrenOf 0 = as.foldl
    (fun n a => if ((inGraph kern).graphs.getD a.graph ⟨0, 16, 0, {}, [], []⟩).ctx = 0 then n + a.reqs.length else n) 0 := rfl

theorem test_meets_Launches_limit : Alone (inGraph kern (crowd Config.maxChildren) []) m0 ∧
    Config.maxChildren ≤ (inGraph kern (crowd Config.maxChildren) []).childrenOf 0 := by
  generalize Config.maxChildren = n
  refine ⟨inGraph_alone _ _ _, ?_⟩
  rw [childrenOf_inGraph, crowd, crowd_children]
  simp

theorem test_meets_Launches_close : (inGraph kern [window0] []).graphs.find? window0.graph = some ⟨0, 0, 0, childImage kern, [.running], [0]⟩ ∧
    (childImage kern).children[window0.launch]? = some ⟨0, 1, 0, 0, 0, 0xFFFFFFFF⟩ ∧ window0.opened + 1024 ≤ (inGraph kern [window0] []).cycle ∧
    window0.reqs ≠ [] ∧ (tiny []).cycle < window0.opened + 1024 := ⟨by decide +kernel, by decide +kernel, by decide +kernel, by decide, by decide +kernel⟩

/-- A bin of die 0 for that image's entry, with some records, on chip and spilled; its bands form planting 1, or none yet. -/
def binOf (n spilled : Nat) (ps : List (Nat × Nat) := []) : Bin :=
  let r : BinRec := ⟨[], 0, 3, 0, []⟩
  { die := 0, ctx := 0, image := 0x2000, no := 0, recs := List.replicate n r, spilled := List.replicate spilled r, timer := some 3000, plantings := ps }

/-- The entry as the graph's command has read it. -/
def entry0 : EntryRec := ⟨0, 0x40, 0, 0, 0x5000, 4, 0xFFFFFFFF⟩

theorem binFor_of (k : Kernel) (b : Bin) (h : (inGraph k [] [b]).binOf 0 0 0x2000 0 = some 0) : binFor (inGraph k [] [b]) 0 0 b entry0 := ⟨h, rfl, rfl⟩

theorem test_meets_Spawns : Alone (inGraph kern [] [binOf 0 0]) m0 ∧ binFor (inGraph kern [] [binOf 0 0]) 0 0 (binOf 0 0) entry0 ∧
    binFor (inGraph kern [] [binOf 31 0]) 0 0 (binOf 31 0) entry0 ∧ binFor (inGraph kern [] [binOf 64 4]) 0 0 (binOf 64 4) entry0 ∧
    (kern.placeable 1 = true ∧ (binOf 0 0).all.length < 31 ∧ (binOf 31 0).all.length = 31 ∧ (binOf 31 0).plantings = [] ∧
      64 ≤ (binOf 64 4).recs.length ∧ entry0.spillCap ≤ (binOf 64 4).spilled.length) :=
  ⟨inGraph_alone _ _ _, binFor_of _ _ (by decide +kernel), binFor_of _ _ (by decide +kernel), binFor_of _ _ (by decide +kernel), by decide +kernel⟩

/-- The same with a planting of the bin's bands. -/
def spawnedPlanting : Planting := { kernel := kern, spawned := true, entry := 0x40 }
def replanting : State := { inGraph kern [] [binOf 31 0 [(3, 1)]] with plantings := [(1, { spawnedPlanting with graph := 3 })] }

theorem test_meets_Spawns_again : Alone replanting m0 ∧ binFor replanting 0 0 (binOf 31 0 [(3, 1)]) entry0 ∧ (binOf 31 0 [(3, 1)]).all.length = 31 ∧
    ∀ z ∈ (binOf 31 0 [(3, 1)]).plantings, ∃ p, replanting.plantings.find? z.2 = some p ∧ Spawned replanting (binOf 31 0 [(3, 1)]) z.1 p :=
  ⟨⟨formed_like (tiny_formed []) rfl rfl, rfl⟩, ⟨by decide +kernel, rfl, rfl⟩, by decide, by
    intro z hz
    have e : z = (3, 1) := List.mem_singleton.1 hz
    subst e
    refine ⟨_, rfl, rfl, rfl, ?_⟩
    intro g x h h2
    have hg : g = ⟨0, 0, 0, childImage kern, [.running], [0]⟩ := (Option.some.inj h).symm
    subst hg
    have hx : x = entry0 := (Option.some.inj h2).symm
    subst hx
    exact ⟨by decide +kernel, rfl, rfl, by decide +kernel⟩⟩

theorem test_meets_Spawns_misuse : Alone (inGraph huge [] [binOf 0 0]) m0 ∧ (inGraph huge [] [binOf 0 0]).binOf 0 0 0x2000 0 = some 0 ∧
    (inGraph huge [] [binOf 0 0]).binOf 0 0 0x2000 1 = none ∧
    ∀ i x y, binFor (inGraph huge [] [binOf 0 0]) 0 i x y →
      (((inGraph huge [] [binOf 0 0]).graphOf ((inGraph huge [] [binOf 0 0]).plantingOf 1)).image.kernel y.kernel).placeable 1 = false :=
  ⟨inGraph_alone _ _ _, by decide +kernel, by decide +kernel, by
    rintro i x y ⟨-, -, h⟩
    have hy : y = entry0 := (Option.some.inj h).symm
    subst hy
    decide +kernel⟩

theorem test_meets_Spawns_timer : (inGraph kern [] [binOf 1 0]).bins = [] ++ binOf 1 0 :: [] ∧ (binOf 1 0).timer = some 3000 ∧
    (binOf 1 0).plantings = [] ∧ (binOf 1 0).all = ⟨[], 0, 3, 0, []⟩ :: [] ∧
    (inGraph kern [] [binOf 1 0]).graphs.find? 3 = some ⟨0, 0, 0, childImage kern, [.running], [0]⟩ ∧ (childImage kern).entries[0]? = some entry0 ∧
    3000 + 2000 ≤ (inGraph kern [] [binOf 1 0]).cycle ∧ (binOf 1 0).all.length ≤ 32 ∧ (tiny []).cycle < 3000 + 2000 :=
  ⟨rfl, rfl, rfl, rfl, rfl, rfl, by decide +kernel⟩

/-! ### The memory system and the host -/

/-- A home line, with a sharer, and pinned pages. -/
def homed (pins : List Pin) : State :=
  { tiny [] with coh := { home := [(64, { sharers := [3] })], pins := pins, waiting := [⟨0, 2, 5, 1, m0, false, 0, none⟩], idle := [1] } }

theorem homed_inv (ps : List Pin) : (homed ps).Inv :=
  ⟨rfl, rfl, rfl, fun c l x y h => by simp [homed, State.l1, SMap.find?] at h, fun c l x y h => by simp [homed, State.l1, SMap.find?] at h,
    fun c l x y h => by simp [homed, State.l1, SMap.find?] at h, fun x hx => by simp [homed] at hx⟩

theorem test_meets_MemorySystemEvents : (homed []).Inv ∧ ((homed []).coh.home.find? 64).isSome = true ∧ Sorted (homed []).coh.mts ∧
    Sorted (homed []).coh.spent ∧ (64 < 2 ^ 45 ∧ 64 / 4 * 4 + 3 < 2 ^ 45) ∧ (∀ p ∈ (homed []).coh.pins, ¬ (p.base ≤ 128 * 64 ∧ 128 * 64 < p.base + p.size)) ∧
    tracks 64 0 67 3 ∧ tracks 64 1 64 3 ∧ tracks 64 113 64 3 ∧ ¬ tracks 64 1 64 8 ∧
    servable (homed []) 0 ⟨0, 2, 5, 1, m0, false, 0, none⟩ ∧ (∀ r, ¬ servable (homed []) 1 r) ∧
    (∃ p ∈ (homed [⟨0x2000, 0x1000, 2, 0, 0⟩]).coh.pins, p.base ≤ 128 * 64 ∧ 128 * 64 < p.base + p.size) :=
  ⟨homed_inv _, by decide +kernel, rfl, rfl, by decide, by simp [homed], by unfold tracks; decide, by unfold tracks; decide, by unfold tracks; decide +kernel,
    by unfold tracks; decide, ⟨List.mem_singleton.2 rfl, rfl, rfl, .inl (by decide +kernel)⟩, by
    rintro r ⟨h, h1, -⟩
    simp [homed] at h
    subst h
    simp at h1, ⟨⟨0x2000, 0x1000, 2, 0, 0⟩, List.mem_singleton.2 rfl, by decide⟩⟩

/-- Two strands parked on a port: the one whose request is served, and one whose own request still waits. -/
def atSlice : State :=
  { machine { strands := [(0, { park := some ⟨.port 0, 0, some 8⟩ }), (1, { park := some ⟨.port 0, 0, none⟩ })] } [0] with
    coh := { waiting := [⟨0, 0, 5, 1, m0, false, 0, none⟩, ⟨0, 0, 3, 1, ⟨0, 1⟩, false, 0, none⟩] } }

theorem test_meets_MemorySystemEvents_port : atSlice.Inv ∧ servable atSlice 0 ⟨0, 0, 5, 1, m0, false, 0, none⟩ ∧ (∀ r, servable atSlice 0 r → r.prio ≤ 5) ∧
    atSlice.Lists 1 m0 ∧ (atSlice.strand 1 m0).park = some ⟨.port 0, 0, some 8⟩ ∧ atSlice.Lists 1 ⟨0, 1⟩ ∧
    (∀ c, Tidy (atSlice.clump c)) ∧ (∃ x ∈ atSlice.coh.waiting, x.op = none ∧ x.clump = 1 ∧ x.lane = ⟨0, 1⟩) :=
  ⟨inv_of _ rfl rfl rfl (by simp [atSlice]), ⟨List.mem_cons_self, rfl, rfl, .inl (by decide +kernel)⟩, by
    rintro r ⟨h, -⟩
    simp only [atSlice, List.mem_cons, List.not_mem_nil, or_false] at h
    rcases h with rfl | rfl <;> decide, ⟨rfl, Nat.zero_lt_one, rfl⟩, rfl, ⟨rfl, Nat.zero_lt_one, rfl⟩, by
    intro c
    by_cases h : c = 1
    · subst h
      exact tidy_of _ rfl rfl
    · have e : atSlice.clump c = {} := by simp [atSlice, machine, State.clump, SMap.getD, SMap.find?, h]
      rw [e]
      exact tidy_of _ rfl rfl,
    ⟨0, 0, 3, 1, ⟨0, 1⟩, false, 0, none⟩, by simp [atSlice], rfl, rfl, rfl⟩

/-- A copy that waits at the port for a token. -/
def copyAsks : State :=
  { moving 0 false with coh := { (moving 0 false).coh with waiting := [⟨0, 0, 5, 1, ⟨0, 0⟩, false, 0, some 4⟩] } }

theorem test_meets_MemorySystemEvents_copy : copyAsks.Inv ∧ servable copyAsks 0 ⟨0, 0, 5, 1, ⟨0, 0⟩, false, 0, some 4⟩ ∧
    copyAsks.op 4 = some (moveOp 0 false) ∧ Sorted (moveOp 0 false).paid :=
  ⟨inv_of _ rfl rfl rfl (moving_inv 0 false).pages, ⟨List.mem_cons_self, rfl, rfl, .inl (by decide +kernel)⟩, rfl, rfl⟩

theorem test_meets_MemorySystemEvents_snoop : (tiny []).Inv ∧ (tiny []).fw.recovery = false ∧ (tiny []).ctl.place hostBase = .host ∧
    128 * (hostBase / 128) = hostBase ∧ (List.replicate 128 (1 : Nat)).length ≤ 128 ∧ ((tiny []).clumps.find? 1).isSome = true ∧
    15 / 16 < ((tiny []).clump 1).bands.length ∧ Sorted ((tiny []).clump 1).accs :=
  ⟨tiny_inv _, rfl, by decide +kernel, by decide +kernel, by simp, rfl, by decide +kernel, rfl⟩

theorem test_meets_HostMemoryEvents : (tiny []).Inv ∧ (tiny []).fw.recovery = false ∧ hostReaches (tiny []) 0 0x2000 64 0x2000 ∧
    0x2000 + 64 ≤ 2 ^ 52 ∧ ∀ pa, ¬ hostReaches (tiny []) 18 0 64 pa :=
  ⟨tiny_inv _, rfl, .inl ⟨rfl, by decide +kernel, rfl⟩, by decide, by
    rintro pa (⟨h, -⟩ | ⟨h, -⟩ | ⟨-, h, -⟩) <;> omega⟩

/-- A fault of context 0 that is not posted; its ring of two entries at 0x8000 with a head. -/
def fault0 : XFault := ⟨0, 0, 0x5000, 0x40000000, 65536, 0x40000000, 0, 0, false⟩
def faulting (head : Nat) : State :=
  { tiny [] with coh := { (tiny []).coh with faults := [fault0] }, ctxs := [(0, { fqbase := 0x8000, fqcfg := 1, fqhead := head })] }

theorem faulting_inv (n : Nat) : (faulting n).Inv := inv_of _ rfl rfl rfl (tiny_inv []).pages

theorem test_meets_HostMemoryEvents_ring : (faulting 0).Inv ∧ (faulting 0).coh.faults = [] ++ fault0 :: [] ∧ fault0.posted = false ∧
    Sorted (faulting 0).ctxs ∧ (((faulting 0).ctx 0).fqtail + 1) % 2 ^ ((faulting 0).ctx 0).fqcfg ≠ ((faulting 0).ctx 0).fqhead ∧
    ((faulting 0).ctx 0).fqbase + 32 * ((faulting 0).ctx 0).fqtail + 32 ≤ 2 ^ 52 ∧ (faulting 1).Inv ∧
    (((faulting 1).ctx 0).fqtail + 1) % 2 ^ ((faulting 1).ctx 0).fqcfg = ((faulting 1).ctx 0).fqhead :=
  ⟨faulting_inv _, rfl, rfl, rfl, by decide +kernel, by decide +kernel, faulting_inv _, by decide +kernel⟩

/-- A page of 64 KiB being pulled, all of it, or its last chunk; a strand waits for an address in chunk 15. -/
def pull (left : List Nat) : Migration := ⟨0, 0x80000, 65536, left, 0, 0⟩
def pulling (left : List Nat) : State :=
  { being { park := some ⟨.migrating 0xF000, 0, none⟩ } with coh := { tlb := [⟨0, 0, 2 ^ 16, 0x233⟩] }, dram := { migrations := [pull left] } }

theorem pulling_inv (left : List Nat) : (pulling left).Inv := inv_of _ rfl rfl rfl (by
  intro y hy
  simp [pulling] at hy
  subst hy
  rfl)

theorem test_meets_HostMemoryEvents_pull (left : List Nat) : (pulling left).Inv ∧ (pulling left).dram.migrations = [] ++ pull left :: [] ∧
    (∀ c, Tidy ((pulling left).clump c)) ∧ (pull left).new + 4096 * (15 + 1) ≤ 2 ^ 52 ∧ (pull left).old + 4096 * (15 + 1) ≤ 2 ^ 52 :=
  ⟨pulling_inv _, rfl, by
    intro c
    by_cases h : c = 1
    · subst h
      exact tidy_of _ rfl rfl
    · have e : (pulling left).clump c = {} := by simp [pulling, being, machine, State.clump, SMap.getD, SMap.find?, h]
      rw [e]
      exact tidy_of _ rfl rfl, by norm_num [pull], by norm_num [pull]⟩

theorem test_meets_HostMemoryEvents_wanted : wanted (pulling [2, 3, 15]) (pull [2, 3, 15]) 2 ∧ wanted (pulling [2, 3, 15]) (pull [2, 3, 15]) 15 ∧
    ¬ wanted (pulling [2, 3, 15]) (pull [2, 3, 15]) 3 ∧ 3 ∈ (pull [2, 3, 15]).left ∧ (pulling [2, 3, 15]).isLost (0x80000 + 4096 * 15) = false ∧
    ({ pulling [15] with dram := { (pulling [15]).dram with lost := [(0x80000, 65536)] } } : State).isLost (0x80000 + 4096 * 15) = true := by
  have leaf : (pulling [2, 3, 15]).leafFor 0 0xF000 = .leaf 0 65536 0x233 := by decide +kernel
  refine ⟨.inl rfl, .inr (.inr ⟨1, m0, 0xF000, 0, none, ⟨rfl, Nat.zero_lt_one, rfl⟩, rfl, 0, 65536, 0x233, leaf, by decide, by decide⟩), ?_, by decide,
    by decide +kernel, by decide +kernel⟩
  rintro (h | ⟨o, h, -⟩ | ⟨c, x, va, w, pc, h, hp, base, size, e, hl, -, hc⟩)
  · exact absurd h (by decide)
  · simp [pulling, being, machine] at h
  · obtain ⟨h1, h2, h3⟩ := h
    have c1 : c = 1 := by
      by_contra n
      simp [pulling, being, machine, SMap.find?, n] at h1
    subst c1
    have b0 : x.band = 0 := by
      have e : ((pulling [2, 3, 15]).clump 1).bands.length = 1 := rfl
      omega
    have l0 : x.lane = 0 := by
      by_contra n
      have e : ((pulling [2, 3, 15]).band 1 x.band).strands = [(0, { park := some ⟨.migrating 0xF000, 0, none⟩ })] := by rw [b0]; rfl
      simp [e, SMap.find?, n] at h3
    have x0 : x = m0 := by
      cases x
      simp_all
    subst x0
    have hp' : some (⟨.migrating 0xF000, 0, none⟩ : Park) = some ⟨.migrating va, w, pc⟩ := hp
    simp only [Option.some.injEq, Park.mk.injEq, ParkOn.migrating.injEq] at hp'
    obtain ⟨rfl, -, -⟩ := hp'
    have c0 : ((pulling [2, 3, 15]).clump 1).ctx = 0 := rfl
    rw [c0, leaf] at hl
    cases hl
    exact absurd hc (by decide)

/-- A leaf that says that its page migrates. -/
def leaving (s : State) : State := { s with coh := { s.coh with tlb := [⟨0, 0, 2 ^ 30, 0x233⟩] } }

theorem test_meets_HostMemoryEvents_migrate : (15 ∈ (pull [3, 15]).left) ∧ (∀ k ∈ (pull [15]).left, k = 15) ∧
    (tiny []).leafFor 0 0x2000 = .leaf 0 (2 ^ 30) 0x33 ∧ 0x33 / 2 ^ 9 % 2 = 0 ∧ (leaving (tiny [])).leafFor 0 0x2000 = .leaf 0 (2 ^ 30) 0x233 ∧
    0x233 / 2 ^ 9 % 2 = 1 ∧ ¬ sweptPage (leaving (tiny [])) 0x80000000 0 (2 ^ 30) ∧
    sweptPage (leaving (withSweep [] 0x2000)) 0x80000000 0 (2 ^ 30) :=
  ⟨by decide, by decide, by decide +kernel, by decide, by decide +kernel, by decide, by
    rintro ⟨w, h, -⟩
    simp [leaving, tiny, machine] at h, ⟨{ running with pieces := [(0x2000, 64)] }, List.mem_singleton.2 rfl, (0x2000, 64), List.mem_singleton.2 rfl,
      0, by simp, by decide⟩⟩

/-! ### Reduction windows -/

/-- A window of 64 locations of some kind over two ranks, with the contributions so far; enabled by bit 31 of its configuration. -/
def sumWindow (kind : Nat) (on : Bool) (parts : SMap (List (List Byte))) (full : List Nat := []) : Window :=
  { base := 0x2000, len := if kind = 2 then 4096 else 256, cfg := kind + 5 * 2 ^ 4 + 2 * 2 ^ 16 + (if on then 2 ^ 31 else 0), res := 0x8000, done := 0x9000
    parts := parts, full := full }
def windowed (w : Window) (v : SMap Word := []) : State := { tiny v with ctl := { windows := [(7, w)] } }

theorem windowed_inv (w : Window) (v : SMap Word := []) : (windowed w v).Inv := inv_of _ rfl rfl rfl (tiny_inv []).pages

theorem windowed_stands (w : Window) (v : SMap Word) (h : Sorted w.parts) (h2 : w.base + w.len ≤ 2 ^ 52 ∧ (w.kind = 2 → w.res + 256 * w.locations ≤ 2 ^ 52)) :
    Stands (windowed w v) 7 w := ⟨rfl, h, h2⟩

theorem test_meets_ReductionWindows (w : Window) : (windowed w).Inv ∧ (windowed w).ctl.windows.find? 7 = some w ∧ Sorted (windowed w).ctl.windows ∧
    (windowed w).fw.recovery = false := ⟨windowed_inv _, rfl, rfl, rfl⟩

theorem test_meets_ReductionWindows_words :
    (let w := sumWindow 1 true []
     Stands (windowed w) 7 w ∧ [1, 0, 0, 0].length = w.step ∧ 63 < w.locations ∧ w.on = true ∧ w.kind ≠ 0 ∧
     (partsAt w 63 ++ [[1, 0, 0, 0]]).length < w.ranks) ∧
    (let w := sumWindow 1 true [(63, [[1, 0, 0, 0]])]
     Stands (windowed w) 7 w ∧ 63 ∉ w.full ∧ (partsAt w 63 ++ [[1, 0, 0, 0]]).length = w.ranks) ∧
    (let w := sumWindow 2 true [(63, [List.replicate 64 1])]
     Stands (windowed w) 7 w ∧ (List.replicate 64 (1 : Nat)).length = w.step ∧ 63 < w.locations ∧
     (partsAt w 63 ++ [List.replicate 64 1]).length = w.ranks ∧ w.kind = 2) ∧
    (let w := sumWindow 1 false []
     Stands (windowed w) 7 w ∧ w.on = false) :=
  ⟨⟨windowed_stands _ _ rfl (by decide +kernel), by decide +kernel⟩, ⟨windowed_stands _ _ rfl (by decide +kernel), by decide +kernel⟩,
    ⟨windowed_stands _ _ rfl (by decide +kernel), by decide +kernel⟩, ⟨windowed_stands _ _ rfl (by decide +kernel), by decide +kernel⟩⟩

/-- An enabled window that takes no sums: an atomic of 16 bytes at its last such location. -/
theorem test_meets_ReductionWindows_atomic : (let w := sumWindow 0 true []
     Stands (windowed w) 7 w ∧ 60 < w.locations ∧ w.on = true ∧ w.kind = 0 ∧ 16 ∈ [4, 8, 16] ∧
     [AtomFn.add, .min, .max, .and, .or, .xor, .xchg, .incw, .cas, .fadd][8]? = some .cas ∧ (w.base + 4 * 60) % 16 = 0 ∧ w.base + 4 * 60 + 16 ≤ 2 ^ 52) :=
  ⟨windowed_stands _ _ rfl (by decide +kernel), by decide +kernel⟩

/-- An atomic of this module on the last word of a window; and a copy of a row of two words into it, to its end. -/
abbrev atLast : SMap Word := [(6, 0x20FC), (7, 0)]
def intoWindow : CopyDesc := { moveDesc 1 false with gaddr := 0x20F8, rows := 1, rowlen := 8 }
def intoOp : Op := { copying intoWindow 4 with handle := some 0 }
def filling (w : Window) : State :=
  { machine { lone [] with handles := [(0, 1)], issued := 1 } [0] with ops := [intoOp], ctl := { windows := [(7, w)] } }

theorem test_meets_ReductionWindows_local : (let w := sumWindow 1 true []
     let s := windowed w atLast
     Alone s m0 ∧ s.Inv ∧ MayRelease s m0 0x20FC ∧ s.windowAt 0x20FC = some (7, w) ∧ Stands s 7 w ∧ w.kind = 1 ∧
     (0x20FC - w.base) / 4 < w.locations ∧ (s.opA64 m0 6).toNat = 0x20FC ∧ Reaches s 0x20FC 4 .atomic 0x20FC 0) :=
  ⟨⟨formed_like (tiny_formed atLast) rfl rfl, rfl⟩, windowed_inv _ _, fun _ => nothing_of _ _ _ rfl rfl rfl, rfl,
    windowed_stands _ _ rfl (by decide +kernel), by decide +kernel, by decide +kernel, by decide +kernel,
    reaches_of _ _ _ _ rfl (by decide +kernel) (by decide +kernel) (by decide +kernel) (by decide +kernel)⟩

theorem test_meets_ReductionWindows_copy : (let w := sumWindow 1 true []
     let s := filling w
     s.Inv ∧ Copying s 4 intoOp intoWindow 0 0 ∧ s.windowAt 0x20F8 = some (7, w) ∧ Stands s 7 w ∧
     (w.kind ≠ 0 ∧ 0x20F8 % w.step = 0 ∧ rowSize intoWindow % w.step = 0 ∧ 0x20F8 + rowSize intoWindow ≤ w.base + w.len ∧ w.base % w.step = 0 ∧
     s.translate 0 (globalAt s intoOp intoWindow 0) (rowSize intoWindow) .engWrite false = .ok 0x20F8 0x33 0 (2 ^ 30) none)) :=
  ⟨inv_of _ rfl rfl rfl (tiny_inv []).pages, ⟨by decide +kernel, rfl, rfl, ⟨rfl, rfl, by decide⟩, by decide, by decide +kernel,
    fun h => absurd h (by decide), rfl, Nat.zero_lt_one, rfl⟩, rfl, ⟨rfl, rfl, by decide +kernel⟩, by decide +kernel⟩

/-- The last sums of the window, in whose line core 0 owns two words that it has written; its context has no token left. -/
def summed : State :=
  { filling (sumWindow 1 true [(62, [[1, 0, 0, 0]]), (63, [[1, 0, 0, 0]])]) with
    coh := { (tiny []).coh with l1 := [(l1Key 0 65, { ctx := 0, st := .own, dirty := [30, 31] })], home := [(65, { owner := some 0 })] } }

theorem summed_l1 (core line : Nat) (l : L1Line) (h : line < 2 ^ 45) (h1 : (broke summed 0x2080).l1 core line = some l) :
    core = 0 ∧ line = 65 ∧ l = { ctx := 0, st := .own, dirty := [30, 31] } := by
  by_cases e : l1Key 0 65 = l1Key core line
  · have e' : core = 0 ∧ line = 65 := by simp [l1Key] at e; omega
    obtain ⟨rfl, rfl⟩ := e'
    simpa [State.l1, broke, summed, SMap.find?, eq_comm] using h1
  · have n : (broke summed 0x2080).l1 core line = none := by
      show SMap.find? [(l1Key 0 65, _)] (l1Key core line) = none
      rw [SMap.find?]
      split
      · rfl
      · split
        · exact absurd ‹_› (Ne.symm e)
        · rfl
    rw [n] at h1
    cases h1

theorem summed_inv : (broke summed 0x2080).Inv := by
  refine ⟨rfl, rfl, rfl, fun c n l hn h => ?_, fun c n l hn h _ => ?_, fun c n l hn h _ i _ _ => ?_, (tiny_inv []).pages⟩ <;>
    obtain ⟨rfl, rfl, rfl⟩ := summed_l1 c n l hn h <;> rfl

/-- What the copy moves has its tokens; but not where it has that line written back. -/
theorem test_meets_ReductionWindows_tokens : (let s := filling (sumWindow 1 true [])
    HasTokens s (s.runCopy intoOp intoWindow 0) 0 []) ∧ (broke summed 0x2080).Inv ∧
    ¬ HasTokens (broke summed 0x2080) ((broke summed 0x2080).runCopy intoOp intoWindow 0) 0 [] := by
  refine ⟨?_, summed_inv, ?_⟩ <;> unfold HasTokens <;> decide +kernel

theorem test_meets_ReductionWindows_end :
    (let w := sumWindow 1 true [] (List.range 64)
     w.on = true ∧ w.kind ≠ 0 ∧ w.locations ≠ 0 ∧ w.full.length = w.locations ∧ w.parts = [] ∧ w.done + 4 ≤ 2 ^ 52) ∧
    (sumWindow 1 true [] (List.range 63)).full.length ≠ (sumWindow 1 true []).locations ∧ mayEnable (2 + 5 * 2 ^ 4 + 576 * 2 ^ 16) ∧
    ¬ mayEnable (2 + 5 * 2 ^ 4 + 577 * 2 ^ 16) ∧ ¬ mayEnable 3 :=
  ⟨by decide +kernel, by decide +kernel, by unfold mayEnable; decide, by unfold mayEnable; decide, by unfold mayEnable; decide⟩

/-! ### Control space -/

/-- Context 2 as it is given, a queue of 16 entries, and, or not, a mode switch under way. -/
def ruled (c : Ctx) (cmd : Option (Nat × List Word × Nat) := none) : State :=
  { tiny [] with ctxs := [(2, c)], ctl := { queues := [(4, { cfg := 4 + 2 * 2 ^ 8, cmd := cmd })] } }

theorem test_meets_ControlSpace (c : Ctx) (x : Option (Nat × List Word × Nat)) : (ruled c x).fw.recovery = false ∧ Sorted (ruled c x).ctxs ∧
    Sorted (ruled c x).ctl.queues ∧ (ruled c x).Inv ∧ (ruled c x).ctx 2 = c ∧ Sorted (ruled c x).clumps ∧ Sorted (ruled c x).ctl.chown :=
  ⟨rfl, rfl, rfl, inv_of _ rfl rfl rfl (tiny_inv []).pages, rfl, rfl, rfl⟩

theorem test_meets_ControlSpace_contexts : (∀ y ∈ (ruled { away := true }).ctxs, y.2 ≠ {}) ∧ ((ruled { away := true }).ctx 2).away = true ∧
    ((ruled { away := true }).ctx 2).broke = false ∧ (ruled { away := true }).fw.hot = false ∧ (ruled { away := true }).usesOld 2 = false ∧ ((ruled { debug := true }).ctx 2).away = false ∧ (∀ y ∈ (ruled { debug := true }).ctxs, y.2 ≠ {}) ∧
    ¬ Claims.switching (ruled { debug := true }) 2 ∧ Claims.switching (ruled { debug := true } (some (0, [3], 1))) 2 ∧
    15 < 2 ^ (((ruled { debug := true }).queue 4).cfg % 32) ∧ 2 ^ (((ruled { debug := true }).queue 4).cfg % 32) ≤ 16 :=
  ⟨by decide +kernel, rfl, rfl, rfl, by decide +kernel, rfl, by decide +kernel, by
    rintro ⟨x, h, -, j, w, ws, p, h2, -⟩
    simp [ruled] at h
    subst h
    simp at h2, ⟨(4, { cfg := 4 + 2 * 2 ^ 8, cmd := some (0, [3], 1) }), List.mem_singleton.2 rfl, by decide, 0, 3, [], 1, rfl, by decide⟩,
    by decide +kernel, by decide +kernel⟩

/-- A strand of a clump that waits for a translation at 0x40000000, for a word that traps and for one that reports the failure. -/
def translating (k : Nat) : State := { being { park := some ⟨.xlate 0x40000000 k, 0, none⟩ } with coh := { faults := [fault0] } }

theorem test_meets_ControlSpace_answers (k : Nat) : goodRange 0x4000 1 ∧ ¬ goodRange 0 0 ∧ ¬ goodRange (2 ^ 40 - 1) 2 ∧
    (translating k).Lists 1 m0 ∧ ((translating k).clump 1).ctx = 0 ∧ faultedIn ((translating k).strand 1 m0) 0x4000 1 0x40000000 k ∧
    (translating k).ops = [] ∧ (being { host := [{ pa := hostBase, act := .write [0] }] }).usesOld 0 = true :=
  ⟨by unfold goodRange; decide, by unfold goodRange; decide, by unfold goodRange; decide, ⟨rfl, Nat.zero_lt_one, rfl⟩, rfl,
    ⟨⟨0, none, rfl⟩, by unfold inRange; decide⟩, rfl, by decide +kernel⟩

end Sys2Proof.Tests
end

