-- ==== Sys2Proof/Tests/MeetsSystem.lean ====
section
/-!
SUPPORT. For each statement about channel ownership, pre-emption, commands, graphs, issue, placement, module events and the step: a
state and operands that meet what it supposes.
-/

set_option Elab.async false

namespace Sys2Proof.Tests
open Sys2Proof.Machine Sys2Proof.Claims

/-! ### Channel ownership -/

/-- A table that gives 128 channels, or 3, to context 0; and one with a reserved code. -/
def half : SMap Nat := (List.range 128).map fun g => (g, 1)
def three : SMap Nat := [(0, 1), (1, 1), (2, 1)]

/-- An empty module, and one with a resident clump, in which a table is to be applied. -/
def owning (t : SMap Nat) (st : Nat := 0) (c : Option (SMap Nat × Nat) := none) : State := { ctl := { chown := t, chst := st, change := c } }
def owningBusy (t : SMap Nat) (c : Option (SMap Nat × Nat) := none) : State := { tiny [] with ctl := { chown := t, change := c } }

theorem half_legal : legalTable half := by
  have h : ∀ code < 17, ((List.range 256).filter fun g => half.getD g 0 = code).length ∈ [0, 128] := by decide +kernel
  intro code hc
  have := h code (by omega)
  simp only [List.mem_cons, List.not_mem_nil, or_false] at this
  exact this.imp id fun e => ⟨7, e⟩

theorem three_illegal : ¬ legalTable three := by
  intro h
  have e : ((List.range 256).filter fun g => three.getD g 0 = 1).length = 3 := by decide +kernel
  rcases h 1 (by decide) with h | ⟨k, h⟩
  · rw [e] at h
    omega
  · rw [e] at h
    match k with
    | 0 => simp at h
    | 1 => simp at h
    | k + 2 =>
      have : 2 ^ (k + 2) = 4 * 2 ^ k := by ring
      omega

theorem owning_quiet (t : SMap Nat) (n : Nat) (c : Option (SMap Nat × Nat)) (u : SMap Nat) : quietFor (owning t n c) u :=
  fun _ _ _ => ⟨fun x hx => by simp [owning] at hx, fun o ho => by simp [owning] at ho⟩

theorem busy_context (t : SMap Nat) (c : Option (SMap Nat × Nat)) : ¬ isIdle (owningBusy t c) 0 :=
  fun h => (h.1 (1, { planting := 1, kernel := kern, bands := [lone []] }) (List.mem_singleton.2 rfl) rfl) rfl

theorem busy_not_quiet (c : Option (SMap Nat × Nat)) : ¬ quietFor (owningBusy half c) half := by
  intro h
  refine busy_context half c (h 0 (by decide) (.inl ⟨by decide, 0, by decide, ?_⟩))
  have e1 : (owningBusy half c).ctl.owner.getD 0 0 = 0 := rfl
  have e2 : half.getD 0 0 = 1 := by decide +kernel
  rw [e1, e2]
  simp

/-- A table that gives 128 channels to context 1: it concerns context 0 as well, which maps the shared pool. -/
def otherHalf : SMap Nat := (List.range 128).map fun g => (g, 2)

theorem pool_not_quiet : ¬ quietFor (owningBusy otherHalf) otherHalf := by
  intro h
  refine busy_context otherHalf none (h 0 (by decide) (.inr ⟨⟨by decide, 0, by decide, ?_⟩, by decide +kernel⟩))
  have e1 : (owningBusy otherHalf).ctl.owner.getD 0 0 = 0 := rfl
  have e2 : otherHalf.getD 0 0 = 2 := by decide +kernel
  rw [e1, e2]
  simp

theorem test_meets_ChannelOwnership : (owning half).ctl.chst ≠ 1 ∧ (∀ x ∈ (owning half).ctl.chown, x.2 < 17) ∧ legalTable (owning half).ctl.chown ∧
    quietFor (owning half) (owning half).ctl.chown ∧ ¬ quietFor (owningBusy half) (owningBusy half).ctl.chown ∧
    ¬ quietFor (owningBusy otherHalf) (owningBusy otherHalf).ctl.chown ∧
    ¬ legalTable (owning three).ctl.chown ∧ (owning three 1).ctl.chst = 1 ∧ (∃ x ∈ (owning [(5, 17)]).ctl.chown, 17 ≤ x.2) :=
  ⟨by decide, by decide +kernel, half_legal, owning_quiet _ _ _ _, busy_not_quiet _, pool_not_quiet, three_illegal, rfl, by decide +kernel⟩

theorem test_meets_ChannelOwnership_refused : (owning three 1).fw.recovery = false ∧ (owning three 1).ctl.chst = 1 ∧
    2 ^ 32 < 2 ^ 64 ∧ 2 ^ 32 / 2 ^ 32 % 2 = 1 := ⟨rfl, rfl, by decide, by decide⟩

theorem test_meets_ChannelOwnership_change : (owning [] 3 (some (half, 2))).ctl.change = some (half, 2) ∧ quietFor (owning [] 3 (some (half, 2))) half ∧
    ¬ quietFor (owningBusy half (some (half, 2))) half ∧ (owning [] 1 (some (half, 3))).ctl.change = some (half, 3) ∧
    (owning [] 1 (some (half, 3))).Inv :=
  ⟨rfl, owning_quiet _ _ _ _, busy_not_quiet _, rfl, inv_of _ rfl rfl rfl (by intro x hx; simp [owning] at hx)⟩

/-! ### Pre-emption -/

/-- A strand at each of the places that a rollback knows: waiting at a barrier, yielding, in the gap, and past its head. -/
theorem test_meets_Preemptions_rollback : ∃ a b c d : Strand, a.life = .live ∧ a.park = some ⟨.barrier 3 1, 0, some 8⟩ ∧ b.life = .live ∧
    b.park = some ⟨.yield 9, 0, some 8⟩ ∧ c.life = .live ∧ c.gap = true ∧ c.park = none ∧ d.life = .live ∧ d.gap = false ∧ d.park = none ∧
    (d.fast.map (·.1)).Nodup ∧ d.fast ≠ [] ∧ 127 ∉ d.fast.map (·.1) ∧ (∃ e : Strand, e.life = .live ∧ e.gap = true ∧ e.h = true ∧ e.park = none) ∧
    ∃ e : Strand, e.life = .restart :=
  ⟨{ park := some ⟨.barrier 3 1, 0, some 8⟩ }, { park := some ⟨.yield 9, 0, some 8⟩ }, {}, { gap := false, fast := [(6, 1), (7, 2)] },
    rfl, rfl, rfl, rfl, rfl, rfl, rfl, rfl, rfl, rfl, by decide, by decide, by decide, ⟨{ h := true }, rfl, rfl, rfl, rfl⟩, { life := .restart }, rfl⟩

/-- The test clump, its strand, its context, and no sheaf. -/
def stopped (x : Strand) (c : Ctx) : State := { being x with sheaf := none, ctxs := [(0, c)] }

theorem stopped_inv (x : Strand) (c : Ctx) : (stopped x c).Inv := inv_of _ rfl rfl rfl (tiny_inv []).pages

theorem test_meets_Preemptions_request : (stopped {} { save := 0x8000 }).Inv ∧ Sorted (stopped {} { save := 0x8000 }).ctxs ∧
    (stopped {} { save := 0x8000 }).sheaf = none ∧ ((stopped {} { save := 0x8000 }).ctx 0).stopping = none ∧
    (stopped {} { save := 0x8000 }).outranked 0 = false := ⟨stopped_inv _ _, rfl, rfl, rfl, by decide +kernel⟩

/-- A die whose cores hold clumps of context 0 with both slots taken; a spawned band of context 1 that needs a slot waits for it. -/
def crowded : State :=
  { clumps := (List.range 224).map fun i => (i + 1, { planting := 1, kernel := { kern with acc := 0 }, core := i, no := i })
    plantings := [(1, { kernel := kern }), (2, { ctx := 1, kernel := { regs := 8, slots := 1 }, prio := 3 })]
    waiting := [{ planting := 2, no := 0, prio := 3, records := [[1, 2, 3, 4]], die := some 0 }] }

theorem test_meets_Preemptions_outranked : crowded.Inv ∧ Sorted crowded.ctxs ∧ crowded.sheaf = none ∧ (crowded.ctx 0).stopping = none ∧
    crowded.outranked 0 = true ∧ (crowded.ctx 0).away = false ∧ ¬ Claims.switching crowded 0 :=
  ⟨inv_of _ rfl rfl rfl (by intro x hx; simp [crowded] at hx), rfl, rfl, rfl, by decide +kernel, rfl, by
    rintro ⟨x, h, -⟩
    simp [crowded] at h⟩

/-- Context 2 of the test state, which has no clump, at the host's request and after a fault. -/
def bare (c : Ctx) : State := { tiny [] with sheaf := none, ctxs := [(2, c)] }

theorem test_meets_Preemptions_bare (c : Ctx) : (bare c).Inv ∧ Sorted (bare c).ctxs ∧ (bare c).sheaf = none ∧ (bare c).ctx 2 = c ∧
    (∀ y ∈ (bare c).clumps, y.2.ctx ≠ 2) :=
  ⟨inv_of _ rfl rfl rfl (tiny_inv []).pages, rfl, rfl, rfl, by
    intro y hy
    simp [bare, tiny, machine] at hy
    subst hy
    decide⟩

theorem test_meets_Preemptions_stops : (let x : Ctx := { save := 0x8000, stopping := some 3 }
     x.stopping = some 3 ∧ x.record = none ∧ x.save + 256 ≤ 2 ^ 52) ∧
    (let x : Ctx := { save := 0x8000, snap := 0x9000, stopping := some 2, record := some (1, 2, 3, 4), faulted := some 3 }
     x.stopping = some 2 ∧ x.record = some (1, 2, 3, 4) ∧ x.save + 256 ≤ 2 ^ 52 ∧ x.snap + 64 ≤ 2 ^ 52) := by decide

theorem test_meets_Preemptions_save : let s := stopped { gap := false, fast := [(6, 1)] } { save := 0x8000, stopping := some 3 }
    s.Inv ∧ (s.ctx 0).stopping = some 3 ∧ (s.ctx 0).record = none ∧ (∀ y ∈ s.clumps, y.2.ctx = 0 ↔ y.1 = 1) ∧ Sorted s.clumps ∧
    (s.clump 1).record = none ∧ s.clumpSettled 1 = true ∧ (s.clump 1).kernel.drain = false ∧ (s.clump 1).place = .resident ∧ (∀ b ∈ (s.clump 1).bands, b.tape.mode = 0) ∧
    (let kn := (s.clump 1).kernel
     kn.spad ≤ 2 ^ 18 ∧ kn.resv ≤ 2 ^ 17 ∧ kn.acc ≤ 4 ∧ kn.slots ≤ 2 ∧ kn.regs ≤ 128) ∧ (s.clump 1).bands.length ≤ 64 ∧
    (s.ctx 0).save + 2 ^ 40 ≤ 2 ^ 52 :=
  ⟨stopped_inv _ _, rfl, rfl, by decide +kernel, rfl, rfl, by decide +kernel, rfl, rfl, by decide +kernel, by decide +kernel, by decide +kernel, by decide +kernel⟩

theorem test_meets_Preemptions_drain : ((machine (lone []) [0] { draining := some 0 }).clump 1).draining = some 0 ∧
    0 + 2 ^ 20 ≤ ({ machine (lone []) [0] { draining := some 0 } with cycle := 2 ^ 20 } : State).cycle := ⟨rfl, by decide +kernel⟩

/-! ### Commands -/

/-- A command of 16 words: opcode, address in words 2 and 3, value in word 4, parameters in words 8 and 9. -/
def cmd (op addr value : Nat) (compl : Nat := 0) (params : Nat := 0x0FFF0800) : List Word :=
  [BitVec.ofNat 32 op, 1, BitVec.ofNat 32 addr, BitVec.ofNat 32 (addr / 2 ^ 32), BitVec.ofNat 32 value, 0, 0, 0, BitVec.ofNat 32 params, 0,
   BitVec.ofNat 32 compl, 0, 5, 0, 0, 0]

/-- Queue 4 of context 0 as it is given, its ring at an address, with a journal. -/
def ruling (x : SubQueue) (jr : SMap JEntry := []) : State := { tiny [] with ctl := { queues := [(4, x)] }, journal := jr }
def ring (base tail : Nat) : SubQueue := { base := base, cfg := 4 + 2 ^ 31, tail := tail }
def running4 (w : List Word) (p : Nat) : SubQueue := { ring 0x2000 1 with cmd := some (0, w, p) }

theorem ruling_inv (x : SubQueue) (j : SMap JEntry) : (ruling x j).Inv := inv_of _ rfl rfl rfl (tiny_inv []).pages

theorem test_meets_Commands (x : SubQueue) (j : SMap JEntry) : (ruling x j).Inv ∧ Sorted (ruling x j).ctl.queues ∧ Sorted (ruling x j).ctxs ∧
    (ruling x j).queue 4 = x := ⟨ruling_inv _ _, rfl, rfl, rfl⟩

theorem reaches_cp (s : State) (va n : Nat) (k : Kind) (h1 : va % n = 0) (h2 : va + n ≤ 2 ^ 30) (h3 : 0 < n)
    (h : s.translate 0 va n k false = .ok va 0x33 0 (2 ^ 30) none) : CpReaches s 0 va n k va :=
  ⟨h1, by omega, by omega, 0x33, 0, 2 ^ 30, none, h⟩

theorem test_meets_Commands_accept : (let x := ring 0x2000 1
     x.cfg.testBit 31 = true ∧ x.cmd = none ∧ x.fault = none ∧ x.aborted = false ∧ x.head ≠ x.tail) ∧
    ((ruling (ring 0x2000 1)).journal.getD ((ruling (ring 0x2000 1)).jcount % 65536) {}).state = 0 ∧
    ((ruling (ring 0x2000 1) [(0, { state := 1 })]).journal.getD ((ruling (ring 0x2000 1) [(0, { state := 1 })]).jcount % 65536) {}).state = 1 ∧
    CpReaches (ruling (ring 0x2000 1)) 0 0x2000 64 .engRead 0x2000 ∧ CpRefused (ruling (ring (2 ^ 56) 1)) 0 (2 ^ 56) 64 .engRead ∧
    CpAbsent (ruling (ring 0x40000000 1)) 0 0x40000000 64 .engRead :=
  ⟨by decide, by decide +kernel, by decide +kernel, reaches_cp _ _ _ _ (by decide) (by decide) (by decide) (by decide +kernel),
    ⟨by decide, by decide, .virtualRange, by decide +kernel⟩, ⟨by decide, by decide, 0, 2 ^ 52, 0, 2 ^ 48, by decide +kernel⟩⟩

theorem test_meets_Commands_run (op : Nat) (h : op < 5) (p : Nat) : HasCommand (ruling (running4 (cmd op 0x3000 7) p)) 4 0 op (cmd op 0x3000 7) p :=
  ⟨rfl, rfl, rfl, by
    have e : ∀ op < 5, wordOf (cmd op 0x3000 7) 0 % 2 ^ 8 = op := by decide
    exact e op h⟩

theorem test_meets_Commands_address : pairOf (cmd 2 0x3000 7) 2 = 0x3000 ∧
    CpReaches (ruling (running4 (cmd 2 0x3000 7) 0)) 0 0x3000 4 .engWrite 0x3000 ∧ CpReaches (ruling (running4 (cmd 4 0x3000 7) 0)) 0 0x3000 4 .engRead 0x3000 ∧
    (ruling (running4 (cmd 4 0x3000 7) 1)).latestNat 0x3000 4 < wordOf (cmd 4 0x3000 7) 4 ∧
    wordOf (cmd 4 0x3000 0) 4 ≤ (ruling (running4 (cmd 4 0x3000 0) 1)).latestNat 0x3000 4 ∧
    pairOf (cmd 2 0x3002 7) 2 % 4 ≠ 0 ∧ CpRefused (ruling (running4 (cmd 2 0x3000 7) 0)) 0 (2 ^ 56) 4 .engWrite :=
  ⟨by decide, reaches_cp _ _ _ _ (by decide) (by decide) (by decide) (by decide +kernel),
    reaches_cp _ _ _ _ (by decide) (by decide) (by decide) (by decide +kernel), by decide +kernel, by decide +kernel, by decide,
    ⟨by decide, by decide, .virtualRange, by decide +kernel⟩⟩

theorem test_meets_Commands_complete : (let s := ruling (running4 (cmd 2 0x3000 7 0x4000) 2)
     (s.queue 4).cmd = some (0, cmd 2 0x3000 7 0x4000, 2) ∧ (s.queue 4).fault = none ∧ (s.queue 4).aborted = false ∧
     (s.ctx (s.queue 4).ctx).modeSwitch = none ∧ pairOf (cmd 2 0x3000 7 0x4000) 10 = 0x4000) ∧
    CpReaches (ruling (running4 (cmd 2 0x3000 7 0x4000) 2)) 0 0x4000 4 .engWrite 0x4000 ∧ pairOf (cmd 3 0 0) 10 = 0 ∧
    wordOf (cmd 3 0 0) 0 % 2 ^ 8 = 3 ∧
    pairOf (cmd 3 0 0) 6 = 0 ∧ ¬ Spent ({} : Ctx) ∧ Spent { budget := 0 } ∧
    (({ ruling (running4 (cmd 3 0 0) 2) with ctxs := [(0, { modeSwitch := some 3 })] } : State).ctx 0).modeSwitch = some 3 :=
  ⟨by decide +kernel, reaches_cp _ _ _ _ (by decide) (by decide) (by decide) (by decide +kernel), by decide, by decide, by decide, by decide +kernel, by decide, rfl⟩

/-! ### Graphs -/

/-- An image at 0x2000 of one kernel of one band of 8 registers, one node of one clump, or none, one plan area, and a spawn-table entry in
the same zero bytes, or none; and no image. -/
def imageBytes (nodes entries : Nat) : Nat :=
  0x00424744 + 2 ^ 32 + (1 + nodes * 2 ^ 16) * 2 ^ 64 + entries * 2 ^ 144 + 1 * 2 ^ 192 +
    (0x40 + 0x80 * 2 ^ 32 + 0xC0 * 2 ^ 64 + 0xC0 * 2 ^ 96 + 0xC0 * 2 ^ 128 + 0xC0 * 2 ^ 192) * 2 ^ 256 +
    (0xFFFF * 2 ^ 128 + (1 + 8 * 2 ^ 8) * 2 ^ 192) * 2 ^ 512 + (1 * 2 ^ 32) * 2 ^ 1024

def imaging (x : Nat) (bins : List Bin := []) : State :=
  { ruling (running4 (cmd 1 0x2000 0) 0) with mem := Memory.writeNat [] 0x2000 224 x, placed := [(0, 0x2000, 0, 0x10000)], bins := bins }

theorem imaging_inv (x : Nat) (h : (Memory.writeNat [] 0x2000 224 x).wf = true) (bins : List Bin := []) : (imaging x bins).Inv := inv_of _ h rfl rfl (tiny_inv []).pages

theorem test_meets_Graphs (x : Nat) : Sorted (imaging x).ctl.queues ∧ Sorted (imaging x).ctxs ∧ Sorted (imaging x).graphs ∧
    HasCommand (imaging x) 4 0 1 (cmd 1 0x2000 0) 0 ∧ pairOf (cmd 1 0x2000 0) 2 = 0x2000 :=
  ⟨rfl, rfl, rfl, ⟨rfl, rfl, rfl, by decide⟩, by decide⟩

theorem imageBytes_wf : (Memory.writeNat [] 0x2000 224 (imageBytes 1 1)).wf = true ∧ (Memory.writeNat [] 0x2000 224 (imageBytes 1 0)).wf = true ∧
    (Memory.writeNat [] 0x2000 224 (imageBytes 0 0)).wf = true := by decide +kernel
theorem noImage_wf : (Memory.writeNat [] 0x2000 224 1).wf = true := by decide +kernel

/-- Nodes, kernels and entries of the image that the graph command reads. -/
def shape (s : State) : Option (Nat × Nat × Nat) :=
  ((headerOf (s.cpBytes 0 0x2000 64)).bind fun h =>
    let spans := h.tables.map fun y => ((0x2000 + y.1) % 2 ^ 64, y.2)
    if s.cpMeets 0 (spans.map fun y => (Kind.engRead, y.1, y.2)) = none then s.imageOf 0 0x2000 h (spans.map fun y => s.cpBytes 0 y.1 y.2)
    else none).map fun y => (y.nodes.length, y.kernels.length, y.entries.length)

theorem test_meets_Graphs_image : (imaging (imageBytes 1 1)).Inv ∧ (imaging (imageBytes 1 0)).Inv ∧ (imaging (imageBytes 0 0)).Inv ∧
    ((imaging (imageBytes 1 1)).cpMeets 0 [(Kind.engRead, 0x2000, 64)] = none ∧ shape (imaging (imageBytes 1 1)) = some (1, 1, 1) ∧
    shape (imaging (imageBytes 1 0)) = some (1, 1, 0) ∧ shape (imaging (imageBytes 0 0)) = some (0, 1, 0)) :=
  ⟨imaging_inv _ imageBytes_wf.1, imaging_inv _ imageBytes_wf.2.1, imaging_inv _ imageBytes_wf.2.2, by decide +kernel⟩

/-- No bin is bound yet: the entry needs four; and bins of other images leave no room on die 0. -/
def others : List Bin := List.replicate 256 { die := 0, ctx := 0, image := 0x7000, no := 0 }
abbrev noRoom : State := imaging (imageBytes 1 1) others

theorem test_meets_Graphs_bins : noRoom.Inv ∧ (unbound (imaging (imageBytes 1 1)) 0 0x2000 1 = [0] ∧
    (∀ d < 4, ((imaging (imageBytes 1 1)).bins.countP fun b => b.die == d) + [0].length ≤ 256) ∧ shape noRoom = some (1, 1, 1) ∧
    unbound noRoom 0 0x2000 1 = [0] ∧ ¬ ∀ d < 4, (noRoom.bins.countP fun b => b.die == d) + [0].length ≤ 256) :=
  ⟨imaging_inv _ imageBytes_wf.1 _, by decide +kernel⟩

theorem test_meets_Graphs_refused : (imaging 1).Inv ∧ CpReaches (imaging 1) 0 0x2000 64 .engRead 0x2000 ∧
    (imaging 1).latestNat 0x2000 8 ≠ 0x00424744 + 2 ^ 32 ∧ CpRefused (ruling (running4 (cmd 1 0 0) 0)) 0 (2 ^ 56) 64 .engRead :=
  ⟨imaging_inv _ noImage_wf, reaches_cp _ _ _ _ (by decide) (by decide) (by decide) (by decide +kernel),
    by decide +kernel, ⟨by decide, by decide, .virtualRange, by decide +kernel⟩⟩

/-- A graph of two nodes and an edge; node 0's planting has ended, or has a clump left. -/
def chain2 : Graph :=
  { queue := 4, ctx := 0, prio := 0, states := [.running, .waiting], results := [0, 0]
    image := { kernels := [kern], nodes := [⟨0, 1, 0, 0, 0, 0xFFFFFFFF⟩, ⟨0, 1, 0, 0, 0, 0xFFFFFFFF⟩], edges := [⟨0, 1, 0, 0⟩] } }
def node0 (ended : Nat) : Planting := { kernel := kern, graph := 3, node := 0, ended := ended }
def walking (ended : Nat) : State := { graphs := [(3, chain2)], plantings := [(1, node0 ended)], ctl := { queues := [(4, running4 (cmd 1 0 0) 1)] } }

theorem test_meets_Graphs_node : (walking 1).graphs.find? 3 = some chain2 ∧ Sorted (walking 1).graphs ∧ Sorted (walking 1).ctl.queues ∧
    nodeAt chain2 0 = .running ∧ nodeAt chain2 1 ≠ .running ∧ ¬ workLeft (walking 1) 3 0 ∧ workLeft (walking 0) 3 0 ∧
    (1, node0 1) ∈ (walking 1).plantings ∧ (∀ y ∈ (walking 1).plantings, OwnPlanting 3 0 y.2 ↔ y = (1, node0 1)) :=
  ⟨rfl, rfl, rfl, rfl, by decide, by unfold workLeft; simp [walking, node0], .inl ⟨(1, node0 0), List.mem_singleton.2 rfl, rfl, rfl, rfl, rfl, by decide⟩,
    List.mem_singleton.2 rfl, by
    intro y hy
    have e : y = (1, node0 1) := List.mem_singleton.1 hy
    subst e
    exact ⟨fun _ => rfl, fun _ => ⟨rfl, rfl, rfl, rfl⟩⟩⟩

/-! ### Issue slots and placement -/

/-- The test clump without a sheaf; its strand ready, or parked. -/
def idle (x : Strand := {}) (at_ : Memory := []) : State := { being x with sheaf := none, mem := at_ }

theorem idle_tidy (x : Strand) (mem : Memory) : ∀ k, Tidy ((idle x mem).clump k) := by
  intro c
  by_cases h : c = 1
  · subst h
    exact tidy_of _ rfl rfl
  · have e : (idle x mem).clump c = {} := by simp [idle, being, machine, State.clump, SMap.getD, SMap.find?, h]
    rw [e]
    exact tidy_of _ rfl rfl

theorem idle_held (x : Strand) (mem : Memory) : ∀ c b, ((idle x mem).band c b).held = none := by
  intro c b
  by_cases h : c = 1
  · subst h
    match b with
    | 0 => rfl
    | b + 1 => rfl
  · have e : (idle x mem).clump c = {} := by simp [idle, being, machine, State.clump, SMap.getD, SMap.find?, h]
    simp [State.band, e, Clump.band]

theorem idle_ready (mem : Memory) : ReadyAt (idle {} mem) 0 0 1 m0 :=
  ⟨⟨rfl, Nat.zero_lt_one, rfl⟩, rfl, .inl rfl, rfl, rfl, rfl, rfl, rfl, rfl⟩

/-- The strands of a state with the test clump and its one band. -/
theorem lists_only {s : State} {k : Clump} {c : Nat} {m : Lane} (h : s.clumps = [(1, k)]) (h1 : k.bands.length = 1) (hl : s.Lists c m) :
    c = 1 ∧ m.band = 0 := by
  obtain ⟨h2, h3, -⟩ := hl
  have hc : c = 1 := by
    by_contra n
    simp [h, SMap.find?, n] at h2
  subst hc
  have e : s.clump 1 = k := by simp [State.clump, h, SMap.getD, SMap.find?]
  rw [e, h1] at h3
  exact ⟨rfl, by omega⟩

theorem idle_only (x : Strand) (mem : Memory) (c : Nat) (m : Lane) (h : ReadyAt (idle x mem) 0 0 c m) : c = 1 ∧ m = m0 := by
  obtain ⟨rfl, hb⟩ := lists_only (s := idle x mem) rfl rfl h.1
  obtain ⟨⟨-, -, h3⟩, -⟩ := h
  have hl : m.lane = 0 := by
    by_contra h
    have e : ((idle x mem).band 1 m.band).strands = [(0, x)] := by rw [hb]; rfl
    simp [e, SMap.find?, h] at h3
  cases m
  simp_all

/-- No strand is held that the one band of the test clump does not list as held. -/
theorem unheld {s : State} {k : Clump} {b : Band} (h : s.clumps = [(1, k)]) (h1 : k.bands = [b]) (h2 : ∀ x ∈ b.strands, x.2.held = false) :
    ∀ c m, (s.strand c m).held = false := by
  have absent : ∀ l, (b.strands.getD l { life := .absent }).held = false := by
    intro l
    generalize b.strands = l0 at h2
    induction l0 with
    | nil => rfl
    | cons x xs ih =>
      have hs := ih fun y hy => h2 y (List.mem_cons_of_mem _ hy)
      have hx := h2 x List.mem_cons_self
      obtain ⟨a, x⟩ := x
      simp only [SMap.getD, SMap.find?] at hs ⊢
      by_cases hl : l < a
      · simp [hl]
      · by_cases he : l = a
        · simpa [hl, he] using hx
        · simpa [hl, he] using hs
  intro c m
  by_cases hc : c = 1
  · subst hc
    by_cases hb : m.band = 0
    · simpa [State.strand, State.band, State.clump, h, SMap.getD, SMap.find?, Clump.band, h1, hb, Band.strand] using absent m.lane
    · obtain ⟨n, l⟩ := m
      match n with
      | 0 => simp at hb
      | n + 1 => simp [State.strand, State.band, State.clump, h, SMap.getD, SMap.find?, Clump.band, h1, Band.strand]
  · simp [State.strand, State.band, State.clump, h, SMap.getD, SMap.find?, Clump.band, hc, Band.strand]

theorem test_meets_IssueSlots : Sorted (idle).clumps ∧ (∀ k, Tidy ((idle).clump k)) ∧ (∀ c b, ((idle).band c b).held = none) ∧
    (∀ c m, ((idle).strand c m).held = false) ∧ Sorted (idle).slots ∧
    (∃ c m, ReadyAt idle 0 0 c m) ∧ (∀ c m, ReadyAt idle 0 0 c m → (idle).engineAt c ((idle).strand c m).pc = false) ∧
    ∀ c m, ¬ ReadyAt (idle { park := some ⟨.wait 4, 0, none⟩ }) 0 0 c m :=
  ⟨rfl, idle_tidy _ _, idle_held _ _, unheld rfl rfl (by decide), rfl, ⟨1, m0, idle_ready _⟩, by
    intro c m h
    obtain ⟨rfl, rfl⟩ := idle_only _ _ _ _ h
    decide +kernel, by
    intro c m h
    obtain ⟨rfl, rfl⟩ := idle_only _ _ _ _ h
    have := h.2.2.2.2.2.2.1
    exact absurd this (by decide +kernel)⟩

/-- An engine word, `cp.poll`'s opcode, stands at the strand's program counter value. -/
theorem engineWord_at : (idle {} (Memory.writeNat [] 0x10000 4 0x22000000)).engineAt 1 0 = true := by decide +kernel

theorem test_meets_IssueSlots_engine : let s := idle {} (Memory.writeNat [] 0x10000 4 0x22000000)
    s.engineAt 1 0 = true ∧ (∃ m, ReadyAt s 0 0 1 m) ∧ (∀ d m, ReadyAt s 0 0 d m → d = 1 ∧ m.band = 0 ∧ (s.strand 1 m).pc = 0) ∧
    ∀ l x, (s.band 1 0).strands.find? l = some x → x.life = .live → ReadyAt s 0 0 1 ⟨0, l⟩ :=
  ⟨engineWord_at, ⟨m0, idle_ready _⟩, by
    intro d m h
    obtain ⟨rfl, rfl⟩ := idle_only _ _ _ _ h
    exact ⟨rfl, rfl, rfl⟩, by
    intro l x h _
    have hl : l = 0 := by
      by_contra h'
      have e : ∀ mem, ((idle {} mem).band 1 0).strands = [(0, {})] := fun _ => rfl
      rw [e] at h
      simp [SMap.find?, h'] at h
    subst hl
    exact idle_ready _⟩

/-- The same in a band whose lane 1 is parked: the band is not whole. -/
def halfReady : State :=
  { machine { strands := [(0, {}), (1, { park := some ⟨.wait 4, 0, none⟩ })] } [0] with
    sheaf := none, mem := Memory.writeNat [] 0x10000 4 0x22000000 }

theorem halfReady_only (d : Nat) (m : Lane) (h : ReadyAt halfReady 0 0 d m) : d = 1 ∧ m = m0 := by
  obtain ⟨rfl, hb⟩ := lists_only (s := halfReady) rfl rfl h.1
  obtain ⟨⟨-, -, h3⟩, -, -, -, -, -, h4, -⟩ := h
  obtain ⟨b, l⟩ := m
  simp only at hb
  subst hb
  match l with
  | 0 => exact ⟨rfl, rfl⟩
  | 1 => exact absurd h4 (by decide +kernel)
  | l + 2 =>
    have e : (halfReady.band 1 0).strands = [(0, {}), (1, { park := some ⟨.wait 4, 0, none⟩ })] := rfl
    simp [e, SMap.find?] at h3

theorem test_meets_IssueSlots_held : halfReady.engineAt 1 0 = true ∧ ReadyAt halfReady 0 0 1 m0 ∧
    (∀ d m, ReadyAt halfReady 0 0 d m → d = 1 ∧ m.band = 0 ∧ (halfReady.strand 1 m).pc = 0) ∧ (∀ c m, (halfReady.strand c m).held = false) ∧
    ¬ ∀ l x, (halfReady.band 1 0).strands.find? l = some x → x.life = .live → ReadyAt halfReady 0 0 1 ⟨0, l⟩ :=
  ⟨by decide +kernel, ⟨⟨rfl, Nat.zero_lt_one, rfl⟩, rfl, .inl rfl, rfl, rfl, rfl, rfl, rfl, rfl⟩, by
    intro d m h
    obtain ⟨rfl, rfl⟩ := halfReady_only _ _ h
    exact ⟨rfl, rfl, rfl⟩, unheld rfl rfl (by decide), by
    intro h
    have := halfReady_only _ _ (h 1 _ rfl rfl)
    simp at this⟩

/-- A clump of the test kernel, of a thicket kernel, a spawned band and a saved clump wait for a place. -/
def placing (w : Waiting) (thicket : Bool := false) : State :=
  { waiting := [w], plantings := [(1, { kernel := { kern with thicket := thicket }, clumps := 2 })]
    clumps := if w.saved = some 7 then [(7, { planting := 1, kernel := kern, bands := [lone []], place := .saved })] else [] }

theorem placing_first (w : Waiting) (b : Bool) : ¬ ∃ j x, (placing w b).waiting[j]? = some x ∧ (w.prio < x.prio ∨ (x.prio = w.prio ∧ j < 0)) ∧
    ∃ d < 4, ∃ k < 224, ((placing w b).fitsAt x d k).isSome := by
  rintro ⟨j, x, h, h2, -⟩
  have e : (placing w b).waiting = [w] := rfl
  rw [e] at h
  match j with
  | 0 =>
    have hx := Option.some.inj h
    subst hx
    omega
  | j + 1 => simp at h

theorem test_meets_PlacementAndEnd : (∀ w ∈ [({ planting := 1, no := 0, prio := 0 } : Waiting),
      { planting := 1, no := 0, prio := 0, records := [[1, 2, 3, 4]] }, { planting := 1, no := 0, prio := 0, saved := some 7 }],
      (placing w).waiting[0]? = some w ∧ Sorted (placing w).clumps ∧ (w.records ≠ [] → ((placing w).plantings.getD 1 {}).kids = []) ∧
      ((placing w).ctx 0).stopping = none ∧ ((placing w).ctx 0).away = false ∧
      ((placing w).ctx 0).faulted = none ∧ ((placing w).fitsAt w 3 223).isSome = true) ∧
    (((placing { planting := 1, no := 0, prio := 0 } true).fitsAt { planting := 1, no := 0, prio := 0 } 3 222).isSome = true ∧
    (placing { planting := 1, no := 0, prio := 0 } true).fitsAt { planting := 1, no := 0, prio := 0 } 3 223 = none ∧
    (let s := placing { planting := 1, no := 0, prio := 0, saved := some 7 }
     (s.clumps.find? 7).isSome = true ∧ (s.clump 7).thicket = 0 ∧ (s.clump 7).place ≠ .resident ∧ (s.clump 7).prog = none ∧
     (s.clump 7).record = none)) :=
  ⟨by unfold Sorted; decide +kernel, by decide +kernel⟩

/-- A saved clump whose record lies in memory that holds zero. -/
def recorded : State :=
  { waiting := [{ planting := 1, no := 0, prio := 0, saved := some 7 }], plantings := [(1, { kernel := kern })]
    clumps := [(7, { planting := 1, kernel := kern, bands := [lone []], place := .saved, record := some (0x100000, 0x200000) })] }

theorem test_meets_PlacementAndEnd_record : Tidy (recorded.clump 7) ∧ recorded.Lists 7 m0 ∧
    ((recorded.fitsAt { planting := 1, no := 0, prio := 0, saved := some 7 } 3 223).isSome = true ∧
    (recorded.clump 7).record = some (0x100000, 0x200000) ∧
    recorded.latestNat (0x100000 + 0x18) 4 = 0 ∧ (recorded.clump 7).bands.length = 1 ∧ ((recorded.clump 7).band 0).slot < 16 ∧
    ((recorded.clump 7).band 0).quad < 4 ∧ (recorded.strand 7 m0).park = none ∧ (recorded.clump 7).kernel.regs ≤ 128 ∧
    (let r := 0x100000 + firstBand (recorded.clump 7).kernel
     let e := r + 0x0C80 + if (recorded.latestNat (r + 4) 4).testBit 8 then 128 * (recorded.clump 7).kernel.regs else 0
     recorded.latestNat (e + 8 * 0) 8 / 2 % 8 ≠ 1)) :=
  ⟨tidy_of _ rfl rfl, ⟨rfl, Nat.zero_lt_one, rfl⟩, by decide +kernel⟩

/-- The only strand of the test clump has exited, or is live. -/
theorem test_meets_PlacementAndEnd_end : Sorted (idle { life := .exited }).clumps ∧ Sorted (idle { life := .exited }).ctxs ∧
    Sorted (idle { life := .exited }).plantings ∧ (∀ k, Tidy ((idle { life := .exited }).clump k)) ∧
    (∀ o ∈ (idle { life := .exited }).ops, o.clump = 1 → o.kind = .close) ∧
    (((idle { life := .exited }).clumps.find? 1).isSome = true ∧
    ((idle { life := .exited }).clump 1).place = .resident ∧ (∀ b ∈ ((idle { life := .exited }).clump 1).bands,
      b.holds = false ∧ b.tape.mode = 0 ∧ ∀ y ∈ b.strands, y.2.host = []) ∧
    ¬ (∀ b ∈ ((idle).clump 1).bands, b.holds = false)) :=
  ⟨rfl, rfl, rfl, idle_tidy _ _, by intro o ho; simp [idle, being, machine] at ho, by decide +kernel⟩

/-! ### Module events -/

/-- A hot module all of whose contexts are away, or none of them. -/
def hot (away : Bool) : State := { fw := { hot := true }, ctxs := (List.range 16).map fun c => (c, { away := away }) }

theorem test_meets_ModuleEvents : (tiny []).Inv ∧ (tiny []).fw.recovery = false ∧ ({ fw := { recovery := true } } : State).Inv ∧
    (tiny []).fw.hot = false ∧ (tiny []).ctl.owner.getD 0 0 = 0 ∧ (∀ g < 256, (tiny []).ctl.owner.getD g 0 ≠ 511) ∧ (hot true).Inv ∧
    (∀ c < 16, ((hot true).ctx c).away = true) ∧ (∃ c < 16, ((hot false).ctx c).away = false) ∧ Sorted (tiny []).ctxs ∧
    Sorted (tiny []).ctl.pstat ∧ ((tiny []).ctx 0).faulted = none ∧
    (({ fw := { powered := false }, agenda := [.moduleReset true] } : State).fw.powered = false ∧ needsDies (.moduleReset true) = false ∧
      (Instr.moduleReset true).isEvent = true ∧ needsDies (.issueSlot 0 0 0) = true) :=
  ⟨tiny_inv _, rfl, inv_of _ rfl rfl rfl (by simp), rfl, rfl, by decide +kernel, inv_of _ rfl rfl rfl (by simp [hot]), by decide +kernel,
    by decide +kernel, rfl, rfl, rfl, by decide +kernel⟩

/-- A partition of two modules, this one 0, with one port up; and with two. -/
def partitioned (ports : List Nat) : State := { ctl := { chip := 0, psize := 2, pstat := ports.map fun p => (p, 3) } }

theorem test_meets_ModuleEvents_partition : (partitioned [3]).Inv ∧ 1 ≠ (partitioned [3]).ctl.chip ∧ 1 < (partitioned [3]).ctl.psize ∧
    (∀ q, q ≠ 3 → ¬ portUp (partitioned [3]) q) ∧ (∃ q, q ≠ 3 ∧ portUp (partitioned [3, 5]) q) ∧ (0 < 576 ∧ 576 ≤ 576 ∧ ∀ p ∈ [23], p < 24) ∧
    ¬ (576 < 576) :=
  ⟨inv_of _ rfl rfl rfl (by simp [partitioned]), by decide, by decide, by
    intro q h hp
    have e : (partitioned [3]).ctl.pstat.getD q 0 = 0 := by simp [partitioned, SMap.getD, SMap.find?, h]
    unfold portUp at hp
    rw [e] at hp
    simp at hp, ⟨5, by decide, by unfold portUp; decide +kernel⟩, by decide, by decide⟩

/-! ### Decoding and the step -/

theorem test_meets_DecodeEncode : (⟨false, true, .addi 5 1 (-1)⟩ : DWord).wf = true ∧ (decode 0x420A047F).toOption = some ⟨false, true, .addi 5 1 (-1)⟩ :=
  ⟨by decide +kernel, by decide +kernel⟩

/-- A sheaf at program counter value 0, where `add v3, v1, v2` stands; and an immediate extension, chained to `addi`. -/
def atAdd : State := { tiny [(1, 5), (2, 7)] with mem := Memory.writeNat [] 0x10000 4 0x01060410 }
def atExt : State := { tiny [] with mem := Memory.writeNat [] 0x10000 8 (0xBF000001 + 0x02040401 * 2 ^ 32) }

theorem test_meets_StepRunsDecoded : (atAdd.fetchWord atAdd.sh.clump atAdd.sh.at_).1 = .word 0x01060410 ∧
    (decode 0x01060410).toOption = some ⟨false, false, .add 3 1 2⟩ ∧ atAdd.sh.at_.toNat % 4 ≠ 3 ∧ atAdd.sh.at_.toNat % 4 = 0 ∧
    CanIssue atAdd ⟨atAdd.sh.at_, atAdd.sh.at_, false, {}, .add 3 1 2⟩ :=
  ⟨by decide +kernel, by decide +kernel, by decide, by decide, ⟨rfl, rfl, by decide, rfl, by decide +kernel, by decide +kernel, by decide +kernel,
    by decide +kernel, by decide +kernel, by decide +kernel⟩⟩

theorem test_meets_StepRunsDecoded_extension : (atExt.fetchWord atExt.sh.clump atExt.sh.at_).1 = .word 0xBF000001 ∧
    (decode 0xBF000001).toOption.map (fun d => (d.ch, ({} : Ext).addWord d.instr)) = some (true, some { imm := some 1 }) ∧
    ((atExt.fetchWord atExt.sh.clump atExt.sh.at_).2.fetchWord atExt.sh.clump (atExt.sh.at_ + 1)).1 = .word 0x02040401 ∧
    (decode 0x02040401).toOption = some ⟨false, false, .addi 2 1 1⟩ ∧
    CanIssue atExt ⟨atExt.sh.at_, atExt.sh.at_ + 1, false, { imm := some 1 }, .addi 2 1 1⟩ :=
  ⟨by decide +kernel, by decide +kernel, by decide +kernel, by decide +kernel, ⟨rfl, rfl, by decide, rfl, by decide +kernel, by decide +kernel,
    by decide +kernel, by decide +kernel, by decide +kernel, by decide +kernel⟩⟩

theorem test_meets_StepRunsDecoded_end : (tiny []).sh.lanes.Nodup ∧ (tiny []).Lists 1 m0 ∧ (tiny []).sh.isStopped m0 = false ∧ (tiny []).sh.moved = [] ∧
    (tiny []).sh.users = [] ∧ (tiny []).sh.links = [] ∧ ((tiny []).str m0).life = .live ∧ ((tiny []).str m0).park = none ∧
    ({ agenda := [.issueSlot 0 0 0] } : State).sheaf = none ∧ (Instr.issueSlot 0 0 0).isEvent = true ∧ State.reset.nextEvent.isEvent = true :=
  ⟨by decide +kernel, (tiny_formed []).lists m0 (by decide), rfl, rfl, rfl, rfl, rfl, rfl, rfl, by decide +kernel, by decide +kernel⟩

theorem test_meets_StepKeepsInvariant : State.reset.Inv ∧ ∃ t, step State.reset = .next t :=
  ⟨inv_of _ rfl rfl rfl (by simp [State.reset]), _, rfl⟩

end Sys2Proof.Tests
end

