-- ==== Sys2Proof/Tests/MeetsThreads.lean ====
section
/-!
SUPPORT. For each statement about the scratchpad, traps, control flow, regions, barriers and waits: a state and operands that meet
what it supposes.
-/

set_option Elab.async false

namespace Sys2Proof.Tests
open Sys2Proof.Machine Sys2Proof.Claims

/-! ### Scratchpad, traps and system words -/

/-- The last 16 bytes of the scratchpad, in v6; and a byte past them. -/
abbrev atTop : SMap Word := [(6, 0xFFF0)]
abbrev pastTop : SMap Word := [(6, 0x10000)]

theorem test_meets_Scratchpad : Alone (tiny atTop) m0 ∧ Sorted (tiny atTop).clp.spad ∧ ((tiny atTop).addrS m0 6 0 16).toNat = 0xFFF0 ∧
    0xFFF0 + 16 ≤ (tiny atTop).clp.kernel.spad ∧ ¬ scratchAbsent (tiny atTop).clp 0xFFF0 16 ∧ ¬ scratchPoison (tiny atTop).clp 0xFFF0 16 ∧
    (tiny atTop).lockedFor (tiny atTop).coreOf (tiny atTop).ctxNo (some 1) 0xFFF0 16 true = none :=
  ⟨tiny_alone _, rfl, by decide +kernel, by decide +kernel, by unfold scratchAbsent; decide +kernel, by unfold scratchPoison; decide +kernel,
    by decide +kernel⟩

/-- The test strand over a scratchpad with an absent last line, or with a poisoned one; it has read there already, or has not. -/
def absentTop (got : Option (Nat × Nat × Nat)) : State := machine { strands := [(0, { v := atTop, got := got })] } [0] { absent := [(511, 9)] }
def poisonTop : State := machine (lone atTop) [0] { spadPoison := [511] }

theorem test_meets_Scratchpad_lines : Alone (absentTop none) m0 ∧ Sorted (absentTop none).clp.spad ∧
    ((absentTop none).addrS m0 6 0 16).toNat = 0xFFF0 ∧ ((absentTop none).str m0).got = none ∧ scratchAbsent (absentTop none).clp 0xFFF0 16 ∧
    (absentTop none).sh.solo = true ∧ Alone poisonTop m0 ∧ Sorted poisonTop.clp.spad ∧ ¬ scratchAbsent poisonTop.clp 0xFFF0 16 ∧
    scratchPoison poisonTop.clp 0xFFF0 16 :=
  ⟨⟨machine_formed _ _ _ rfl, rfl⟩, rfl, by decide +kernel, rfl, by unfold scratchAbsent; decide +kernel, rfl,
    ⟨machine_formed _ _ _ rfl, rfl⟩, rfl, by unfold scratchAbsent; decide +kernel, by unfold scratchPoison; decide +kernel⟩

/-- A chain of several words at the same line, before the line is present, and after its load has read it. -/
def chained (got : Option (Nat × Nat × Nat)) : State :=
  { absentTop got with sheaf := some { sheafOf [0] with solo := false } }

theorem chained_formed (got : Option (Nat × Nat × Nat)) : (chained got).Formed :=
  formed_of _ rfl (by simp [chained, sheafOf, State.sh]) (by
    intro m hm
    simp [chained, sheafOf, State.sh] at hm
    subst hm
    exact ⟨rfl, Nat.zero_lt_one, rfl⟩)

theorem test_meets_Scratchpad_chained : Alone (chained none) m0 ∧ Sorted (chained none).clp.spad ∧ (chained none).sh.solo = false ∧
    scratchAbsent (chained none).clp 0xFFF0 16 ∧ Alone (chained (some (0xFFF0, 16, 7))) m0 ∧
    Sorted (chained (some (0xFFF0, 16, 7))).clp.spad ∧ ((chained (some (0xFFF0, 16, 7))).str m0).got = some (0xFFF0, 16, 7) :=
  ⟨⟨chained_formed _, rfl⟩, rfl, rfl, by unfold scratchAbsent; decide +kernel, ⟨chained_formed _, rfl⟩, rfl, rfl⟩

theorem test_meets_Scratchpad_bounds : Alone (tiny pastTop) m0 ∧ ((tiny pastTop).addrS m0 6 0 4).toNat % 4 = 0 ∧
    (tiny pastTop).clp.kernel.spad < ((tiny pastTop).addrS m0 6 0 4).toNat + 4 ∧ Alone (tiny [(6, 0xFFF2)]) m0 ∧
    ((tiny [(6, 0xFFF2)]).addrS m0 6 0 4).toNat % 4 ≠ 0 :=
  ⟨tiny_alone _, by decide +kernel, by decide +kernel, tiny_alone _, by decide +kernel⟩

theorem test_meets_TakingATrap : (tiny []).Lists 1 m0 ∧ ((tiny []).strand 1 m0).h = false ∧ ((tiny []).plantingOf 1).handler = some 64 :=
  ⟨(tiny_formed []).lists m0 (by decide), rfl, by decide +kernel⟩

/-- The test planting without a handler. -/
def unhandled : State := { tiny [] with plantings := [(1, { kernel := kern })] }

theorem test_meets_TakingATrap_faults : unhandled.Lists 1 m0 ∧ (unhandled.plantingOf 1).handler = none ∧
    (unhandled.ctx (unhandled.clump 1).ctx).faulted = none :=
  ⟨(formed_like (tiny_formed []) rfl rfl : unhandled.Formed).lists m0 (by decide), by decide +kernel, by decide +kernel⟩

/-- A strand whose load on the CXL.io path is to come. -/
def loading : State := machine { strands := [(0, { host := [{ pa := hostBase, act := .read 8 4 false }] })] } [0]

theorem loading_formed : loading.Formed := machine_formed _ _ _ rfl

theorem test_meets_TakingATrap_waits : loading.Lists 1 m0 ∧ (loading.strand 1 m0).hostResults = true :=
  ⟨loading_formed.lists m0 (by decide), by decide +kernel⟩

/-- Addresses that are misaligned, beyond 2^56, and without a translation. -/
abbrev odd : SMap Word := [(6, 0x2002), (7, 0)]
abbrev beyond : SMap Word := [(6, 0), (7, 0x01000000)]
abbrev untranslated : SMap Word := [(6, 0x40000000), (7, 0)]

theorem test_meets_AccessTraps : Alone (tiny odd) m0 ∧ (tiny odd).Inv ∧ ((tiny odd).opA64 m0 6).toNat % 4 ≠ 0 ∧
    Alone (tiny beyond) m0 ∧ (tiny beyond).Inv ∧ (tiny beyond).translate (tiny beyond).ctxNo ((tiny beyond).opA64 m0 6).toNat 4 .atomic =
      .bad .virtualRange ∧
    Alone (tiny untranslated) m0 ∧ (tiny untranslated).Inv ∧ ∃ l p b z, (tiny untranslated).translate (tiny untranslated).ctxNo
      ((tiny untranslated).opA64 m0 6).toNat 4 .atomic = .absent l p b z :=
  ⟨tiny_alone _, tiny_inv _, by decide +kernel, tiny_alone _, tiny_inv _, by decide +kernel, tiny_alone _, tiny_inv _, 0, 2 ^ 52, 0, 2 ^ 48,
    by decide +kernel⟩

/-- A copy's lock on the last line of a page. -/
def locked : State := { tiny atEdge with locks := [(0, ⟨0, none, 0x2070, 0x2080, true, 4, 77⟩)] }

theorem test_meets_AccessTraps_conflict : Alone locked m0 ∧ locked.Inv ∧
    locked.translate locked.ctxNo 0x2070 16 .read = .ok 0x2070 0x33 0 (2 ^ 30) none ∧
    locked.conflict locked.coreOf locked.ctxNo 0x2070 16 false = some 77 :=
  ⟨⟨formed_like (tiny_formed atEdge) rfl rfl, rfl⟩, inv_of _ rfl rfl rfl (tiny_inv atEdge).pages, by decide +kernel, by decide +kernel⟩

/-- A page whose first chunk a migration has still to pull. -/
def migrating : State :=
  { tiny [(6, 0x2000), (7, 0)] with
    coh := { tlb := [⟨0, 0, 2 ^ 16, 0x233⟩] }
    dram := { migrations := [⟨0, 0x100000, 2 ^ 16, [2], 0, 0⟩] } }

theorem test_meets_AccessTraps_migrating : Alone migrating m0 ∧ migrating.Inv ∧ (migrating.opA64 m0 6).toNat = 0x2000 ∧
    migrating.translate migrating.ctxNo 0x2000 4 .atomic = .migrating ∧
    migrating.conflict migrating.coreOf migrating.ctxNo 0x2000 4 Kind.atomic.writes = none :=
  ⟨⟨formed_like (tiny_formed [(6, 0x2000), (7, 0)]) rfl rfl, rfl⟩, inv_of _ rfl rfl rfl (by
    intro y hy
    simp [migrating] at hy
    subst hy
    rfl), by decide +kernel, by decide +kernel, by decide +kernel⟩

/-- A poisoned granule. -/
def poisoned : State := { tiny atEdge with poison := [0x2070 / 64] }

theorem test_meets_AccessTraps_policy : Alone (withSweep atEdge 0x2040) m0 ∧ (withSweep atEdge 0x2040).Inv ∧
    Reaches (withSweep atEdge 0x2040) 0x2070 16 .read 0x2070 0 ∧ (withSweep atEdge 0x2040).polFault 0x2070 0 0 = true ∧
    Alone poisoned m0 ∧ poisoned.Inv ∧ Reaches poisoned 0x2070 16 .read 0x2070 0 ∧ poisoned.polFault 0x2070 0 0 = false ∧
    HasToken poisoned 0x2070 ∧ poisoned.poisoned 0x2070 16 = true :=
  ⟨⟨withSweep_formed _ _, rfl⟩, withSweep_inv _ _,
    reaches_of _ _ _ _ rfl (by decide +kernel) (by decide +kernel) (by decide +kernel) (by decide +kernel), by decide +kernel,
    ⟨formed_like (tiny_formed atEdge) rfl rfl, rfl⟩, inv_of _ rfl rfl rfl (tiny_inv atEdge).pages,
    reaches_of _ _ _ _ rfl (by decide +kernel) (by decide +kernel) (by decide +kernel) (by decide +kernel), by decide +kernel,
    by unfold HasToken; decide +kernel, by decide +kernel⟩

/-- The test code segment with a word at program counter value 0. -/
def withWord (w : Nat) : State := { tiny [] with mem := Memory.writeNat [] 0x10000 4 w }

theorem test_meets_SystemWords : (withWord 0x01060410).Formed ∧ Alone (withWord 0x01060410) m0 ∧
    ((withWord 0x01060410).ctx (withWord 0x01060410).clp.ctx).faulted = none ∧
    ((withWord 0x01060410).fetchWord 1 ((withWord 0x01060410).str m0).epc).1 = .word 0x01060410 ∧ fOp 0x01060410 ≠ 0x3F ∧
    ((withWord 0x01060410).str m0).host = [] ∧ Alone loading m0 ∧ (loading.str m0).host ≠ [] :=
  ⟨formed_like (tiny_formed []) rfl rfl, ⟨formed_like (tiny_formed []) rfl rfl, rfl⟩, by decide +kernel, by decide +kernel, by decide,
    rfl, ⟨loading_formed, rfl⟩, by decide +kernel⟩

/-! ### Control flow and regions -/

theorem test_meets_BranchesAndCalls : (tiny [(127, 8)]).Formed := tiny_formed _

theorem test_meets_EndOfAChain : (tiny []).Formed ∧ ∀ m ∈ (tiny []).sh.lanes, (tiny []).sh.isStopped m = false ∧
    ((tiny []).str m).life = .live ∧ (tiny []).sh.users = [] ∧ (∀ x ∈ (tiny []).sh.links, x.1 ≠ m) ∧ ((tiny []).str m).park = none :=
  ⟨tiny_formed _, by decide +kernel⟩

theorem test_meets_EndingStrands : (tiny []).Formed ∧ (∀ b ∈ (tiny []).clp.bands, Sorted b.strands) ∧
    ((tiny []).plantings.find? (tiny []).clp.planting).isSome = true ∧ staysLive (tiny []) 0 = [] :=
  ⟨tiny_formed _, by unfold Sorted; decide +kernel, by decide +kernel, by decide +kernel⟩

/-- Two region-table entries: the second names one register, v6. -/
def withRegions (cached : List (Nat × Nat × Nat × Nat)) : State :=
  { tiny [] with mem := Memory.writeNat [] 0x20010 16 (1 * 2 ^ 112 + 6), coh := { (tiny []).coh with rtabs := cached } }

theorem regions_formed (c : List (Nat × Nat × Nat × Nat)) : (withRegions c).Formed := formed_like (tiny_formed []) rfl rfl
theorem regions_mem : (Memory.writeNat [] 0x20010 16 (1 * 2 ^ 112 + 6)).wf = true := by decide +kernel
theorem regions_inv (c : List (Nat × Nat × Nat × Nat)) : (withRegions c).Inv :=
  inv_of _ regions_mem rfl rfl (tiny_inv []).pages

theorem test_meets_RegionHeads : Alone (withRegions []) m0 ∧ (withRegions []).Inv ∧ (withRegions []).clp.kernel.nreg ≤ 2 ∧
    1 < (withRegions []).clp.kernel.nreg ∧ (withRegions []).translate 0 (0x20000 + 16 * 1) 16 .read = .ok 0x20010 0x33 0 (2 ^ 30) none ∧
    ((withRegions []).coreOf, (withRegions []).ctxNo, 0x20000, 1) ∉ (withRegions []).coh.rtabs :=
  ⟨⟨regions_formed _, rfl⟩, regions_inv _, by decide +kernel, by decide +kernel, by decide +kernel, by decide +kernel⟩

theorem test_meets_RegionHeads_cached : let s := withRegions [(0, 0, 0x20000, 1)]
    Alone s m0 ∧ s.Inv ∧ s.translate 0 (0x20000 + 16 * 1) 16 .read = .ok 0x20010 0x33 0 (2 ^ 30) none ∧
    (s.coreOf, s.ctxNo, s.clp.kernel.rtab, 1) ∈ s.coh.rtabs ∧ (s.bnd m0).engOut = [] ∧ s.latestNat 0x20010 16 / 2 ^ 112 % 32 = 1 ∧
    ∀ r ∈ [s.latestNat 0x20010 16 % 128], r < s.clp.kernel.regs ∨ r = 127 :=
  ⟨⟨regions_formed _, rfl⟩, regions_inv _, by decide +kernel, by decide +kernel, by decide +kernel, by decide +kernel, by decide +kernel⟩

end Sys2Proof.Tests
end

