-- ==== Sys2Proof/Tests/Slice0.lean ====
section
/-!
SUPPORT. Tests of well-formedness and of decoding. The words of every instruction are laid out here from the formats of R16 and the
encoding tables of the chapters, beside Decode's own reading of them.
-/

set_option Elab.async false

namespace Sys2Proof.Tests

/-! ### Well-formedness: an ill-formed term for each check -/

/-- R16: slot 3 is no slot of a packet. -/
theorem test_wf_branch_slot : (Instr.br 0 0 0 3).wf = false ∧ (Instr.call 0 0 0 3).wf = false ∧ (Instr.br 0 0 0 2).wf = true := by decide
/-- R28, R190: destination formats 14 and 15 are reserved. -/
theorem test_wf_cvt_destination : (Instr.cvt 2 1 14 0 0).wf = false ∧ (Instr.cvt 2 1 13 0 0).wf = true := by decide
/-- R160: at most 16 live-in registers. -/
theorem test_wf_region_count : (Instr.region 17 0 0).wf = false ∧ (Instr.region 16 0 0).wf = true := by decide
/-- R277: at most 16 granules are kept. -/
theorem test_wf_exit_next_count : (Instr.exitNext 17 20).wf = false ∧ (Instr.exitNext 16 20).wf = true := by decide
/-- R278: result operations 0 to 4. -/
theorem test_wf_result_operation : (Instr.result 5 21).wf = false ∧ (Instr.result 4 21).wf = true := by decide
/-- R336: `trapinfo` selectors 0 to 2. -/
theorem test_wf_trapinfo_selector : (Instr.trapinfo 8 3).wf = false ∧ (Instr.trapinfo 8 2).wf = true := by decide
/-- R258: `tstat` selectors 0 to 4. -/
theorem test_wf_tstat_selector : (Instr.tstat 8 5).wf = false ∧ (Instr.tstat 8 4).wf = true := by decide
/-- R21: scope 7 and rounding modes 6 and 7 are reserved. -/
theorem test_wf_qual_fields : (Instr.qual 0 0 0 7 0 0 0 0 0).wf = false ∧ (Instr.qual 0 0 0 4 0 0 0 0 6).wf = false ∧
    (Instr.qual 0 0 0 4 0 0 0 0 7).wf = false ∧ (Instr.qual 0 0 0 4 0 0 0 0 5).wf = true := by decide
/-- A device event has no word. -/
theorem test_wf_event : (Instr.spdmRequest).isWord = false ∧ (Instr.spdmRequest).wf = false ∧ (encode ⟨false, false, .spdmRequest⟩) = none := by
  decide
/-- R19: an extension word has CH set and SW clear. -/
theorem test_wf_extension_bits : (DWord.wf ⟨false, false, .immext 0⟩) = false ∧ (DWord.wf ⟨true, true, .immext 0⟩) = false ∧
    (DWord.wf ⟨true, false, .immext 0⟩) = true := by decide

/-! ### Words -/

/-- The instruction of a word with CH and SW zero. -/
noncomputable def reads (w : Nat) : Option Instr :=
  match decode (BitVec.ofNat 32 w) with
  | .ok d => if d.ch || d.sw then none else some d.instr
  | .error _ => none

/-- Formats A, I, L, M and B (R16): OP [29:24]; D [23:17], A [16:10], B [9:3], FN [2:0]; FN [9:7] and IMM7; IMM17; T, base, OFF [9:4],
POL [3:2], SZ [1:0]; NEG [23], P [22:20], DISP [19:2], SLOT. -/
def inA (op d a b fn : Nat) : Nat := op * 2 ^ 24 + d * 2 ^ 17 + a * 2 ^ 10 + b * 2 ^ 3 + fn
def inI (op d a fn imm : Nat) : Nat := op * 2 ^ 24 + d * 2 ^ 17 + a * 2 ^ 10 + fn * 2 ^ 7 + imm
def inL (op d imm : Nat) : Nat := op * 2 ^ 24 + d * 2 ^ 17 + imm
def inM (op t base off pol sz : Nat) : Nat := op * 2 ^ 24 + t * 2 ^ 17 + base * 2 ^ 10 + off * 2 ^ 4 + pol * 2 ^ 2 + sz
def inB (op neg p disp slot : Nat) : Nat := op * 2 ^ 24 + neg * 2 ^ 23 + p * 2 ^ 20 + disp * 2 ^ 2 + slot

/-- The instructions of the words that a layout gives FN = 0, 1, … -/
noncomputable def byFn (n : Nat) (w : Nat → Nat) : List (Option Instr) := (List.range n).map fun i => reads (w i)

/-- R31, R169 to R173. -/
theorem test_words_00 :
    [reads 0, reads (inA 0 5 6 0 1), reads (inA 0 5 0x14 0 2), reads (inA 0 0x12 6 0 3), reads (inA 0 4 0 0 4), reads (inA 0 5 0 0 5)] =
      [some .nop, some (.mov 5 6), some (.movc 5 0x14), some (.wrc 0x12 6), some (.elect 4), some (.amask 5)] := by decide
/-- R174. -/
theorem test_words_01 :
    byFn 8 (inA 0x01 5 6 7) =
      [some (.add 5 6 7), some (.sub 5 6 7), some (.addc 5 6 7), some (.subb 5 6 7), some (.min 5 6 7), some (.max 5 6 7), some (.minn 5 6 7), some (.maxn 5 6 7)] := by decide
/-- R174. -/
theorem test_words_02 :
    (byFn 8 fun n => inI 0x02 5 6 n 7) =
      [some (.addi 5 6 7), some (.rsubi 5 6 7), some (.mini 5 6 7), some (.maxi 5 6 7), some (.minni 5 6 7), some (.maxni 5 6 7), some (.andi 5 6 7), some (.ori 5 6 7)] := by decide
/-- R175, R176. -/
theorem test_words_03 :
    byFn 8 (inA 0x03 5 6 7) =
      [some (.mulLo 5 6 7), some (.mulHi 5 6 7), some (.mulHin 5 6 7), some (.madLo 5 6 7), some (.madHi 5 6 7), some (.div 5 6 7), some (.divn 5 6 7), some (.rem 5 6 7)] := by decide
/-- R177. -/
theorem test_words_04 :
    byFn 6 (inA 0x04 5 6 7) =
      [some (.and 5 6 7), some (.or 5 6 7), some (.xor 5 6 7), some (.andn 5 6 7), some (.orn 5 6 7), some (.xnor 5 6 7)] := by decide
/-- R177. -/
theorem test_words_04_not :
    [reads (inA 0x04 5 6 0 6)] =
      [some (.not 5 6)] := by decide
/-- R178. -/
theorem test_words_05 :
    byFn 8 (inA 0x05 4 6 7) =
      [some (.shl 4 6 7), some (.shr 4 6 7), some (.sra 4 6 7), some (.rotl 4 6 7), some (.rotr 4 6 7), some (.shlD 4 6 7), some (.shrD 4 6 7), some (.sraD 4 6 7)] := by decide
/-- R178. -/
theorem test_words_06 :
    (byFn 8 fun n => inI 0x06 4 6 n 7) =
      [some (.shlImm 4 6 7), some (.shrImm 4 6 7), some (.sraImm 4 6 7), some (.rotlImm 4 6 7), some (.rotrImm 4 6 7), some (.shlDImm 4 6 7), some (.shrDImm 4 6 7), some (.sraDImm 4 6 7)] := by decide
/-- R179. -/
theorem test_words_07 :
    byFn 4 (inA 0x07 5 6 0) =
      [some (.clz 5 6), some (.ctz 5 6), some (.popc 5 6), some (.brev 5 6)] := by decide
/-- R179. -/
theorem test_words_07_fields :
    [reads (inA 0x07 5 6 7 4), reads (inA 0x07 5 6 7 5), reads (inA 0x07 5 6 7 6), reads (inA 0x07 5 6 7 7)] =
      [some (.bfe 5 6 7), some (.bfen 5 6 7), some (.bfi 5 6 7), some (.sext 5 6 7)] := by decide
/-- R180. -/
theorem test_words_08 :
    byFn 7 (inA 0x08 5 6 7) =
      [some (.cmpEq 5 6 7), some (.cmpNe 5 6 7), some (.cmpLt 5 6 7), some (.cmpLe 5 6 7), some (.cmpLtn 5 6 7), some (.cmpLen 5 6 7), some (.test 5 6 7)] := by decide
/-- R180. -/
theorem test_words_09 :
    (byFn 7 fun n => inI 0x09 5 6 n 7) =
      [some (.cmpEqImm 5 6 7), some (.cmpNeImm 5 6 7), some (.cmpLtImm 5 6 7), some (.cmpLeImm 5 6 7), some (.cmpLtnImm 5 6 7), some (.cmpLenImm 5 6 7), some (.testImm 5 6 7)] := by decide
/-- R181. -/
theorem test_words_0A :
    [reads (inA 0x0A 5 6 7 0), reads (inA 0x0A 5 6 7 1), reads (inA 0x0A 5 6 7 2), reads (inA 0x0A 5 6 0 3), reads (inA 0x0A 5 6 0 4),
      reads (inA 0x0A 100 6 0 5), reads (inA 0x0A 5 6 0 6), reads (inA 0x0A 5 6 0 7)] =
      [some (.pand 5 6 7), some (.por 5 6 7), some (.pxor 5 6 7), some (.pnot 5 6), some (.pmov 5 6), some (.vset 100 6), some (.voteAny 5 6), some (.voteAll 5 6)] := by decide
/-- R182, R184. -/
theorem test_words_0B_0D :
    [reads (inA 0x0B 5 6 7 3), reads (inL 0x0D 5 0x1FFFF)] =
      [some (.sel 5 6 7 3), some (.movi 5 0x1FFFF)] := by decide
/-- R183. -/
theorem test_words_0C :
    byFn 8 (inA 0x0C 4 6 7) =
      [some (.addD 4 6 7), some (.subD 4 6 7), some (.lea1 4 6 7), some (.lea2 4 6 7), some (.lea4 4 6 7), some (.lea8 4 6 7), some (.lea16 4 6 7), some (.mulWide 4 6 7)] := by decide
/-- R185. -/
theorem test_words_0E :
    byFn 7 (inA 0x0E 5 6 7) =
      [some (.fadd 5 6 7), some (.fsub 5 6 7), some (.fmul 5 6 7), some (.fmin 5 6 7), some (.fmax 5 6 7), some (.fdiff 5 6 7), some (.fcopysign 5 6 7)] := by decide
/-- R185. -/
theorem test_words_0E_frnd :
    [reads (inA 0x0E 5 6 0 7)] =
      [some (.frnd 5 6)] := by decide
/-- R186. -/
theorem test_words_0F :
    byFn 4 (inA 0x0F 5 6 7) =
      [some (.fma 5 6 7), some (.fms 5 6 7), some (.fnma 5 6 7), some (.fnms 5 6 7)] := by decide
/-- R187. -/
theorem test_words_10 :
    byFn 8 (inA 0x10 5 6 7) =
      [some (.faddH2 5 6 7), some (.fmulH2 5 6 7), some (.fmaH2 5 6 7), some (.faddB2 5 6 7), some (.fmulB2 5 6 7), some (.fmaB2 5 6 7), some (.fminH2 5 6 7), some (.fmaxH2 5 6 7)] := by decide
/-- R188. -/
theorem test_words_11 :
    byFn 6 (inA 0x11 5 6 7) =
      [some (.fcmpEq 5 6 7), some (.fcmpNe 5 6 7), some (.fcmpLt 5 6 7), some (.fcmpLe 5 6 7), some (.fcmpUn 5 6 7), some (.fclass 5 6 7)] := by decide
/-- R189. -/
theorem test_words_12 :
    byFn 8 (inA 0x12 5 6 0) =
      [some (.rcp 5 6), some (.rsqrt 5 6), some (.sqrt 5 6), some (.exp2 5 6), some (.log2 5 6), some (.sinpi 5 6), some (.cospi 5 6), some (.tanh 5 6)] := by decide
/-- R190: DST in B [6:3], RND in B [2:0], SRC in FN; the worked word, and one with each field different. -/
theorem test_words_13 :
    [reads 0x13040540, reads (inA 0x13 2 1 (11 * 8 + 3) 4)] =
      [some (.cvt 2 1 5 0 0), some (.cvt 2 1 11 3 4)] := by decide
/-- R192. -/
theorem test_words_14 :
    byFn 8 (inA 0x14 5 6 7) =
      [some (.pkF8 5 6 7), some (.pkF4 5 6 7), some (.pkI8 5 6 7), some (.pkI4 5 6 7), some (.unpkF8 5 6 7), some (.unpkF4 5 6 7), some (.unpkI8 5 6 7), some (.unpkI4 5 6 7)] := by decide
/-- R193. -/
theorem test_words_15 :
    byFn 8 (inA 0x15 5 6 7) =
      [some (.dot8I4 5 6 7), some (.dot8N4 5 6 7), some (.dot8I4n4 5 6 7), some (.dot4I8 5 6 7), some (.dot4N8 5 6 7), some (.dot4F8a 5 6 7), some (.dot4F8b 5 6 7), some (.dot2B16 5 6 7)] := by decide
/-- R162, R163, R195. -/
theorem test_words_16 :
    [reads (inA 0x16 5 6 7 0), reads (inA 0x16 5 6 7 1), reads (inA 0x16 5 6 7 2), reads (inA 0x16 5 6 7 3), reads (inA 0x16 5 6 31 4),
      reads (inA 0x16 5 6 0 5), reads (inA 0x16 5 6 7 6), reads (inA 0x16 5 6 0 7)] =
      [some (.shfl 5 6 7), some (.shflUp 5 6 7), some (.shflDn 5 6 7), some (.shflX 5 6 7), some (.rdlane 5 6 31), some (.ballot 5 6), some (.perm 5 6 7), some (.ptab 5 6)] := by decide
/-- R196, R197. -/
theorem test_words_17 :
    byFn 8 (inA 0x17 5 6 0) =
      [some (.bredAdd 5 6), some (.bredMin 5 6), some (.bredMax 5 6), some (.bredFadd 5 6), some (.bredFmin 5 6), some (.bredFmax 5 6), some (.scanAdd 5 6), some (.scanFadd 5 6)] := by decide
/-- R198. -/
theorem test_words_18 :
    byFn 8 (inA 0x18 5 6 7) =
      [some (.kadd 5 6 7), some (.ksub 5 6 7), some (.kmul 5 6 7), some (.kand 5 6 7), some (.kor 5 6 7), some (.kxor 5 6 7), some (.kshl 5 6 7), some (.kshr 5 6 7)] := by decide
/-- R198. -/
theorem test_words_19 :
    (byFn 5 fun n => inI 0x19 5 6 n 7) =
      [some (.kaddi 5 6 7), some (.kandi 5 6 7), some (.kori 5 6 7), some (.kshli 5 6 7), some (.kshri 5 6 7)] := by decide
/-- R198. -/
theorem test_words_19_last :
    [reads (inI 0x19 5 0 5 7), reads (inI 0x19 5 6 6 7)] =
      [some (.kmovi 5 7), some (.kcmpi 5 6 7)] := by decide
/-- R104. -/
theorem test_words_1A :
    (byFn 4 fun n => inM 0x1A 4 6 9 2 n) =
      [some (.ldB 4 6 9 2), some (.ldH 4 6 9 2), some (.ldW 4 6 9 2), some (.ldD 4 6 9 2)] := by decide
/-- R106. -/
theorem test_words_1B :
    (byFn 2 fun n => inM 0x1B 4 6 9 2 n) =
      [some (.ldsB 4 6 9 2), some (.ldsH 4 6 9 2)] := by decide
/-- R104. -/
theorem test_words_1C :
    (byFn 4 fun n => inM 0x1C 4 6 9 2 n) =
      [some (.stB 4 6 9 2), some (.stH 4 6 9 2), some (.stW 4 6 9 2), some (.stD 4 6 9 2)] := by decide
/-- R104. -/
theorem test_words_1D :
    (byFn 2 fun n => inM 0x1D 4 6 9 2 n) =
      [some (.ldQ 4 6 9 2), some (.stQ 4 6 9 2)] := by decide
/-- R73: POL is zero. -/
theorem test_words_1D_swept :
    [reads (inM 0x1D 4 6 9 0 2), reads (inM 0x1D 4 6 9 0 3)] =
      [some (.ldSvW 4 6 9), some (.ldSvQ 4 6 9)] := by decide
/-- R107. -/
theorem test_words_1E :
    byFn 8 (inA 0x1E 5 6 7) =
      [some (.atomAdd 5 6 7), some (.atomMin 5 6 7), some (.atomMax 5 6 7), some (.atomAnd 5 6 7), some (.atomOr 5 6 7), some (.atomXor 5 6 7), some (.atomXchg 5 6 7), some (.atomIncw 5 6 7)] := by decide
/-- R107, R109. -/
theorem test_words_1F :
    [reads (inA 0x1F 4 6 8 0), reads (inA 0x1F 4 6 8 1), reads (inA 0x1F 4 6 8 2), reads (inA 0x1F 0 6 8 3), reads (inA 0x1F 0 6 8 4),
      reads (inA 0x1F 4 6 8 5), reads (inA 0x1F 0 6 8 6), reads (inA 0x1F 0 6 8 7)] =
      [some (.cas 4 6 8), some (.casD 4 6 8), some (.casQ 4 6 8), some (.redAdd 6 8), some (.redFadd 6 8), some (.atomFadd 4 6 8), some (.redMin 6 8), some (.redMax 6 8)] := by decide
/-- R134: the function in POL. -/
theorem test_words_20 :
    [reads (inM 0x20 4 6 9 0 1), reads (inM 0x20 4 6 9 1 3), reads (inM 0x20 4 6 9 2 0), reads (inM 0x20 4 6 9 3 0)] =
      [some (.ldSp 4 6 9 1), some (.stSp 4 6 9 3), some (.ldSpQ 4 6 9), some (.stSpQ 4 6 9)] := by decide
/-- R113, R114. -/
theorem test_words_21 :
    [reads (inA 0x21 0 0 0 0), reads (inA 0x21 0 0 0 1), reads (inA 0x21 0 0 0 2), reads (inA 0x21 0 0 0 3), reads (inA 0x21 0 6 0 4),
      reads (inA 0x21 0 6 0 5), reads (inA 0x21 2 6 0 6), reads (inA 0x21 5 6 0 7)] =
      [some .fence, some .fenceE, some .fenceH, some .fenceSw, some (.cinv 6), some (.cwb 6), some (.prefetch 2 6), some (.leaseRenew 5 6)] := by decide
/-- R141, R143, R145. -/
theorem test_words_22 :
    [reads (inA 0x22 5 8 6 0), reads (inA 0x22 5 8 6 1), reads (inA 0x22 5 8 6 2), reads (inA 0x22 5 8 6 3), reads (inA 0x22 5 8 6 4),
      reads (inA 0x22 5 8 0 5), reads (inA 0x22 5 8 0 6), reads (inA 0x22 5 8 6 7)] =
      [some (.cpG2s 5 8 6), some (.cpS2g 5 8 6), some (.cpG2g 5 8 6), some (.cpGather 5 8 6), some (.cpScatter 5 8 6), some (.cpWait 5 8), some (.cpPoll 5 8), some (.cpQueue 5 8 6)] := by decide
/-- R145 to R148. -/
theorem test_words_23 :
    [reads (inA 0x23 5 6 7 0), reads (inA 0x23 5 6 7 1), reads (inA 0x23 5 0 0 2), reads (inA 0x23 5 6 7 3)] =
      [some (.binCount 5 6 7), some (.binPatch 5 6 7), some (.engRelease 5), some (.binRead 5 6 7)] := by decide
/-- R70 to R72. -/
theorem test_words_24 :
    [reads (inA 0x24 5 6 0 0), reads (inA 0x24 0 6 0 1), reads (inA 0x24 5 6 7 2), reads (inA 0x24 5 6 0 3), reads (inA 0x24 5 6 7 4),
      reads (inA 0x24 5 6 0 5)] =
      [some (.swpReg 5 6), some (.swpUnreg 6), some (.swpPos 5 6 7), some (.swpWait 5 6), some (.swpQueue 5 6 7), some (.swpStat 5 6)] := by decide
/-- R83, R84. -/
theorem test_words_25 :
    [reads (inA 0x25 5 6 7 0), reads (inA 0x25 5 6 0 1), reads (inA 0x25 5 6 7 2), reads (inA 0x25 5 6 7 3), reads (inA 0x25 5 6 7 4),
      reads (inA 0x25 5 6 0 5)] =
      [some (.bankTbl 5 6 7), some (.bankLut 5 6), some (.bankBcast 5 6 7), some (.bankRed 5 6 7), some (.bankSync 5 6 7), some (.bankClr 5 6)] := by decide
/-- R303. -/
theorem test_words_26 :
    [reads (inA 0x26 5 6 7 0), reads (inA 0x26 5 6 7 1), reads (inA 0x26 5 6 7 2), reads (inA 0x26 5 6 7 3), reads (inA 0x26 0 0 0 4),
      reads (inA 0x26 5 6 0 5), reads (inA 0x26 0 6 0 6)] =
      [some (.waitEq 5 6 7), some (.waitNe 5 6 7), some (.waitGeu 5 6 7), some (.waitMask 5 6 7), some .yield, some (.sleep 5 6), some (.wake 6)] := by decide
/-- R309: six bits name a barrier. -/
theorem test_words_27 :
    [reads (inA 0x27 0 63 7 0), reads (inA 0x27 5 63 0 1), reads (inA 0x27 0 63 7 2), reads (inA 0x27 0 63 0 3), reads (inA 0x27 5 63 0 4),
      reads (inA 0x27 0 63 0 5), reads (inA 0x27 5 63 7 6)] =
      [some (.barInit 63 7), some (.barArrive 5 63), some (.barWait 63 7), some (.barSync 63), some (.barArriveT 5 63), some (.barSyncT 63), some (.barTest 5 63 7)] := by decide
/-- R269. -/
theorem test_words_28_2A :
    [reads (inB 0x28 1 5 0x2AAAA 1), reads (inB 0x2A 0 3 0x15555 2)] =
      [some (.br 1 5 0x2AAAA 1), some (.call 0 3 0x15555 2)] := by decide
/-- R272. -/
theorem test_words_29 :
    [reads (inA 0x29 0 6 0 0), reads (inA 0x29 0 6 0 1), reads (inA 0x29 0 0 0 2), reads (inA 0x29 0 6 7 3)] =
      [some (.jmpr 6), some (.callr 6), some .ret, some (.brx 6 7)] := by decide
/-- R275 to R279, R289, R293. -/
theorem test_words_2B :
    [reads (inA 0x2B 0 0 0 0), reads (inA 0x2B 5 6 0 1), reads (inA 0x2B 0 6 8 2), reads (inA 0x2B 0 6 8 3), reads (inA 0x2B 4 6 0 4)] =
      [some .exit, some (.exitNext 5 6), some (.spawn 6 8), some (.launch 6 8), some (.result 4 6)] := by decide
/-- R158, R334 to R336. -/
theorem test_words_2C_2D :
    [reads (inA 0x2C 5 6 7 0), reads (inA 0x2D 0 6 7 0), reads (inA 0x2D 5 6 0 1), reads (inA 0x2D 0 6 7 2), reads (inA 0x2D 4 0 0 3),
      reads (inA 0x2D 4 0 0 4), reads (inA 0x2D 4 0 2 5), reads (inA 0x2D 0 0 0 6), reads (inA 0x2D 0 6 0 7)] =
      [some (.region 5 6 7), some (.trap 6 7), some (.trapIf 5 6), some (.brk 6 7), some (.rdtime 4), some (.rdclk 4), some (.trapinfo 4 2), some .eret, some (.halt 6)] := by decide
/-- R255 to R258: N - 1 in B [6:3], P in B [2:0]. -/
theorem test_words_2E :
    [reads (inA 0x2E 0 8 0 0), reads (inA 0x2E 5 0 0 1), reads (inA 0x2E 5 6 (9 * 8 + 3) 2), reads (inA 0x2E 0 6 3 3), reads (inA 0x2E 0 0 0 4),
      reads (inA 0x2E 5 6 (9 * 8 + 3) 5), reads (inA 0x2E 0 6 7 6), reads (inA 0x2E 4 0 4 7)] =
      [some (.topen 8), some (.tclose 5), some (.trec 5 6 9 3), some (.tbr 6 3), some .trev, some (.tpop 5 6 9 3), some (.tmark 6 7), some (.tstat 4 4)] := by decide
/-- R206. -/
theorem test_words_2F :
    [reads (inA 0x2F 5 6 0 0), reads (inA 0x2F 0 6 0 1), reads (inA 0x2F 5 6 0 2), reads (inA 0x2F 5 6 0 4), reads (inA 0x2F 4 6 0 5)] =
      [some (.tres 5 6), some (.trel 6), some (.tld 5 6), some (.tscale 5 6), some (.tinfo 4 6)] := by decide
/-- R209, R212, R213, R219, R231: COLQ in B [2:1], the slot in B [0]. -/
theorem test_words_30 :
    [reads (inA 0x30 1 6 7 0), reads (inA 0x30 3 6 5 1), reads (inA 0x30 2 6 5 2), reads (inA 0x30 3 6 6 3), reads (inA 0x30 2 6 3 4),
      reads (inA 0x30 3 0 0 5), reads (inA 0x30 5 6 1 6), reads (inA 0x30 0 3 0 7)] =
      [some (.mload 1 6 7), some (.mma 3 6 2 1), some (.mmaPair 2 6 2 1), some (.mmag 3 6 3 0), some (.mmagPair 2 6 1 1), some (.mzero 3), some (.mgemm 5 6 1), some (.mwait 3)] := by decide
/-- R209, R217, R224, R225, R227. -/
theorem test_words_31 :
    [reads (inA 0x31 3 0 0 0), reads (inA 0x31 3 0 0 1), reads (inA 0x31 8 3 16 2), reads (inA 0x31 0 3 16 3), reads (inA 0x31 3 6 7 4),
      reads (inA 0x31 1 6 0 5)] =
      [some (.mbegin 3), some (.mend 3), some (.mdrain 8 3 16), some (.mst 3 16), some (.mact 3 6 7), some (.mloadg 1 6)] := by decide
/-- R239. -/
theorem test_words_32 :
    [reads (inA 0x32 5 6 0 0), reads (inA 0x32 5 6 0 1), reads (inA 0x32 4 6 8 2), reads (inA 0x32 5 6 0 3)] =
      [some (.gset 5 6), some (.gseed 5 6), some (.gread 4 6 8), some (.gscope 5 6)] := by decide

/-- R19 to R22: extension words, OP 0x3F with CH set, the kind in [23:22]. -/
theorem test_words_extensions :
    decode (0b10#2 ++ 0x3F#6 ++ 0#2 ++ 0x2AAAAA#22) = .ok ⟨true, false, .immext 0x2AAAAA⟩ ∧
    decode (0b10#2 ++ 0x3F#6 ++ 1#2 ++ 1#1 ++ 0#1 ++ 5#3 ++ 3#3 ++ 2#2 ++ 1#1 ++ 0#1 ++ 3#2 ++ 4#3 ++ 0#5) =
      .ok ⟨true, false, .qual 1 0 5 3 2 1 0 3 4⟩ ∧
    decode (0b10#2 ++ 0x3F#6 ++ 2#2 ++ 9#7 ++ 0#7 ++ 0x42#8) = .ok ⟨true, false, .regext 9 0 0x42⟩ := by decide

/-- R9, R16: CH and SW stand in bits 31 and 30, whatever the instruction. -/
theorem test_words_ch_sw : decode 0x420A047F = .ok ⟨false, true, .addi 5 1 (-1)⟩ ∧ decode 0x81060410 = .ok ⟨true, false, .add 3 1 2⟩ := by
  decide

/-- Words that the spec works out in its chapters. -/
theorem test_words_worked : [reads 0x01080412, reads 0x03060828, reads 0x09020800, reads 0x0A040406, reads 0x11060415, reads 0x1628202C,
      reads 0x160E0405, reads 0x161C28AA, reads 0x16041407, reads 0x17142007, reads 0x2018181C, reads 0x21041806] =
    [some (.addc 4 1 2), some (.mulLo 3 2 5), some (.cmpEqImm 1 2 0), some (.voteAny 2 1), some (.fclass 3 1 2), some (.rdlane 20 8 5),
      some (.ballot 7 1), some (.shflDn 14 10 21), some (.ptab 2 5), some (.scanFadd 10 8), some (.stSpQ 12 6 1), some (.prefetch 2 6)] := by
  decide
theorem test_words_worked_engines : [reads 0x222A5005, reads 0x2A200004, reads 0x2E10784D, reads 0x2E280017, reads 0x2E007C0B,
      reads 0x2F025800, reads 0x30000803, reads 0x30000007] =
    [some (.cpWait 21 20), some (.call 0 2 1 0), some (.tpop 8 30 1 1), some (.tstat 20 2), some (.tbr 31 1), some (.tres 1 22),
      some (.mmag 0 2 0 0), some (.mwait 0)] := by decide

/-- R26: reserved opcodes and functions, and nonzero unused fields, are no instruction. -/
theorem test_words_reserved : [reads (inA 0x33 0 0 0 0), reads (inA 0x04 0 0 0 7), reads (inA 0x04 4 2 1 6), reads (inA 0x00 4 0 2 4),
      reads (inA 0x0F 5 6 7 4), reads (inA 0x2F 5 6 0 3), reads (inA 0x08 8 6 7 0)] =
    [none, none, none, none, none, none, none] := by decide

/-- R7: a word's bytes lie little-endian, and a decoded word leaves the bytes that follow it. -/
theorem test_bytes_little_endian : decodeBytes [0x10, 0x04, 0x06, 0x01, 0xAA] = some (.ok ⟨false, false, .add 3 1 2⟩, [0xAA]) := by decide

/-- The encoder gives the spec's words. -/
theorem test_encode : encode ⟨false, false, .add 3 1 2⟩ = some 0x01060410 ∧ encode ⟨false, true, .addi 5 1 (-1)⟩ = some 0x420A047F ∧
    encode ⟨false, false, .cvt 2 1 5 0 0⟩ = some 0x13040540 ∧ encode ⟨false, false, .gread 10 2 12⟩ = some 0x32140862 := by decide

end Sys2Proof.Tests
end

section
/-!
SUPPORT. The words of the lane arithmetic chapter (10_lane_arithmetic.md): the fields of a built word, and what its instruction's
pipe and legality follow from.
-/

namespace Sys2Proof.LaneArithmetic
open Sys2Proof Sys2Proof.Machine Sys2Proof.Claims

/-! ### The fields of a built word (R9, R16) -/

section
variable (op : BitVec 6) (d a b : BitVec 7) (fn : BitVec 3) (l : BitVec 17)

@[simp] theorem fCh_formatA : fCh (formatA op d a b fn) = false := by
  simp only [fCh, formatA, BitVec.getLsbD_append]; rfl

@[simp] theorem fSw_formatA : fSw (formatA op d a b fn) = false := by
  simp only [fSw, formatA, BitVec.getLsbD_append]; rfl

@[simp] theorem fOp_formatA : fOp (formatA op d a b fn) = op := by
  simp (disch := decide) only [fOp, formatA, BitVec.extractLsb'_append_eq_of_le]
  exact BitVec.extractLsb'_append_eq_right

@[simp] theorem fD_formatA : fD (formatA op d a b fn) = d := by
  simp (disch := decide) only [fD, formatA, BitVec.extractLsb'_append_eq_of_le]
  exact BitVec.extractLsb'_append_eq_right

@[simp] theorem fA_formatA : fA (formatA op d a b fn) = a := by
  simp (disch := decide) only [fA, formatA, BitVec.extractLsb'_append_eq_of_le]
  exact BitVec.extractLsb'_append_eq_right

@[simp] theorem fB_formatA : fB (formatA op d a b fn) = b := by
  simp (disch := decide) only [fB, formatA, BitVec.extractLsb'_append_eq_of_le]
  exact BitVec.extractLsb'_append_eq_right

@[simp] theorem fFn_formatA : fFn (formatA op d a b fn) = fn := BitVec.extractLsb'_append_eq_right

/-- A word of format I is one of format A whose B and FN fields hold its FN and its immediate. -/
theorem formatI_eq_formatA : formatI op d a fn b = formatA op d a (fn ++ b.extractLsb' 3 4) (b.extractLsb' 0 3) := by
  unfold formatI formatA; grind

@[simp] theorem fCh_formatI : fCh (formatI op d a fn b) = false := by rw [formatI_eq_formatA, fCh_formatA]
@[simp] theorem fSw_formatI : fSw (formatI op d a fn b) = false := by rw [formatI_eq_formatA, fSw_formatA]
@[simp] theorem fOp_formatI : fOp (formatI op d a fn b) = op := by rw [formatI_eq_formatA, fOp_formatA]
@[simp] theorem fD_formatI : fD (formatI op d a fn b) = d := by rw [formatI_eq_formatA, fD_formatA]
@[simp] theorem fA_formatI : fA (formatI op d a fn b) = a := by rw [formatI_eq_formatA, fA_formatA]

@[simp] theorem fFnI_formatI : fFnI (formatI op d a fn b) = fn := by
  simp (disch := decide) only [fFnI, formatI, BitVec.extractLsb'_append_eq_of_le]
  exact BitVec.extractLsb'_append_eq_right

@[simp] theorem fImm7_formatI : fImm7 (formatI op d a fn b) = b := BitVec.extractLsb'_append_eq_right

/-- A word of format L is one of format A whose A, B and FN fields hold its immediate. -/
theorem formatL_eq_formatA :
    0#2 ++ op ++ d ++ l = formatA op d (l.extractLsb' 10 7) (l.extractLsb' 3 7) (l.extractLsb' 0 3) := by
  unfold formatA; grind

theorem fImm17_formatL : fImm17 (0#2 ++ op ++ d ++ l) = l := BitVec.extractLsb'_append_eq_right

end

/-- A predicate's number fits a field of 7 bits, and is read back from it (R17). -/
@[simp] theorem predField_lt : ∀ p : BitVec 3, (0#4 ++ p).toNat < 8 := by decide

@[simp] theorem setWidth_predField : ∀ p : BitVec 3, (0#4 ++ p).setWidth 3 = p := by decide

/-! ### Pipe and legality -/

/-- An instruction issues to V and its entry lists no RM, whatever its extension words (R12, R21). -/
def PlainV (i : Instr) : Prop := ∀ x, (sigOf x i).pipe = .v ∧ (sigOf x i).rm = false

theorem PlainV.noRm {i : Instr} (h : PlainV i) : NoRm i := by
  intro x k th hq hr
  have hrm : (sigOf x i).rm = false := (h x).2
  simp [legal, Ext.qualOk, hq, hr, hrm]

theorem PlainV.isV {w : BitVec 32} {i : Instr} (h : PlainV i) (hc : fCh w = false) (hs : fSw w = false)
    (hi : decodeInstr w = .ok i) : IsV w i :=
  ⟨by rw [decode, hi, hc, hs], fun x => (h x).1⟩

/-- Every word of OP 0x01 to 0x0D issues to V and accepts no rounding mode (R174 to R184). -/
theorem plainV_of_decodeInstr {w : BitVec 32} {i : Instr} (h1 : 1 ≤ (fOp w).toNat) (h2 : (fOp w).toNat ≤ 13)
    (h : decodeInstr w = .ok i) : PlainV i := by
  unfold decodeInstr at h
  generalize (fOp w).toNat = n at h1 h2 h
  interval_cases n
  all_goals
    simp only [decOp01, decOp02, decOp03, decOp04, decOp05, decOp06, decOp07, decOp08, decOp09, decOp0A, decOp0B, decOp0C,
      decOp0D, zeroed] at h
    repeat' split at h
    all_goals cases h
    all_goals exact fun _ => ⟨rfl, rfl⟩

/-- UA and UB are refused where fields A and B name no vector register (R21). -/
theorem noUniform_of_sig {i : Instr} (h : ∀ x, (sigOf x i).a.isV = false ∧ (sigOf x i).b.isV = false) : NoUniform i := by
  intro x k th hq hu
  obtain ⟨ha, hb⟩ := h x
  rcases hu with hu | hu
  · simp [legal, Ext.qualOk, hq, hu, ha]
  · simp [legal, Ext.qualOk, hq, hu, hb]

theorem neverLegal_of_d {i : Instr} (h : ∀ x k, (sigOf x i).d.ok k false = false) : NeverLegal i := by
  intro x k th
  simp [legal, h x k]

theorem neverLegal_of_a {i : Instr} (h : ∀ x k asK, (sigOf x i).a.ok k asK = false) : NeverLegal i := by
  intro x k th
  simp [legal, h x k]

/-- A pair's field that names an odd register is refused, as a vector and as a uniform register (R17). -/
theorem ok_odd_pair {n : BitVec 7} (h : n.toNat % 2 = 1) (rd wr : Bool) (k : Kernel) (asK : Bool) :
    (Fld.mk (.v 2 2) n.toNat rd wr).ok k asK = false := by
  cases asK <;> simp [Fld.ok, h]

theorem zeroed_eq_ok (w : BitVec 32) (c : Bool) (i j : Instr) : zeroed w c i = .ok j ↔ c = true ∧ i = j := by
  cases c <;> simp [zeroed]

theorem isIllegal_of_not_ok {w : BitVec 32} (h : ∀ i, decodeInstr w ≠ .ok i) : IsIllegal w := by
  cases hd : decodeInstr w with
  | ok i => exact absurd hd (h i)
  | error e => exact ⟨e, by rw [decode, hd]⟩

/-! ### Words of consecutive functions -/

/-- The instructions of a list are those of the words of consecutive functions, from a function on. -/
def Reads (is : List Instr) (word : BitVec 3 → BitVec 32) (n : Nat) : Prop :=
  ∀ k i, is[k]? = some i → decodeInstr (word (BitVec.ofNat 3 (n + k))) = .ok i

theorem reads_nil (word : BitVec 3 → BitVec 32) (n : Nat) : Reads [] word n := fun _ _ h => by cases h

theorem reads_cons (i : Instr) (is : List Instr) (word : BitVec 3 → BitVec 32) (n : Nat) :
    Reads (i :: is) word n ↔ decodeInstr (word (BitVec.ofNat 3 n)) = .ok i ∧ Reads is word (n + 1) := by
  constructor
  · intro h
    refine ⟨h 0 i rfl, fun k j hj => ?_⟩
    rw [Nat.add_right_comm, Nat.add_assoc]
    exact h (k + 1) j hj
  · rintro ⟨hi, his⟩ (_ | k) j hj
    · cases hj; exact hi
    · have := his k j hj
      rwa [Nat.add_right_comm, Nat.add_assoc] at this

/-- A list of words of one major opcode from 0x01 to 0x0D is encoded as soon as it decodes. -/
theorem encodes_of_reads {is : List Instr} {word : BitVec 3 → BitVec 32} {n : Nat} {op : BitVec 6}
    (hw : ∀ fn, fOp (word fn) = op ∧ fCh (word fn) = false ∧ fSw (word fn) = false) (h1 : 1 ≤ op.toNat) (h2 : op.toNat ≤ 13)
    (h : Reads is word n) : Encodes is word n := by
  intro k i hi
  have hd := h k i hi
  obtain ⟨ho, hc, hs⟩ := hw (BitVec.ofNat 3 (n + k))
  have hp := plainV_of_decodeInstr (ho ▸ h1) (ho ▸ h2) hd
  exact ⟨hp.isV hc hs hd, hp.noRm⟩

section
variable {is : List Instr} {op : BitVec 6} {d a b : BitVec 7} {n : Nat}

theorem encodes_formatA (h : Reads is (formatA op d a b) n) (h1 : 1 ≤ op.toNat := by decide) (h2 : op.toNat ≤ 13 := by decide) :
    Encodes is (formatA op d a b) n :=
  encodes_of_reads (by simp) h1 h2 h

theorem encodes_formatI (h : Reads is (fun fn => formatI op d a fn b) n) (h1 : 1 ≤ op.toNat := by decide)
    (h2 : op.toNat ≤ 13 := by decide) : Encodes is (fun fn => formatI op d a fn b) n :=
  encodes_of_reads (by simp) h1 h2 h

theorem isV_formatA {fn : BitVec 3} {i : Instr} (h : decodeInstr (formatA op d a b fn) = .ok i) (h1 : 1 ≤ op.toNat := by decide)
    (h2 : op.toNat ≤ 13 := by decide) : IsV (formatA op d a b fn) i :=
  (plainV_of_decodeInstr (by simpa) (by simpa) h).isV (by simp) (by simp) h

end

/-! ### The words of each opcode (R26) -/

section
variable (d a b : BitVec 7)

theorem reads_addWords : Reads ((addWords d a b).map (·.1)) (formatA 0x01 d a b) 0 := by
  simp [addWords, reads_cons, reads_nil, decodeInstr, decOp01]

theorem reads_withImmediate : Reads ((withImmediate d a b).map (·.1)) (fun fn => formatI 0x02 d a fn b) 0 := by
  simp [withImmediate, reads_cons, reads_nil, decodeInstr, decOp02]

theorem reads_multiplyWords : Reads ((multiplyWords d a b).map (·.1)) (formatA 0x03 d a b) 0 := by
  simp [multiplyWords, reads_cons, reads_nil, decodeInstr, decOp03]

theorem reads_logicWords : Reads ((logicWords d a b).map (·.1)) (formatA 0x04 d a b) 0 := by
  simp [logicWords, reads_cons, reads_nil, decodeInstr, decOp04]

theorem decodeInstr_not : decodeInstr (formatA 0x04 d a 0 6) = .ok (.not d a) := by
  simp [decodeInstr, decOp04, zeroed]

theorem isIllegal_not {b : BitVec 7} (hb : b ≠ 0) : IsIllegal (formatA 0x04 d a b 6) :=
  isIllegal_of_not_ok fun i => by
    simp [decodeInstr, decOp04, zeroed_eq_ok]
    exact fun h => absurd h hb

theorem isIllegal_logic_reserved : IsIllegal (formatA 0x04 d a b 7) :=
  isIllegal_of_not_ok fun i => by simp [decodeInstr, decOp04]

theorem reads_shiftWords : Reads ((shiftWords d a b).map (·.1)) (formatA 0x05 d a b) 0 := by
  simp [shiftWords, reads_cons, reads_nil, decodeInstr, decOp05]

theorem reads_pairShifts : Reads ((pairShifts d a b).map (·.1)) (formatA 0x05 d a b) 5 := by
  simp [pairShifts, reads_cons, reads_nil, decodeInstr, decOp05]

theorem reads_shiftWords_imm : Reads ((shiftWords d a b).map (·.2.1)) (fun fn => formatI 0x06 d a fn b) 0 := by
  simp [shiftWords, reads_cons, reads_nil, decodeInstr, decOp06]

theorem reads_pairShifts_imm : Reads ((pairShifts d a b).map (·.2.1)) (fun fn => formatI 0x06 d a fn b) 5 := by
  simp [pairShifts, reads_cons, reads_nil, decodeInstr, decOp06]

theorem reads_bitCounts : Reads (((bitWords d a b).take 4).map (·.1)) (formatA 0x07 d a 0) 0 := by
  simp [bitWords, reads_cons, reads_nil, decodeInstr, decOp07, zeroed]

theorem reads_bitFields : Reads (((bitWords d a b).drop 4).map (·.1)) (formatA 0x07 d a b) 4 := by
  simp [bitWords, reads_cons, reads_nil, decodeInstr, decOp07]

theorem reads_conditions (d : BitVec 3) :
    Reads (conditions.map fun c => c.1 d a b) (formatA 0x08 (0#4 ++ d) a b) 0 := by
  simp [conditions, reads_cons, reads_nil, decodeInstr, decOp08, zeroed]

theorem reads_conditions_imm (d : BitVec 3) :
    Reads (conditions.map fun c => c.2.1 d a b) (fun fn => formatI 0x09 (0#4 ++ d) a fn b) 0 := by
  simp [conditions, reads_cons, reads_nil, decodeInstr, decOp09, zeroed]

theorem decodeInstr_vset (v : BitVec 7) (a : BitVec 3) : decodeInstr (formatA 0x0A v (0#4 ++ a) 0 5) = .ok (.vset v a) := by
  simp [decodeInstr, decOp0A, zeroed]

theorem decodeInstr_predicateWords (s : State) (d a b : BitVec 3) : ∀ w ∈ predicateWords s d a b, w.1.toNat < 3 ∨ b = 0 →
    decodeInstr (formatA 0x0A (0#4 ++ d) (0#4 ++ a) (0#4 ++ b) w.1) = .ok w.2.1 := by
  simp +contextual [predicateWords, decodeInstr, decOp0A, zeroed]

theorem decodeInstr_sel (p : BitVec 3) : decodeInstr (formatA 0x0B d a b p) = .ok (.sel d a b p) := by
  simp [decodeInstr, decOp0B]

theorem reads_addressWords : Reads ((addressWords d a b).map (·.1)) (formatA 0x0C d a b) 0 := by
  simp [addressWords, reads_cons, reads_nil, decodeInstr, decOp0C]

theorem isV_movi (l : BitVec 17) : IsV (0#2 ++ 0x0D#6 ++ d ++ l) (.movi d l) := by
  have hd : decodeInstr (0#2 ++ 0x0D#6 ++ d ++ l) = .ok (.movi d l) := by
    have hD : fD (0#2 ++ 0x0D#6 ++ d ++ l) = d := by rw [formatL_eq_formatA, fD_formatA]
    have hop : fOp (0#2 ++ 0x0D#6 ++ d ++ l) = 0x0D#6 := by rw [formatL_eq_formatA, fOp_formatA]
    rw [decodeInstr, hop, decOp0D]
    exact congrArg₂ (fun d l => Except.ok (Instr.movi d l)) hD (fImm17_formatL _ _ _)
  have hp : PlainV (.movi d l) := fun _ => ⟨rfl, rfl⟩
  exact hp.isV (by rw [formatL_eq_formatA, fCh_formatA]) (by rw [formatL_eq_formatA, fSw_formatA]) hd

/-- What a compare asks of its fields: D names a predicate, and function 7 is reserved (R180). -/
theorem compare_fields {fn : BitVec 3} {i : Instr} (h : decodeInstr (formatA 0x08 d a b fn) = .ok i) :
    d.toNat < 8 ∧ fn.toNat ≠ 7 := by
  simp only [decodeInstr, fOp_formatA, decOp08, fFn_formatA, fD_formatA, BitVec.reduceToNat] at h
  split at h
  all_goals simp only [zeroed_eq_ok, decide_eq_true_eq, reduceCtorEq] at h
  all_goals omega

theorem compareImm_fields {fn : BitVec 3} {i : Instr} (h : decodeInstr (formatI 0x09 d a fn b) = .ok i) :
    d.toNat < 8 ∧ fn.toNat ≠ 7 := by
  simp only [decodeInstr, fOp_formatI, decOp09, fFnI_formatI, fD_formatI, BitVec.reduceToNat] at h
  split at h
  all_goals simp only [zeroed_eq_ok, decide_eq_true_eq, reduceCtorEq] at h
  all_goals omega

theorem isIllegal_compare {fn : BitVec 3} (h : 8 ≤ d.toNat ∨ fn = 7) :
    IsIllegal (formatA 0x08 d a b fn) ∧ IsIllegal (formatI 0x09 d a fn b) := by
  have hn : ¬ (d.toNat < 8 ∧ fn.toNat ≠ 7) := by
    simp only [BitVec.toNat_eq, BitVec.ofNat_eq_ofNat, BitVec.reduceToNat] at h
    omega
  exact ⟨isIllegal_of_not_ok fun i hi => hn (compare_fields d a b hi), isIllegal_of_not_ok fun i hi => hn (compareImm_fields d a b hi)⟩

/-- What a word of OP 0x0A asks of its fields: predicates where its function takes them, and zero in an unused B (R181). -/
theorem predicateWord_fields {fn : BitVec 3} {i : Instr} (h : decodeInstr (formatA 0x0A d a b fn) = .ok i) :
    (fn.toNat = 5 ∨ d.toNat < 8) ∧ a.toNat < 8 ∧ b.toNat < 8 ∧ (fn.toNat < 3 ∨ b.toNat = 0) := by
  simp only [decodeInstr, fOp_formatA, decOp0A, fFn_formatA, fD_formatA, fA_formatA, fB_formatA, BitVec.reduceToNat] at h
  split at h
  all_goals
    simp only [zeroed_eq_ok, Bool.and_eq_true, decide_eq_true_eq, beq_iff_eq, BitVec.toNat_eq, BitVec.ofNat_eq_ofNat, BitVec.reduceToNat,
      reduceCtorEq] at h
  all_goals omega

theorem isIllegal_predicateWord {fn : BitVec 3}
    (h : (fn ≠ 5 ∧ 8 ≤ d.toNat) ∨ 8 ≤ a.toNat ∨ 8 ≤ b.toNat ∨ (3 ≤ fn.toNat ∧ b ≠ 0)) : IsIllegal (formatA 0x0A d a b fn) := by
  refine isIllegal_of_not_ok fun i hi => ?_
  have hf := predicateWord_fields d a b hi
  simp only [ne_eq, BitVec.toNat_eq, BitVec.ofNat_eq_ofNat, BitVec.reduceToNat] at h
  omega

end

end Sys2Proof.LaneArithmetic
end

section
/-!
SUPPORT. The model's operations on words and pairs as the numbers that the rules give: sums, products, shifts, bit counts, bit fields and
immediates (R174 to R184).
-/

namespace Sys2Proof.LaneArithmetic
open Sys2Proof Sys2Proof.Machine Sys2Proof.Claims

/-! ### Words as numbers -/

@[simp] theorem cut_toInt (x : Word) : cut x.toInt = x := BitVec.ofInt_toInt
@[simp] theorem cut_natCast (n : Nat) : cut n = BitVec.ofNat 32 n := BitVec.ofInt_natCast 32 n
theorem cut_add (m n : Int) : cut (m + n) = cut m + cut n := BitVec.ofInt_add m n
theorem cut_mul (m n : Int) : cut (m * n) = cut m * cut n := BitVec.ofInt_mul m n
theorem ofInt_sub (w : Nat) (m n : Int) : BitVec.ofInt w (m - n) = BitVec.ofInt w m - BitVec.ofInt w n := by
  rw [Int.sub_eq_add_neg, BitVec.ofInt_add, BitVec.ofInt_neg, BitVec.sub_eq_add_neg]
theorem cut_sub (m n : Int) : cut (m - n) = cut m - cut n := ofInt_sub 32 m n

/-! ### Immediates (R20) -/

/-- The sign-extended immediate is the immediate's number cut to 32 bits. -/
theorem cut_immValue (s : State) (i : BitVec 7) : cut (immValue s i) = s.immI i := by
  unfold immValue State.immI
  cases s.sh.ext.imm <;> rfl

theorem toInt_immI (s : State) (i : BitVec 7) : (s.immI i).toInt = immValue s i := by
  unfold immValue State.immI
  cases s.sh.ext.imm <;> exact BitVec.toInt_signExtend_of_le (by decide)

/-! ### Truth values and sums -/

theorem boolWord_decide (p : Prop) [Decidable p] : boolWord (decide p) = if p then 1 else 0 := by
  by_cases h : p <;> simp [boolWord, h]

theorem ofNat_add_toNat {w : Nat} (x y : BitVec w) : BitVec.ofNat w (x.toNat + y.toNat) = x + y := by
  rw [BitVec.ofNat_add, BitVec.ofNat_toNat, BitVec.ofNat_toNat, BitVec.setWidth_eq, BitVec.setWidth_eq]

/-! ### Minima and maxima (R174) -/

theorem smin_eq (x y : Word) : smin x y = cut (min x.toInt y.toInt) := by
  unfold smin BitVec.slt
  by_cases h : x.toInt < y.toInt
  · rw [min_eq_left h.le, cut_toInt]; simp [h]
  · rw [min_eq_right (not_lt.mp h), cut_toInt]; simp [h]

theorem smax_eq (x y : Word) : smax x y = cut (max x.toInt y.toInt) := by
  unfold smax BitVec.slt
  by_cases h : x.toInt < y.toInt
  · rw [max_eq_right h.le, cut_toInt]; simp [h]
  · rw [max_eq_left (not_lt.mp h), cut_toInt]; simp [h]

theorem umin_eq (x y : Word) : umin x y = BitVec.ofNat 32 (min x.toNat y.toNat) := by
  unfold umin BitVec.ult
  by_cases h : x.toNat < y.toNat
  · rw [min_eq_left h.le]; simp [h]
  · rw [min_eq_right (not_lt.mp h)]; simp [h]

theorem umax_eq (x y : Word) : umax x y = BitVec.ofNat 32 (max x.toNat y.toNat) := by
  unfold umax BitVec.ult
  by_cases h : x.toNat < y.toNat
  · rw [max_eq_right h.le]; simp [h]
  · rw [max_eq_left (not_lt.mp h)]; simp [h]

/-! ### Products and quotients (R175, R176) -/

theorem sprod_eq (x y : Word) : sprod x y = BitVec.ofInt 64 (x.toInt * y.toInt) := (BitVec.ofInt_mul _ _).symm

theorem uprod_eq (x y : Word) : uprod x y = BitVec.ofInt 64 (x.toNat * y.toNat : Nat) := by
  rw [BitVec.ofInt_natCast, BitVec.ofNat_mul, uprod, BitVec.ofNat_toNat, BitVec.ofNat_toNat]

/-- Bits [63:32] of a number cut to 64 bits are its floor quotient by 2^32, cut to 32 bits. -/
theorem high_ofInt (n : Int) : high (BitVec.ofInt 64 n) = cut (n / 2 ^ 32) := by
  apply BitVec.eq_of_toNat_eq
  simp only [high, cut, BitVec.toNat_setWidth, BitVec.toNat_ushiftRight, BitVec.toNat_ofInt, Nat.shiftRight_eq_div_pow]
  omega

theorem high_sprod (x y : Word) : high (sprod x y) = cut (x.toInt * y.toInt / 2 ^ 32) := by rw [sprod_eq, high_ofInt]

theorem high_uprod (x y : Word) : high (uprod x y) = BitVec.ofNat 32 (x.toNat * y.toNat / 2 ^ 32) := by
  rw [uprod_eq, high_ofInt, ← cut_natCast, Int.natCast_ediv]; rfl

/-- The signed quotient; the one overflow, −2^31 by −1, gives −2^31, which is 2^31 cut to 32 bits. -/
theorem sdivR_eq (x y : Word) : sdivR x y = if y = 0 then 0xFFFFFFFF else cut (x.toInt.tdiv y.toInt) := by
  unfold sdivR
  by_cases hy : y = 0
  · rw [if_pos hy, if_pos hy]
  · rw [if_neg hy, if_neg hy]
    split
    · next h => obtain ⟨rfl, rfl⟩ := h; decide
    · rfl

theorem sremR_eq (x y : Word) : sremR x y = if y = 0 then x else cut (x.toInt.tmod y.toInt) := by
  unfold sremR
  by_cases hy : y = 0
  · rw [if_pos hy, if_pos hy]
  · rw [if_neg hy, if_neg hy]
    split
    · next h => obtain ⟨rfl, rfl⟩ := h; decide
    · rfl

/-! ### Shifts (R178) -/

theorem shlN_eq (x : Word) (n : Nat) : shlN x n = if 32 ≤ n then 0 else BitVec.ofNat 32 (x.toNat * 2 ^ n) := by
  unfold shlN
  split
  · rfl
  · apply BitVec.eq_of_toNat_eq
    rw [BitVec.toNat_shiftLeft, BitVec.toNat_ofNat, Nat.shiftLeft_eq]

theorem shrN_eq {w : Nat} (x : BitVec w) (n : Nat) : shrN x n = BitVec.ofNat w (x.toNat / 2 ^ n) := by
  unfold shrN
  split
  · next h =>
    have : x.toNat / 2 ^ n = 0 := Nat.div_eq_of_lt (x.isLt.trans_le (Nat.pow_le_pow_right (by decide) h))
    rw [this]; rfl
  · apply BitVec.eq_of_toNat_eq
    rw [BitVec.toNat_ushiftRight, BitVec.toNat_ofNat, Nat.shiftRight_eq_div_pow,
      Nat.mod_eq_of_lt ((Nat.div_le_self _ _).trans_lt x.isLt)]

theorem sraN_eq {w : Nat} (hw : 0 < w) (x : BitVec w) (n : Nat) : sraN x n = BitVec.ofInt w (x.toInt / 2 ^ min n (w - 1)) := by
  have e : (if w ≤ n then w - 1 else n) = min n (w - 1) := by split <;> omega
  have d : x.toInt / 2 ^ min n (w - 1) = (x.sshiftRight (min n (w - 1))).toInt := by
    rw [BitVec.toInt_sshiftRight, Int.shiftRight_eq_div_pow, Nat.cast_pow, Nat.cast_ofNat]
  rw [sraN, e, d, BitVec.ofInt_toInt]

/-! ### Bit counts (R179) -/

/-- The leading zeros of a number below `2^k`. -/
theorem clzN_eq (x : Word) (k : Nat) (hx : x.toNat < 2 ^ k) : clzN x k = if x = 0 then k else k - 1 - x.toNat.log2 := by
  by_cases h0 : x = 0
  · subst h0
    rw [if_pos rfl]
    induction k with
    | zero => rfl
    | succ k ih => rw [clzN, ih (Nat.two_pow_pos k), if_neg (by simp), Nat.add_comm]
  · have hn : x.toNat ≠ 0 := by simpa [BitVec.toNat_eq] using h0
    rw [if_neg h0]
    induction k with
    | zero => rw [pow_zero] at hx; omega
    | succ k ih =>
      rw [clzN, BitVec.getLsbD]
      by_cases hk : x.toNat < 2 ^ k
      · have := (Nat.log2_lt hn).mpr hk
        rw [Nat.testBit_lt_two_pow hk, ih hk, if_neg Bool.false_ne_true]; omega
      · have hlog : x.toNat.log2 = k := (Nat.log2_eq_iff hn).mpr ⟨by omega, hx⟩
        have hbit : x.toNat.testBit k = true := hlog ▸ Nat.testBit_log2 hn
        rw [hbit, if_pos rfl]; omega

/-- The trailing zeros from bit `32 - k` on. -/
theorem ctzN_eq (x : Word) (k : Nat) (hk : k ≤ 32) :
    ctzN x k = ((List.range' (32 - k) k).findIdx? fun i => x.getLsbD i).getD k := by
  induction k with
  | zero => rfl
  | succ k ih =>
    have e : 32 - (k + 1) = 31 - k := by omega
    have e' : 31 - k + 1 = 32 - k := by omega
    rw [ctzN, e, List.range'_succ, List.findIdx?_cons, e', ih (by omega)]
    split
    · rfl
    · cases List.findIdx? (fun i => x.getLsbD i) (List.range' (32 - k) k) <;> simp <;> omega

theorem popcN_eq (x : Word) (k : Nat) : popcN x k = (List.range k).countP fun i => x.getLsbD i := by
  induction k with
  | zero => rfl
  | succ k ih => rw [popcN, ih, List.range_succ, List.countP_append, List.countP_singleton, Nat.add_comm]

theorem reverse_succ (k : Nat) (x : BitVec (k + 1)) : x.reverse = (x.setWidth k).reverse.concat x.msb := rfl

/-- The low `k` bits reversed stand at the top of the word. -/
theorem brevN_eq (x : Word) (k : Nat) (hk : k ≤ 32) : brevN x k = (x.setWidth k).reverse.toNat * 2 ^ (32 - k) := by
  induction k with
  | zero => rw [brevN, BitVec.eq_nil (BitVec.reverse _)]; rfl
  | succ k ih =>
    have e : 32 - k = (31 - k) + 1 := by omega
    have e' : 32 - (k + 1) = 31 - k := by omega
    have m : (x.setWidth (k + 1)).msb = x.getLsbD k := by simp [BitVec.msb_setWidth]
    have b : (if x.getLsbD k then 2 ^ (31 - k) else 0) = (x.getLsbD k).toNat * 2 ^ (31 - k) := by cases x.getLsbD k <;> simp
    rw [brevN, b, reverse_succ, BitVec.toNat_concat, m, BitVec.setWidth_setWidth_of_le _ (Nat.le_succ k), ih (by omega), e, e', pow_succ]
    ring

theorem ofNat_brevN (x : Word) : BitVec.ofNat 32 (brevN x 32) = x.reverse := by
  rw [brevN_eq x 32 le_rfl, Nat.sub_self, pow_zero, mul_one, BitVec.setWidth_eq, BitVec.ofNat_toNat, BitVec.setWidth_eq]

/-! ### Bit fields (R179) -/

theorem bfenR_eq (x y : Word) : bfenR x y = BitVec.ofNat 32 (fieldBits x y) := rfl

theorem bfeR_eq (x y : Word) : bfeR x y = if (fieldAt y).2 = 0 then 0 else
      if 2 ^ ((fieldAt y).2 - 1) ≤ fieldBits x y then cut ((fieldBits x y : Int) - 2 ^ (fieldAt y).2)
      else BitVec.ofNat 32 (fieldBits x y) := by
  have e : bfeR x y = if (fieldAt y).2 ≠ 0 ∧ 2 ^ ((fieldAt y).2 - 1) ≤ fieldBits x y then
      cut ((fieldBits x y : Int) - 2 ^ (fieldAt y).2) else BitVec.ofNat 32 (fieldBits x y) := rfl
  rw [e]
  by_cases h : (fieldAt y).2 = 0
  · simp [h, fieldBits, Nat.mod_one]
  · simp [h]

/-- The number whose bit `i` is `g i` for each `i` below `k`. -/
def bitSum (g : Nat → Bool) (k : Nat) : Nat := (List.range k).foldl (fun n i => n + if g i then 2 ^ i else 0) 0

theorem bitSum_succ (g : Nat → Bool) (k : Nat) : bitSum g (k + 1) = bitSum g k + if g k then 2 ^ k else 0 := by
  simp only [bitSum, List.range_succ, List.foldl_append, List.foldl_cons, List.foldl_nil]

theorem bitSum_lt (g : Nat → Bool) (k : Nat) : bitSum g k < 2 ^ k := by
  induction k with
  | zero => exact Nat.one_pos
  | succ k ih => rw [bitSum_succ, pow_succ]; split <;> omega

theorem testBit_bitSum (g : Nat → Bool) (k j : Nat) : (bitSum g k).testBit j = (decide (j < k) && g j) := by
  induction k with
  | zero => simp [bitSum]
  | succ k ih =>
    have hd : j ≠ k → decide (j < k + 1) = decide (j < k) := fun hj => decide_eq_decide.mpr (by omega)
    rw [bitSum_succ]
    cases hg : g k with
    | false =>
      rw [if_neg Bool.false_ne_true, Nat.add_zero, ih]
      by_cases hj : j = k
      · simp [hj, hg]
      · rw [hd hj]
    | true =>
      have e : bitSum g k + 2 ^ k = 2 ^ k * 1 ||| bitSum g k := by
        rw [← Nat.two_pow_add_eq_or_of_lt (bitSum_lt g k), mul_one, Nat.add_comm]
      rw [if_pos rfl, e, mul_one, Nat.testBit_or, Nat.testBit_two_pow, ih]
      by_cases hj : j = k
      · simp [hj, hg]
      · rw [hd hj, decide_eq_false (Ne.symm hj), Bool.false_or]

theorem getLsbD_fieldMask (p n i : Nat) (hi : i < 32) :
    (BitVec.ofNat 32 ((2 ^ n - 1) * 2 ^ p)).getLsbD i = decide (p ≤ i ∧ i < p + n) := by
  rw [BitVec.getLsbD_ofNat, Nat.testBit_mul_two_pow, Nat.testBit_two_pow_sub_one]
  simp only [hi, decide_true, Bool.true_and, ← Bool.decide_and, decide_eq_decide]
  omega

/-- Bit by bit: within the field the bit of A at the field's offset, elsewhere the bit of D. -/
theorem bfiR_eq (z x y : Word) : bfiR z x y = BitVec.ofNat 32 (bitSum (fun i =>
    if (fieldAt y).1 ≤ i ∧ i < (fieldAt y).1 + (fieldAt y).2 then x.getLsbD (i - (fieldAt y).1) else z.getLsbD i) 32) := by
  apply BitVec.eq_of_getLsbD_eq
  intro i hi
  rw [BitVec.getLsbD_ofNat, testBit_bitSum]
  have e : bfiR z x y = if (fieldAt y).2 = 0 then z else
      (z &&& ~~~(BitVec.ofNat 32 ((2 ^ (fieldAt y).2 - 1) * 2 ^ (fieldAt y).1))) |||
        (shlN x (fieldAt y).1 &&& BitVec.ofNat 32 ((2 ^ (fieldAt y).2 - 1) * 2 ^ (fieldAt y).1)) := rfl
  have hf : (fieldAt y).2 = 0 ∨ (fieldAt y).1 < 32 := by simp only [Claims.fieldAt]; omega
  rw [e]
  generalize (fieldAt y).1 = p at *
  generalize (fieldAt y).2 = n at *
  by_cases hn : n = 0
  · simp [hn, hi]
  · have hp : ¬ 32 ≤ p := by omega
    rw [if_neg hn, BitVec.getLsbD_or, BitVec.getLsbD_and, BitVec.getLsbD_and, BitVec.getLsbD_not, getLsbD_fieldMask _ _ _ hi, shlN,
      if_neg hp, BitVec.getLsbD_shiftLeft]
    by_cases hb : p ≤ i ∧ i < p + n
    · simp [hb, hi]
    · simp [hb, hi]

theorem sextR_eq (x y : Word) : sextR x y = cut ((BitVec.ofNat (y.toNat % 32 + 1) x.toNat).toInt) := by
  unfold sextR
  have hn : y.toNat % 32 < 32 := Nat.mod_lt _ (by decide)
  generalize y.toNat % 32 = n at hn
  have hs : cut ((BitVec.ofNat (n + 1) x.toNat).toInt) = (x.setWidth (n + 1)).signExtend 32 := by
    rw [BitVec.ofNat_toNat]; rfl
  have hw : ¬ 32 ≤ 31 - n := by omega
  rw [hs, sraN, shlN, if_neg hw, if_neg hw]
  apply BitVec.eq_of_getLsbD_eq
  intro i hi
  have hm : 31 - (31 - n) = n := by omega
  simp only [BitVec.getLsbD_sshiftRight, BitVec.getLsbD_signExtend, BitVec.getLsbD_shiftLeft, BitVec.msb_eq_getLsbD_last,
    BitVec.getLsbD_setWidth, hi]
  by_cases h : i < n + 1
  · have : 31 - n + i < 32 := by omega
    simp [h, hi, this]
  · have : ¬ 31 - n + i < 32 := by omega
    have hd : ¬ 31 < 31 - n := by omega
    simp [h, hi, this, hm, hd]

/-! ### `movi`'s immediate and pairs (R20, R183, R184) -/

theorem immL_eq (s : State) (l : BitVec 17) : s.immL l = cut (match s.sh.ext.imm with
      | none => l.toInt
      | some h => (h ++ l : BitVec 39).toInt) := by
  unfold State.immL
  cases s.sh.ext.imm with
  | none => rfl
  | some h => exact (BitVec.signExtend_eq_setWidth_of_le _ (by decide)).symm

theorem writePair_eq (d : BitVec 7) (x : DWord64) : writePair d.toNat x = pairWrites d x := by
  unfold writePair pairWrites
  rw [BitVec.ofNat_toNat]
  congr 4
  apply BitVec.eq_of_toNat_eq
  simp [Nat.shiftRight_eq_div_pow]

theorem leaR_eq (k : Nat) (x : DWord64) (y : Word) : leaR k x y = BitVec.ofInt 64 (x.toInt + y.toInt * k) := by
  rw [BitVec.ofInt_add, BitVec.ofInt_mul, BitVec.ofInt_toInt, BitVec.ofInt_natCast]; rfl

/-! ### Conditions and votes (R180, R181) -/

theorem icmp_ne_eq_decide (x y : Word) : ICmp.eval .ne x y = decide (x ≠ y) := by
  rw [ICmp.eval, bne, beq_eq_decide, decide_not]

theorem icmp_test_eq_decide (x y : Word) : ICmp.eval .test x y = decide (x &&& y ≠ 0) := by
  rw [ICmp.eval, bne, beq_eq_decide, decide_not]

theorem any_parts (s : State) (m : Lane) (p : Lane → Bool) :
    (s.parts m).any p = decide (∃ x ∈ participants s m, p x = true) := by
  rw [Bool.eq_iff_iff, List.any_eq_true, decide_eq_true_eq]; rfl

theorem all_parts (s : State) (m : Lane) (p : Lane → Bool) :
    (s.parts m).all p = decide (∀ x ∈ participants s m, p x = true) := by
  rw [Bool.eq_iff_iff, List.all_eq_true, decide_eq_true_eq]; rfl

end Sys2Proof.LaneArithmetic
end

section
/-!
PROOFS. The obligations of the lane arithmetic chapter: what each list of words gives the strands on which it acts, and the five statements.
-/

namespace Sys2Proof.LaneArithmetic
open Sys2Proof Sys2Proof.Machine Sys2Proof.Claims

/-! ### From the shape of an instruction to its results -/

section
variable {i : Instr} {s : State}

/-- An instruction that gives each active strand its results completes with them. -/
theorem completes_of_exec {g f : Lane → List RegWrite} (hs : s.Formed) (e : exec i s = .next (s.perLane g)) (h : ∀ m, g m = f m) :
    Completes i s fun t => s.Gives t f :=
  ⟨_, e, (funext h : g = f) ▸ State.perLane_gives hs g⟩

theorem resultIn_of_exec {d : BitVec 7} {g f : Lane → Word} (hs : s.Formed)
    (e : exec i s = .next (s.perLane fun m => [.v d.toNat (g m)])) (h : ∀ m, g m = f m) : ResultIn i s d f :=
  completes_of_exec hs e fun m => by rw [h m]

theorem predicate_of_exec {d : BitVec 3} {g f : Lane → Bool} (hs : s.Formed)
    (e : exec i s = .next (s.perLane fun m => [.p d.toNat (g m)])) (h : ∀ m, g m = f m) :
    Completes i s fun t => s.Gives t fun m => [.p d.toNat (f m)] :=
  completes_of_exec hs e fun m => by rw [h m]

theorem pairIn_of_exec {d : BitVec 7} {g f : Lane → DWord64} (hs : s.Formed)
    (e : exec i s = .next (s.perLane fun m => writePair d.toNat (g m))) (h : ∀ m, g m = f m) : PairIn i s d f :=
  completes_of_exec hs e fun m => by rw [h m, writePair_eq]

end

/-! ### Results of each list of words -/

section
variable {s : State} (hs : s.Formed) (d a b : BitVec 7)
include hs

theorem resultIn_addWords : ∀ x ∈ addWords d a b, ResultIn x.1 s d fun m => x.2 (s.opA m a) (s.opB m b) := by
  simp only [addWords, List.forall_mem_cons, List.not_mem_nil, IsEmpty.forall_iff, implies_true, and_true]
  exact ⟨resultIn_of_exec hs rfl fun m => (ofNat_add_toNat _ _).symm,
    resultIn_of_exec hs rfl fun m => by rw [cut_sub, cut_toInt, cut_toInt],
    resultIn_of_exec hs rfl fun m => boolWord_decide _,
    resultIn_of_exec hs rfl fun m => boolWord_decide _,
    resultIn_of_exec hs rfl fun m => smin_eq _ _,
    resultIn_of_exec hs rfl fun m => smax_eq _ _,
    resultIn_of_exec hs rfl fun m => umin_eq _ _,
    resultIn_of_exec hs rfl fun m => umax_eq _ _⟩

theorem resultIn_logicWords : ∀ x ∈ logicWords d a b, ResultIn x.1 s d fun m => x.2 (s.opA m a) (s.opB m b) := by
  simp only [logicWords, List.forall_mem_cons, List.not_mem_nil, IsEmpty.forall_iff, implies_true, and_true]
  and_intros
  all_goals exact resultIn_of_exec hs rfl fun m => rfl

theorem resultIn_withImmediate : ∀ x ∈ withImmediate d a b, ResultIn x.1 s d fun m => x.2 (s.opA m a) (immValue s b) := by
  simp only [withImmediate, List.forall_mem_cons, List.not_mem_nil, IsEmpty.forall_iff, implies_true, and_true]
  exact ⟨resultIn_of_exec hs rfl fun m => by rw [cut_add, cut_toInt, cut_immValue],
    resultIn_of_exec hs rfl fun m => by rw [cut_sub, cut_toInt, cut_immValue],
    resultIn_of_exec hs rfl fun m => by rw [smin_eq, toInt_immI],
    resultIn_of_exec hs rfl fun m => by rw [smax_eq, toInt_immI],
    resultIn_of_exec hs rfl fun m => by rw [umin_eq, cut_immValue],
    resultIn_of_exec hs rfl fun m => by rw [umax_eq, cut_immValue],
    resultIn_of_exec hs rfl fun m => by rw [cut_immValue],
    resultIn_of_exec hs rfl fun m => by rw [cut_immValue]⟩

theorem resultIn_multiplyWords : ∀ x ∈ multiplyWords d a b,
    ResultIn x.1 s d fun m => x.2 (s.opD m d) (s.opA m a) (s.opB m b) := by
  simp only [multiplyWords, List.forall_mem_cons, List.not_mem_nil, IsEmpty.forall_iff, implies_true, and_true]
  exact ⟨resultIn_of_exec hs rfl fun m => by rw [cut_mul, cut_toInt, cut_toInt],
    resultIn_of_exec hs rfl fun m => high_sprod _ _,
    resultIn_of_exec hs rfl fun m => high_uprod _ _,
    resultIn_of_exec hs rfl fun m => by rw [cut_add, cut_mul, cut_toInt, cut_toInt, cut_toInt],
    resultIn_of_exec hs rfl fun m => by rw [cut_add, cut_toInt, ← high_sprod],
    resultIn_of_exec hs rfl fun m => sdivR_eq _ _,
    resultIn_of_exec hs rfl fun m => rfl,
    resultIn_of_exec hs rfl fun m => sremR_eq _ _⟩

theorem resultIn_shiftWords : ∀ x ∈ shiftWords d a b, (ResultIn x.1 s d fun m => x.2.2 (s.opA m a) (s.opB m b).toNat) ∧
    ResultIn x.2.1 s d fun m => x.2.2 (s.opA m a) b.toNat := by
  simp only [shiftWords, List.forall_mem_cons, List.not_mem_nil, IsEmpty.forall_iff, implies_true, and_true]
  exact ⟨⟨resultIn_of_exec hs rfl fun m => shlN_eq _ _, resultIn_of_exec hs rfl fun m => shlN_eq _ _⟩,
    ⟨resultIn_of_exec hs rfl fun m => shrN_eq _ _, resultIn_of_exec hs rfl fun m => shrN_eq _ _⟩,
    ⟨resultIn_of_exec hs rfl fun m => sraN_eq (by decide) _ _, resultIn_of_exec hs rfl fun m => sraN_eq (by decide) _ _⟩,
    ⟨resultIn_of_exec hs rfl fun m => rfl, resultIn_of_exec hs rfl fun m => rfl⟩,
    ⟨resultIn_of_exec hs rfl fun m => rfl, resultIn_of_exec hs rfl fun m => rfl⟩⟩

theorem pairIn_pairShifts : ∀ x ∈ pairShifts d a b, (PairIn x.1 s d fun m => x.2.2 (s.opA64 m a) (s.opB m b).toNat) ∧
    PairIn x.2.1 s d fun m => x.2.2 (s.opA64 m a) b.toNat := by
  simp only [pairShifts, List.forall_mem_cons, List.not_mem_nil, IsEmpty.forall_iff, implies_true, and_true]
  exact ⟨⟨pairIn_of_exec hs rfl fun m => rfl, pairIn_of_exec hs rfl fun m => rfl⟩,
    ⟨pairIn_of_exec hs rfl fun m => shrN_eq _ _, pairIn_of_exec hs rfl fun m => shrN_eq _ _⟩,
    ⟨pairIn_of_exec hs rfl fun m => sraN_eq (by decide) _ _, pairIn_of_exec hs rfl fun m => sraN_eq (by decide) _ _⟩⟩

theorem resultIn_bitWords : ∀ x ∈ bitWords d a b, ResultIn x.1 s d fun m => x.2 (s.opD m d) (s.opA m a) (s.opB m b) := by
  simp only [bitWords, List.forall_mem_cons, List.not_mem_nil, IsEmpty.forall_iff, implies_true, and_true]
  exact ⟨resultIn_of_exec hs rfl fun m => congrArg _ (clzN_eq _ 32 (BitVec.isLt _)),
    resultIn_of_exec hs rfl fun m => by rw [List.range_eq_range']; exact congrArg _ (ctzN_eq _ 32 le_rfl),
    resultIn_of_exec hs rfl fun m => congrArg _ (popcN_eq _ 32),
    resultIn_of_exec hs rfl fun m => ofNat_brevN _,
    resultIn_of_exec hs rfl fun m => bfeR_eq _ _,
    resultIn_of_exec hs rfl fun m => bfenR_eq _ _,
    resultIn_of_exec hs rfl fun m => bfiR_eq _ _ _,
    resultIn_of_exec hs rfl fun m => sextR_eq _ _⟩

theorem completes_conditions (d : BitVec 3) : ∀ c ∈ conditions,
    (Completes (c.1 d a b) s fun t => s.Gives t fun m => [.p d.toNat (c.2.2 (s.opA m a) (s.opB m b))]) ∧
    (Completes (c.2.1 d a b) s fun t => s.Gives t fun m => [.p d.toNat (c.2.2 (s.opA m a) (cut (immValue s b)))]) := by
  simp only [conditions, List.forall_mem_cons, List.not_mem_nil, IsEmpty.forall_iff, implies_true, and_true, cut_immValue]
  exact ⟨⟨predicate_of_exec hs rfl fun m => rfl, predicate_of_exec hs rfl fun m => rfl⟩,
    ⟨predicate_of_exec hs rfl fun m => icmp_ne_eq_decide _ _, predicate_of_exec hs rfl fun m => icmp_ne_eq_decide _ _⟩,
    ⟨predicate_of_exec hs rfl fun m => rfl, predicate_of_exec hs rfl fun m => rfl⟩,
    ⟨predicate_of_exec hs rfl fun m => rfl, predicate_of_exec hs rfl fun m => rfl⟩,
    ⟨predicate_of_exec hs rfl fun m => rfl, predicate_of_exec hs rfl fun m => rfl⟩,
    ⟨predicate_of_exec hs rfl fun m => rfl, predicate_of_exec hs rfl fun m => rfl⟩,
    ⟨predicate_of_exec hs rfl fun m => icmp_test_eq_decide _ _, predicate_of_exec hs rfl fun m => icmp_test_eq_decide _ _⟩⟩

theorem completes_predicateWords (d a b : BitVec 3) : ∀ w ∈ predicateWords s d a b,
    Completes w.2.1 s fun t => s.Gives t fun m => [.p d.toNat (w.2.2 m)] := by
  simp only [predicateWords, List.forall_mem_cons, List.not_mem_nil, IsEmpty.forall_iff, implies_true, and_true]
  exact ⟨predicate_of_exec hs rfl fun m => rfl, predicate_of_exec hs rfl fun m => rfl, predicate_of_exec hs rfl fun m => rfl,
    predicate_of_exec hs rfl fun m => rfl, predicate_of_exec hs rfl fun m => rfl,
    predicate_of_exec hs rfl fun m => any_parts s m _, predicate_of_exec hs rfl fun m => all_parts s m _⟩

theorem resultIn_vset (a : BitVec 3) : ResultIn (.vset d a) s d fun m => if (s.str m).pred a.toNat then 1 else 0 :=
  resultIn_of_exec hs rfl fun _ => rfl

theorem resultIn_sel (p : BitVec 3) :
    ResultIn (.sel d a b p) s d fun m => if (s.str m).pred p.toNat then s.opA m a else s.opB m b :=
  resultIn_of_exec hs rfl fun _ => rfl

theorem pairIn_addressWords : ∀ x ∈ addressWords d a b,
    PairIn x.1 s d fun m => x.2 (s.opA64 m a) (s.opB64 m b) (s.opA m a) (s.opB m b) := by
  simp only [addressWords, List.forall_mem_cons, List.not_mem_nil, IsEmpty.forall_iff, implies_true, and_true]
  exact ⟨pairIn_of_exec hs rfl fun m => (ofNat_add_toNat _ _).symm,
    pairIn_of_exec hs rfl fun m => by rw [ofInt_sub, BitVec.ofInt_toInt, BitVec.ofInt_toInt],
    pairIn_of_exec hs rfl fun m => leaR_eq 1 _ _,
    pairIn_of_exec hs rfl fun m => leaR_eq 2 _ _,
    pairIn_of_exec hs rfl fun m => leaR_eq 4 _ _,
    pairIn_of_exec hs rfl fun m => leaR_eq 8 _ _,
    pairIn_of_exec hs rfl fun m => leaR_eq 16 _ _,
    pairIn_of_exec hs rfl fun m => sprod_eq _ _⟩

end

/-! ### What the lists accept -/

/-- A pair shift with an odd D or A is refused (R178). -/
theorem neverLegal_pairShifts {d a : BitVec 7} (b : BitVec 7) (h : d.toNat % 2 = 1 ∨ a.toNat % 2 = 1) :
    ∀ x ∈ pairShifts d a b, NeverLegal x.1 ∧ NeverLegal x.2.1 := by
  simp only [pairShifts, List.forall_mem_cons, List.not_mem_nil, IsEmpty.forall_iff, implies_true, and_true]
  rcases h with h | h
  · and_intros
    all_goals exact neverLegal_of_d fun _ k => ok_odd_pair h _ _ k _
  · and_intros
    all_goals exact neverLegal_of_a fun _ k asK => ok_odd_pair h _ _ k asK

/-- D of address arithmetic is an even pair (R183). -/
theorem neverLegal_addressWords {d : BitVec 7} (a b : BitVec 7) (h : d.toNat % 2 = 1) : ∀ x ∈ addressWords d a b, NeverLegal x.1 := by
  simp only [addressWords, List.forall_mem_cons, List.not_mem_nil, IsEmpty.forall_iff, implies_true, and_true]
  and_intros
  all_goals exact neverLegal_of_d fun _ k => ok_odd_pair h _ _ k _

theorem plainV_vset (d : BitVec 7) (a : BitVec 3) : PlainV (.vset d a) := fun _ => ⟨rfl, rfl⟩
theorem plainV_sel (d a b : BitVec 7) (p : BitVec 3) : PlainV (.sel d a b p) := fun _ => ⟨rfl, rfl⟩

/-- Predicate words accept no rounding mode, and no uniform register in place of a predicate (R21, R181). -/
theorem accepts_predicateWords (s : State) (d a b : BitVec 3) : ∀ w ∈ predicateWords s d a b, NoRm w.2.1 ∧ NoUniform w.2.1 := by
  simp only [predicateWords, List.forall_mem_cons, List.not_mem_nil, IsEmpty.forall_iff, implies_true, and_true]
  refine ⟨?_, ?_, ?_, ?_, ?_, ?_, ?_⟩
  all_goals exact ⟨PlainV.noRm fun _ => ⟨rfl, rfl⟩, noUniform_of_sig fun _ => ⟨rfl, rfl⟩⟩

/-! ### The obligations -/

/-- Settles O1: each result is outstanding in every acting strand and equals the number of R174 or R177, and the words decode in the
order of FN. -/
theorem addAndLogicWords : Obligations.AddAndLogicWords := by
  refine ⟨fun s d a b hs => ⟨?_, resultIn_withImmediate hs d a b, resultIn_of_exec hs rfl fun _ => rfl⟩, fun d a b => ?_,
    by decide, by decide, by decide⟩
  · exact List.forall_mem_append.mpr ⟨resultIn_addWords hs d a b, resultIn_logicWords hs d a b⟩
  · exact ⟨encodes_formatA (reads_addWords d a b), encodes_formatI (reads_withImmediate d a b),
      encodes_formatA (reads_logicWords d a b), isV_formatA (decodeInstr_not d a), isIllegal_not d a, isIllegal_logic_reserved d a b⟩

/-- Settles O2: products are exact before they are cut, and the model's case for −2^31 by −1 is the cut of the exact quotient. -/
theorem multiplyWords : Obligations.MultiplyWords :=
  ⟨fun _ d a b hs => resultIn_multiplyWords hs d a b, fun d a b => encodes_formatA (reads_multiplyWords d a b), by decide⟩

/-- Settles O3: shifts and bit counts by recursion on the bits, fields bit by bit. -/
theorem shiftAndBitFieldWords : Obligations.ShiftAndBitFieldWords :=
  ⟨fun _ d a b hs => ⟨resultIn_shiftWords hs d a b, pairIn_pairShifts hs d a b, resultIn_bitWords hs d a b⟩,
    fun d a b => ⟨encodes_formatA (reads_shiftWords d a b), encodes_formatI (reads_shiftWords_imm d a b),
      encodes_formatA (reads_pairShifts d a b), encodes_formatI (reads_pairShifts_imm d a b), neverLegal_pairShifts b,
      encodes_formatA (reads_bitCounts d a b), encodes_formatA (reads_bitFields d a b)⟩,
    by decide, by decide, by decide⟩

/-- Settles O4: the fields of a predicate word hold 3-bit numbers, and any other content is illegal. -/
theorem compareAndPredicateWords : Obligations.CompareAndPredicateWords := by
  refine ⟨fun s d a b p v x y hs => ⟨completes_conditions hs x y d, fun w hw => ?_, resultIn_vset hs v a, (plainV_vset v a).noRm,
      noUniform_of_sig fun _ => ⟨rfl, rfl⟩, isV_formatA (decodeInstr_vset v a), resultIn_sel hs v x y p, (plainV_sel v x y p).noRm,
      isV_formatA (decodeInstr_sel v x y p)⟩,
    fun d a b => ⟨encodes_formatA (reads_conditions a b d), encodes_formatI (reads_conditions_imm a b d)⟩,
    fun d a b fn => ⟨isIllegal_compare d a b, isIllegal_predicateWord d a b⟩,
    fun x v => ⟨x.setPred_zero v, x.pred_zero⟩, by decide, by decide, by decide, by decide, by decide⟩
  obtain ⟨hrm, hu⟩ := accepts_predicateWords s d a b w hw
  exact ⟨completes_predicateWords hs d a b w hw, hrm, hu, fun h => isV_formatA (decodeInstr_predicateWords s d a b w hw h)⟩

/-- Settles O5: pair arithmetic is that of numbers cut to 64 bits, and `movi`'s immediate is cut to 32. -/
theorem addressWords : Obligations.AddressWords :=
  ⟨fun s d a b l hs => ⟨pairIn_addressWords hs d a b, resultIn_of_exec hs rfl fun _ => immL_eq s l⟩,
    fun d a b l => ⟨encodes_formatA (reads_addressWords d a b), neverLegal_addressWords a b, isV_movi d l⟩,
    by decide, by decide, by decide, by decide⟩

end Sys2Proof.LaneArithmetic
end
